-- ==== Sys2Proof/Word.lean ====
section
/-!
DEFINITION. Sys2Proof/Word.lean: the word types of the Farulo FX48 (spec/00 R3, R6; spec/03 R55; spec/10 R178, R194).
-/
namespace Sys2Proof

/-- A scalar register, pointer or control register: 64 bits (spec/03 R55). -/
abbrev Word := BitVec 64

/-- The smallest addressable unit of memory (spec/00 R3). -/
abbrev Byte := BitVec 8

/-- One instruction word (spec/00 R3, spec/03 R40). -/
abbrev Insn := BitVec 32

/-- One vector register: 512 bytes, the byte at the lowest address in bits [7:0] (spec/11 R197). -/
abbrev VReg := BitVec 4096

/-- One accumulator element of a panel: COUNT in [71:56], value in [55:0] (spec/10 R194). -/
abbrev Elem := BitVec 72

/-- A scalar register number s0 to s31 (spec/03 R41). -/
abbrev Reg := BitVec 5

/-- A vector register number v0 to v15, or a scalar s0 to s15 named by a 4-bit field (spec/03 R41; spec/11 R198). -/
abbrev VNum := BitVec 4

end Sys2Proof
end

