-- ==== Sys2Proof/Syntax.lean ====
section
/-!
DEFINITION. Sys2Proof/Syntax.lean: the rows of the opcode table as one inductive type, with the field types they use.
A row with an encoding (spec/03 R40 to R51) carries its decoded fields. A row that is another step of the part
(spec/95) carries none: what picks the step out (a tile, a slot, the place of an access in the list of accesses in
flight, an input from outside) is an `EvArg`, which stands in the state beside it.
-/
namespace Sys2Proof

/-! ### Fields of encoded words -/

/-- The FV type codes 0x0 to 0xD (spec/03 R49, spec/10 R178). -/
inductive ElemTy where
  | i4 | i8 | i16 | i32 | i64 | n8 | n16 | n32 | n64 | f32 | bf16 | h16 | e8s | b8
  deriving DecidableEq, Repr

/-- The rounding modes (spec/03 R49, spec/10 R189). -/
inductive Rnd where
  | rne | rtz | rup | rdn | rto
  deriving DecidableEq, Repr

/-- The size codes of loads (spec/03 R42). -/
inductive LdSize where
  | b | bz | h | hz | w | wz | d
  deriving DecidableEq, Repr

/-- The size codes of stores: the even codes only (spec/03 R42). -/
inductive StSize where
  | b | h | w | d
  deriving DecidableEq, Repr

/-- The TYPE field of atomics and reductions (spec/07 R127, R132). -/
inductive AmoTy where
  | d | w | f32 | bf16 | h16
  deriving DecidableEq, Repr

/-- The atomic operations (spec/07 R127). -/
inductive AmoOp where
  | add | and | or | xor | min | max | minn | maxn | xchg | cas | fadd | fmax | fmin | amaxx
  deriving DecidableEq, Repr

/-- The SCOPE field of atomics (spec/07 R127, R128). -/
inductive AccScope where
  | tile | plot | wafer | system
  deriving DecidableEq, Repr

/-- The SCOPE field of fences (spec/07 R134, spec/08 R156). -/
inductive FenceScope where
  | slot | core | tile | plot | wafer | system
  deriving DecidableEq, Repr

/-- The control registers (spec/03 R56). -/
inductive Csr where
  | status | ctxid | slot | trapc | trapv | budget | clkmode | loopst | leesc | fecfg
  deriving DecidableEq, Repr

/-- The engines of format FC (spec/03 R49). -/
inductive Eng where
  | me | ce | de
  deriving DecidableEq, Repr

/-! ### What picks out the other steps of the part -/

/-- A core slot: the grid index 176 * Y + X of its tile (spec/14 R249), its logical core and its slot number. -/
structure SlotLoc where
  tile : Nat
  core : Nat
  slot : Nat
  deriving DecidableEq, Repr

/-- The two paths of a matrix unit (spec/13 R242). -/
inductive MxPath where
  | array | transfer
  deriving DecidableEq, Repr

/-- What a translation invalidation names (spec/06 R111). -/
inductive InvScope where
  | va (asid va : Nat)
  | asid (asid : Nat)
  | all
  deriving DecidableEq, Repr

/-- What the cellar reads or writes of a halted slot (spec/17 R286). A loop level is given in the 16-byte form of
spec/03 R55. -/
inductive CellReg where
  | s (i : Reg)
  | v (i : VNum)
  | lc (i : Nat)
  | level (i : Nat)
  | pc
  | csr (c : Csr)
  deriving DecidableEq, Repr

/-- A step command names a slot, or a stage of a plot (spec/17 R287, spec/18 R301). -/
inductive StepTarget where
  | slot (loc : SlotLoc)
  | stage (plot stage : Nat)
  deriving DecidableEq, Repr

/-- What a freeze or a thaw names (spec/18 R301). -/
inductive FreezeScope where
  | slot (loc : SlotLoc)
  | tile (tile : Nat)
  | stage (plot stage : Nat)
  | plot (plot : Nat)
  deriving DecidableEq, Repr

/-- A mesh link between two router positions (spec/18 R289). -/
structure Link where
  src : Nat
  dst : Nat
  deriving DecidableEq, Repr

/-- What a correctable-error counter belongs to (spec/18 R304). -/
inductive ErrCounter where
  | tile (tile : Nat)
  | port (port : Nat)
  deriving DecidableEq, Repr

/-- A counter that the cellar reads through the management plane (spec/18 R304, R306; spec/19 R325). -/
inductive Counter where
  | corrected (c : ErrCounter)
  | truncated (port : Link)
  | retries (link : Link) (lane : Nat)
  | authFailures (port : Nat)
  deriving DecidableEq, Repr

/-- Where an uncorrectable error is met, or a corrected one counted (spec/18 R304, R305). -/
inductive EccSite where
  /-- the data of an access in flight -/
  | flight (n : Nat)
  /-- the word that the slot fetches next, or the literal that its `ldl` reads -/
  | fetch (loc : SlotLoc) (literal : Bool)
  /-- a line the engine reads next; the core picks a matrix queue -/
  | engine (tile : Nat) (e : Eng) (core : Nat)
  /-- a byte of a waiting context of the shadow store -/
  | shadow (tile : Nat) (side : Bool) (off : Nat)
  /-- an error that ECC corrects -/
  | corrected (c : ErrCounter)
  deriving DecidableEq, Repr

/-- An Ultra Ethernet message at a port (spec/19 R325, R327). -/
structure UeMessage where
  port : Nat
  key : Nat
  flow : Nat
  authentic : Bool
  data : List Byte
  deriving DecidableEq, Repr

/-- A DMA access of an NVMe device (spec/19 R328). -/
structure DmaRequest where
  port : Nat
  asid : Nat
  va : Nat
  write : Bool
  len : Nat
  data : List Byte
  deriving DecidableEq, Repr

/-- What a peer device asks of a Trellis port: a system-scope atomic, or the store of a replica-set member (spec/19
R324). -/
inductive PeerOp where
  | amo (op : AmoOp) (ty : AmoTy) (x cmp : Word)
  | store (x : Word)
  deriving DecidableEq, Repr

/-- An access of a peer device at a Trellis port (spec/19 R324). -/
structure PeerRequest where
  port : Nat
  asid : Nat
  va : Nat
  op : PeerOp
  deriving DecidableEq, Repr

/-- What a host access names in a function's registers: the features offered, a field of the device's configuration, or
another register by its offset (spec/19 R317). -/
inductive HostReg where
  | features
  | maxPairs
  | mtu
  | maxPorts
  | offset (n : Nat)
  deriving DecidableEq, Repr

/-- A DMA access of an endpoint's function to host memory; one that ends a piece of work raises an interrupt (spec/19
R317). -/
structure HostDma where
  endpoint : Nat
  fn : Nat
  addr : Nat
  write : Bool
  len : Nat
  data : List Byte
  interrupt : Bool
  deriving DecidableEq, Repr

/-- A host access to an endpoint (spec/19 R317). -/
structure HostRequest where
  endpoint : Nat
  fn : Nat
  reg : HostReg
  write : Bool
  value : Word
  deriving DecidableEq, Repr

/-- A job offered to Rolruica (spec/19 R318). -/
structure Job where
  tenant : Nat
  manifest : List Byte
  signature : List Byte
  key : Nat
  layers : List (List Byte)
  digests : List (List Byte)
  deriving DecidableEq, Repr

/-- A word of an image that names a label which is resolved at load: its byte offset in its section, and the label as an
offset in the `.data` segment or in the code image (spec/01 R13, R14). -/
structure Reloc where
  pos : Nat
  data : Bool
  off : Nat
  deriving DecidableEq, Repr

/-- A value of an image (spec/01 R13, R14). -/
inductive ImgValue where
  | const (w : Word)
  | label (data : Bool) (off : Nat)
  deriving DecidableEq, Repr

/-- A scratchpad section of an image: its bytes and the offsets of its words that load empty (spec/01 R14). -/
structure ScratchSec where
  tile : Nat
  off : Nat
  bytes : List Byte
  empties : List Nat
  relocs : List Reloc
  deriving DecidableEq, Repr

/-- A section of an image at a virtual address (spec/01 R14). -/
structure EdgeSec where
  va : Nat
  bytes : List Byte
  relocs : List Reloc
  deriving DecidableEq, Repr

/-- Cask data of an image, in half A (spec/01 R14). -/
structure CaskSec where
  tile : Nat
  off : Nat
  bytes : List Byte
  relocs : List Reloc
  deriving DecidableEq, Repr

/-- A task block of an image (spec/01 R13). Names are numbers here; `entry` is a byte offset in the code image. -/
structure Task where
  name : Nat
  tile : Nat
  depth : Nat
  mask : Nat
  prio : Nat
  age : Bool
  cls : Nat
  energy : Nat
  current : Nat
  stage : Nat
  params : List (Nat × ImgValue)
  entry : Nat
  ready : Nat
  deriving DecidableEq, Repr

/-- An image as the launcher reads it (spec/01 R13 to R16, spec/05 R89). `raw` holds its bytes as
read, which are measured (spec/19 R338). -/
structure Image where
  w : Nat
  h : Nat
  plumb : Bool
  /-- the logical tiles that have code sections -/
  codeTiles : List Nat
  code : List Insn
  codeRelocs : List Reloc
  scratch : List ScratchSec
  edge : List EdgeSec
  data : List Byte
  dataRelocs : List Reloc
  cask : List CaskSec
  tasks : List Task
  raw : List Byte
  deriving DecidableEq, Repr, Inhabited

/-- A parameter override of a launch packet (spec/14 R254). -/
structure Override where
  task : Nat
  param : Nat
  value : Word
  deriving DecidableEq, Repr

/-- An object request of a launch packet; `expect` is none for the word CORES (spec/14 R254). -/
structure ObjectReq where
  kindKnown : Bool
  plotBarrier : Bool
  expect : Option Nat
  param : Nat
  deriving DecidableEq, Repr

/-- What a launch packet asks to run on: a shape, or a live plot of the tenant (spec/14 R254). -/
inductive PlotReq where
  | shape (w h : Nat) (origin : Option (Nat × Nat))
  | reuse (plot : Nat)
  deriving DecidableEq, Repr, Inhabited

/-- A launch packet (spec/14 R254, spec/19 R319). `image` is none where it cannot be read. `codeBase` and `dataBase`
are the addresses the launcher chooses. -/
structure LaunchPacket where
  source : Nat
  authentic : Bool
  /-- the sending Trellis device, for a packet of source 1 that comes by Trellis (spec/19 R319) -/
  peer : Option Nat
  tenant : Nat
  imageVa : Nat
  image : Option Image
  place : PlotReq
  overrides : List Override
  objects : List ObjectReq
  codeBase : Nat
  dataBase : Nat
  deriving DecidableEq, Repr, Inhabited

/-- The two grades of the part (spec/00 R1). -/
inductive Grade where
  | fx48 | fx48_7
  deriving DecidableEq, Repr

/-- What boot reads: the two images with their signatures, the fuses as measured, and what the fuses and the self-tests
say: bad physical cores of tiles, bad banks, columns of dies that are shifted, lanes and Trellis ports that a spare
replaces, and bad cellar cores (spec/19 R337). -/
structure BootInput where
  pyunsin : List Byte
  pyunsinSig : List Byte
  rolruica : List Byte
  rolruicaSig : List Byte
  configData : List Byte
  grade : Grade
  substitutions : Nat
  badCores : List (Nat × Nat)
  badBanks : List Nat
  shifted : List (Nat × Nat)
  badLanes : List (Link × Nat)
  badPorts : List Nat
  badCellarCores : List (Nat × Nat)
  deriving DecidableEq, Repr

/-- A setting written by Pyunsin or Rolruica that has no row of its own (spec/16 R273, R275, R281; spec/18 R302;
spec/19 R323 to R325), and the readings of the rails and sensors (spec/16 R273). -/
inductive Setting where
  | reserves (tile r0 r1 r2 r3 : Nat)
  | budgets (tile enom inom eboost iboost : Nat)
  | dieLimit (die mA : Nat)
  | tileLimit (tile tenths : Nat)
  | railPeak (die mA : Nat)
  | sensor (tile tenths : Nat)
  | stagger (period offset : Nat)
  | deviceId (id : Nat)
  | ueKey (port n tenant : Nat)
  | launchPeer (tenant device : Nat)
  | enrolKey (tenant key : Nat)
  | systemRange (asid va len home : Nat)
  | ioQueues (port asid va len : Nat)
  | breakpoint (tile core n : Nat) (w : Word)
  | watchpoint (tile core n : Nat) (w0 w1 : Word)
  | pageEntry (pa : Nat) (entry : Word)
  | tableRoot (asid pa : Nat)
  deriving DecidableEq, Repr


/-- What an occurrence of another step of the part is about. -/
inductive EvArg where
  | none
  /-- a tile, by its grid index -/
  | tile (tile : Nat)
  /-- an access, message or packet, by its place in the list of accesses in flight -/
  | flight (n : Nat)
  /-- a continuation record, by its byte offset in record memory -/
  | record (tile off : Nat)
  | slot (loc : SlotLoc)
  | queue (tile queue : Nat)
  | line (tile line : Nat)
  | path (tile : Nat) (path : MxPath)
  | core (tile core : Nat)
  | batch (die batch : Nat) (resolved : Bool)
  | inv (inv : InvScope)
  | ring (die ring : Nat) (fault : Bool)
  | read (loc : SlotLoc) (r : CellReg)
  | write (loc : SlotLoc) (r : CellReg) (value : Nat) (full : Bool)
  | step (target : StepTarget)
  | scope (sc : FreezeScope)
  | plot (plot : Nat)
  | hop (n : Nat) (alongY : Bool)
  | lane (link : Link) (lane : Nat)
  | site (site : EccSite)
  | context (tile : Nat) (side toEdge : Bool)
  | bank (tile bank : Nat)
  | spare (die core : Nat)
  | port (port : Nat)
  | millivolts (tile mv : Nat)
  | refresh (bank : Nat)
  | time (t : Nat)
  | launch (p : LaunchPacket)
  | ue (m : UeMessage)
  | dma (d : DmaRequest)
  | host (acc : HostRequest)
  | hostDma (d : HostDma)
  | peer (r : PeerRequest)
  | counter (c : Counter)
  | job (job : Job)
  | bind (tile queue : Nat) (w0 w1 : Word)
  | launchTable (tenant : Nat) (w0 w1 : Word)
  | setting (setting : Setting)
  | boot (b : BootInput)
  deriving DecidableEq, Repr

/-! ### The rows of the opcode table -/

/-- One constructor per row of spec/opcode_table.json: first the 242 rows with an encoding, then the 95 other steps. -/
inductive Instr where
  /-- R65: Writes the 64-bit sum of s[a] and s[b], wrapping modulo 2^64. -/
  | add (d a b : Reg) (wa wb : Bool)
  /-- R65: Writes s[a] minus s[b], wrapping modulo 2^64. -/
  | sub (d a b : Reg) (wa wb : Bool)
  /-- R65: Writes the low 64 bits of the product of s[a] and s[b]. -/
  | mul (d a b : Reg) (wa wb : Bool)
  /-- R65: Writes the high half of the 128-bit signed product. -/
  | mulh (d a b : Reg) (wa wb : Bool)
  /-- R65: Writes the high half of the 128-bit unsigned product. -/
  | mulhn (d a b : Reg) (wa wb : Bool)
  /-- R65: Writes the signed quotient truncated toward zero; division by zero and the one overflow give defined results. -/
  | div (d a b : Reg) (wa wb : Bool)
  /-- R65: Writes the unsigned quotient, or all ones on division by zero. -/
  | divn (d a b : Reg) (wa wb : Bool)
  /-- R65: Writes the signed remainder with the sign of the dividend. -/
  | rem (d a b : Reg) (wa wb : Bool)
  /-- R65: Writes the unsigned remainder, or the dividend on division by zero. -/
  | remn (d a b : Reg) (wa wb : Bool)
  /-- R65: Writes the bitwise and of s[a] and s[b]. -/
  | and (d a b : Reg) (wa wb : Bool)
  /-- R65: Writes the bitwise or of s[a] and s[b]. -/
  | or (d a b : Reg) (wa wb : Bool)
  /-- R65: Writes the bitwise exclusive or of s[a] and s[b]. -/
  | xor (d a b : Reg) (wa wb : Bool)
  /-- R65: Writes s[a] and not s[b]. -/
  | andn (d a b : Reg) (wa wb : Bool)
  /-- R65: Writes s[a] or not s[b]. -/
  | orn (d a b : Reg) (wa wb : Bool)
  /-- R65: Shifts s[a] left by s[b][5:0]. -/
  | shl (d a b : Reg) (wa wb : Bool)
  /-- R65: Shifts s[a] right logically by s[b][5:0]. -/
  | shr (d a b : Reg) (wa wb : Bool)
  /-- R65: Shifts s[a] right arithmetically by s[b][5:0]. -/
  | sra (d a b : Reg) (wa wb : Bool)
  /-- R65: Rotates s[a] left by s[b][5:0]. -/
  | rol (d a b : Reg) (wa wb : Bool)
  /-- R65: Rotates s[a] right by s[b][5:0]. -/
  | ror (d a b : Reg) (wa wb : Bool)
  /-- R65: Writes the number of leading zero bits of s[a]. -/
  | clz (d a : Reg) (wa : Bool)
  /-- R65: Writes the number of trailing zero bits of s[a]. -/
  | ctz (d a : Reg) (wa : Bool)
  /-- R65: Writes the number of one bits of s[a]. -/
  | popc (d a : Reg) (wa : Bool)
  /-- R65: Writes the signed minimum of s[a] and s[b]. -/
  | min (d a b : Reg) (wa wb : Bool)
  /-- R65: Writes the signed maximum of s[a] and s[b]. -/
  | max (d a b : Reg) (wa wb : Bool)
  /-- R65: Writes the unsigned minimum of s[a] and s[b]. -/
  | minn (d a b : Reg) (wa wb : Bool)
  /-- R65: Writes the unsigned maximum of s[a] and s[b]. -/
  | maxn (d a b : Reg) (wa wb : Bool)
  /-- R65: Sign-extends the low s[b][5:0] bits of s[a], 0 meaning 64. -/
  | sext (d a b : Reg) (wa wb : Bool)
  /-- R65: Zero-extends the low s[b][5:0] bits of s[a], 0 meaning 64. -/
  | zext (d a b : Reg) (wa wb : Bool)
  /-- R65: Writes 1 if s[a] is signed-less than s[b], else 0. -/
  | slt (d a b : Reg) (wa wb : Bool)
  /-- R65: Writes 1 if s[a] is unsigned-less than s[b], else 0. -/
  | sltn (d a b : Reg) (wa wb : Bool)
  /-- R65: Writes 1 if s[a] equals s[b], else 0. -/
  | seq (d a b : Reg) (wa wb : Bool)
  /-- R65: Writes 1 if s[a] differs from s[b], else 0. -/
  | sne (d a b : Reg) (wa wb : Bool)
  /-- R66: Adds the sign-extended 15-bit immediate to s[a]. -/
  | addi (d a : Reg) (imm : BitVec 15) (wa : Bool)
  /-- R66: Ands s[a] with the sign-extended immediate. -/
  | andi (d a : Reg) (imm : BitVec 15) (wa : Bool)
  /-- R66: Ors s[a] with the sign-extended immediate. -/
  | ori (d a : Reg) (imm : BitVec 15) (wa : Bool)
  /-- R66: Exclusive-ors s[a] with the sign-extended immediate. -/
  | xori (d a : Reg) (imm : BitVec 15) (wa : Bool)
  /-- R67: Shifts s[a] left by an immediate amount 0 to 63. -/
  | shli (d a : Reg) (n : BitVec 6) (wa : Bool)
  /-- R67: Shifts s[a] right logically by an immediate amount. -/
  | shri (d a : Reg) (n : BitVec 6) (wa : Bool)
  /-- R67: Shifts s[a] right arithmetically by an immediate amount. -/
  | srai (d a : Reg) (n : BitVec 6) (wa : Bool)
  /-- R68: Writes 1 if s[a] is signed-less than a 14-bit signed immediate. -/
  | slti (d a : Reg) (imm : BitVec 14) (wa : Bool)
  /-- R68: Writes 1 if s[a] is unsigned-less than a 14-bit unsigned immediate. -/
  | sltni (d a : Reg) (imm : BitVec 14) (wa : Bool)
  /-- R69: Adds the immediate shifted left by 49 to s[a]. -/
  | lih (d a : Reg) (imm : BitVec 15) (wa : Bool)
  /-- R70: Writes the global virtual address of a code label relative to the PC. -/
  | lea (d : Reg) (h : Bool) (off : BitVec 18)
  /-- R99: Classifies a pointer without trapping on its value. -/
  | winq (d a : Reg) (wa : Bool)
  /-- R100: Casts a slot-owned or plot-shared pointer to the tile-scratchpad window 0x9 form. -/
  | wincLc (d a : Reg) (wa : Bool)
  /-- R100: Casts a slot-owned or tile-scratchpad pointer to the plot-shared window 0xA form. -/
  | wincSh (d a : Reg) (wa : Bool)
  /-- R101: Adds a signed value to a pointer's offset, trapping if it leaves the window. -/
  | addp (d a b : Reg) (wa wb : Bool)
  /-- R71: Reads a literal-pool entry through the instruction cache as a long-latency producer. -/
  | ldl (d : Reg) (z : LdSize) (off : BitVec 18)
  /-- R73: Branches when s[a] equals s[b]. -/
  | brEq (a b : Reg) (off : BitVec 13)
  /-- R73: Branches when s[a] differs from s[b]. -/
  | brNe (a b : Reg) (off : BitVec 13)
  /-- R73: Branches when s[a] is signed-less than s[b]. -/
  | brLt (a b : Reg) (off : BitVec 13)
  /-- R73: Branches when s[a] is signed-greater-or-equal to s[b]. -/
  | brGe (a b : Reg) (off : BitVec 13)
  /-- R73: Branches when s[a] is unsigned-less than s[b]. -/
  | brLtn (a b : Reg) (off : BitVec 13)
  /-- R73: Branches when s[a] is unsigned-greater-or-equal to s[b]. -/
  | brGen (a b : Reg) (off : BitVec 13)
  /-- R74: Jumps to its own address plus a signed word offset. -/
  | jmp (off : BitVec 26)
  /-- R74: Jumps and writes the return address into s31. -/
  | jal (off : BitVec 26)
  /-- R75: Jumps to the address in s[a], popping loop levels that do not contain the target. -/
  | jr (a : Reg) (wa : Bool)
  /-- R75: Jumps to the address in s[a] and writes the return address into s[d]. -/
  | jalr (d a : Reg) (wa : Bool)
  /-- R76: Starts a hardware loop counted by a register. -/
  | loop (lvl : BitVec 2) (a : Reg) (len : BitVec 9)
  /-- R76: Starts a hardware loop counted by an immediate. -/
  | loopi (lvl : BitVec 2) (count : BitVec 14) (len : BitVec 9)
  /-- R80: Leaves the loop level that holds lcN and every level inside it. -/
  | lbrk (lvl : BitVec 2)
  /-- R34: Leaves the slot with the record made ready again behind older records. -/
  | yield
  /-- R34: Consumes a notice for the tag, or suspends the record waiting for one. -/
  | suspTag (d a : Reg) (wa : Bool)
  /-- R34: Continues if the own-tile word is full, else suspends until it becomes full. -/
  | suspFull (a : Reg) (wa : Bool)
  /-- R34: Continues if the word differs from s[b], else suspends until a write completes at it. -/
  | suspChg (a b : Reg) (wa wb : Bool)
  /-- R34: Suspends until the barrier's pending phase completes. -/
  | suspBar (a : Reg) (wa : Bool)
  /-- R34: Continues if the record's operations on the engine are done, else suspends for them. -/
  | suspEng (a : Reg) (wa : Bool)
  /-- R34: Continues if all carried registers are full, else suspends for call replies. -/
  | suspCall
  /-- R34: Continues if wafer time has reached s[a], else suspends until it does. -/
  | suspTime (a : Reg) (wa : Bool)
  /-- R35: Leaves the slot with state 5 and cancels the record's posted receives and notices. -/
  | retire
  /-- R36: Makes a new ready record in a target queue carrying the spawner's s1 to s6. -/
  | spawn (d a b : Reg) (wa wb : Bool)
  /-- R37: Makes a waiting record ready and returns its previous state. -/
  | wake (d a : Reg) (wa : Bool)
  /-- R38: Writes the window 0x9 pointer to the running record. -/
  | recp (d : Reg)
  /-- R223: Returns the plot's cores per tile, tile count, height and width, late. -/
  | topo (d : Reg)
  /-- R260: Returns the CTXID register. -/
  | ctxid (d : Reg)
  /-- R260: Returns the running record's stage and the launch's last stage. -/
  | stage (d : Reg)
  /-- R270: Returns wafer time in nanoseconds. -/
  | time (d : Reg)
  /-- R271: Returns the elastic cycle count or the plumb plot cycle count. -/
  | cyc (d : Reg)
  /-- R83: Reads a control register. -/
  | csrrd (d : Reg) (c : Csr)
  /-- R83: Writes the writable fields of a control register and returns its old value. -/
  | csrwr (d : Reg) (c : Csr) (a : Reg) (wa : Bool)
  /-- R83: Sets writable bits of a control register by a mask and returns its old value. -/
  | csrset (d : Reg) (c : Csr) (a : Reg) (wa : Bool)
  /-- R83: Clears writable bits of a control register by a mask and returns its old value. -/
  | csrclr (d : Reg) (c : Csr) (a : Reg) (wa : Bool)
  /-- R121: Loads 1 to 8 bytes through a pointer and extends them as a long-latency producer. -/
  | ld (d base : Reg) (wa : Bool) (z : LdSize) (off : BitVec 12)
  /-- R121: Posts a store of the low 1, 2, 4 or 8 bytes of s[d] through a pointer. -/
  | st (d base : Reg) (wa : Bool) (z : StSize) (off : BitVec 12)
  /-- R123: Waits at the word until it is full and returns its value. -/
  | ldf (d base : Reg) (wa : Bool) (off : BitVec 12)
  /-- R123: Waits until the word is full, returns its value and makes it empty. -/
  | ldfe (d base : Reg) (wa : Bool) (off : BitVec 12)
  /-- R123: Waits until the word is empty, writes s[d] and makes it full. -/
  | ste (d base : Reg) (wa : Bool) (off : BitVec 12)
  /-- R123: Writes s[d] to the word and makes it full. -/
  | stf (d base : Reg) (wa : Bool) (off : BitVec 12)
  /-- R123: Returns whether the word was full and makes it empty. -/
  | feClr (d base : Reg) (wa : Bool) (off : BitVec 12)
  /-- R123: Returns whether the word is full. -/
  | feTst (d base : Reg) (wa : Bool) (off : BitVec 12)
  /-- R123: Parks until a write completes at the word and returns the value after it. -/
  | waita (d base : Reg) (wa : Bool) (off : BitVec 12)
  /-- R126: Hints a translation of a window 0x0 page, dropping any failure. -/
  | pref (base : Reg) (wa : Bool) (off : BitVec 12)
  /-- R104: Returns the start of the current or next refresh window of a cask pointer's bank. -/
  | refq (d base : Reg) (wa : Bool) (off : BitVec 12)
  /-- R129: Atomically adds the operand to the word and returns the old value. -/
  | amoAdd (d a b : Reg) (wa wb : Bool) (sc : AccScope) (ty : AmoTy)
  /-- R129: Atomically ands the operand into the word. -/
  | amoAnd (d a b : Reg) (wa wb : Bool) (sc : AccScope) (ty : AmoTy)
  /-- R129: Atomically ors the operand into the word. -/
  | amoOr (d a b : Reg) (wa wb : Bool) (sc : AccScope) (ty : AmoTy)
  /-- R129: Atomically exclusive-ors the operand into the word. -/
  | amoXor (d a b : Reg) (wa wb : Bool) (sc : AccScope) (ty : AmoTy)
  /-- R129: Atomically keeps the signed minimum. -/
  | amoMin (d a b : Reg) (wa wb : Bool) (sc : AccScope) (ty : AmoTy)
  /-- R129: Atomically keeps the signed maximum. -/
  | amoMax (d a b : Reg) (wa wb : Bool) (sc : AccScope) (ty : AmoTy)
  /-- R129: Atomically keeps the unsigned minimum. -/
  | amoMinn (d a b : Reg) (wa wb : Bool) (sc : AccScope) (ty : AmoTy)
  /-- R129: Atomically keeps the unsigned maximum. -/
  | amoMaxn (d a b : Reg) (wa wb : Bool) (sc : AccScope) (ty : AmoTy)
  /-- R129: Atomically exchanges the operand with the word. -/
  | amoXchg (d a b : Reg) (wa wb : Bool) (sc : AccScope) (ty : AmoTy)
  /-- R129: Atomically writes the operand if the word equals the comparand in s[d]. -/
  | amoCas (d a b : Reg) (wa wb : Bool) (sc : AccScope) (ty : AmoTy)
  /-- R130: Atomically adds a float operand, ABSENT being the identity. -/
  | amoFadd (d a b : Reg) (wa wb : Bool) (sc : AccScope) (ty : AmoTy)
  /-- R130: Atomically keeps the float maximum. -/
  | amoFmax (d a b : Reg) (wa wb : Bool) (sc : AccScope) (ty : AmoTy)
  /-- R130: Atomically keeps the float minimum. -/
  | amoFmin (d a b : Reg) (wa wb : Bool) (sc : AccScope) (ty : AmoTy)
  /-- R130: Returns the old value and makes the word ABSENT in one step. -/
  | amoAmaxx (d a : Reg) (wa : Bool) (sc : AccScope) (ty : AmoTy)
  /-- R133: Adds an integer contribution to the core's hidden accumulator of the word. -/
  | redAdd (a b : Reg) (wa wb : Bool) (ty : AmoTy)
  /-- R133: Adds a float contribution to the core's hidden accumulator of the word. -/
  | redFadd (a b : Reg) (wa wb : Bool) (ty : AmoTy)
  /-- R133: Folds a float maximum contribution into the core's hidden accumulator. -/
  | redFmax (a b : Reg) (wa wb : Bool) (ty : AmoTy)
  /-- R135: Stalls until the predecessor accesses are performed, ordering the successor set. -/
  | fence (pred succ : BitVec 5) (peng seng : Bool) (sc : FenceScope)
  /-- R166: Full fence that completes when the slot's writes are visible on every die of its scope, in a total order. -/
  | fenceSc (sc : FenceScope)
  /-- R138: Sets a barrier's expected count now or for the next phase. -/
  | bini (a b : Reg) (wa wb : Bool)
  /-- R138: Arrives at a tile barrier and returns its status late. -/
  | barv (d a : Reg) (wa : Bool)
  /-- R138: Arrives at a barrier and drops one from the expected count of later phases. -/
  | bard (d a : Reg) (wa : Bool)
  /-- R138: Stalls until the named phase has completed and returns the status. -/
  | bwait (d a b : Reg) (wa wb : Bool)
  /-- R138: Returns whether the named phase has completed, without waiting. -/
  | btst (d a b : Reg) (wa wb : Bool)
  /-- R138: Arrives at a plot barrier and returns its status late. -/
  | pbarv (d a : Reg) (wa : Bool)
  /-- R142: Sends a scratchpad payload of 8 to 512 bytes as a tagged message and stalls for the answer. -/
  | send (d a b : Reg) (wa wb : Bool)
  /-- R142: Sends a vector register's 512 bytes as a tagged message and stalls for the answer. -/
  | sendv (v : VNum) (a b : Reg) (wa wb : Bool)
  /-- R143: Posts a receive, or takes a matching lees entry and deposits it at once. -/
  | post (a b : Reg) (wa wb : Bool)
  /-- R144: Cancels the record's oldest posted receive with exactly that key. -/
  | unpost (d a : Reg) (wa : Bool)
  /-- R144: Returns the descriptor of the oldest matching lees entry without removing it. -/
  | probe (d a : Reg) (wa : Bool)
  /-- R144: Removes the oldest lees entry, deposits it at the buffer and returns its descriptor. -/
  | leesPop (d a : Reg) (wa : Bool)
  /-- R144: Returns the number of messages in the lees queue. -/
  | leesCnt (d : Reg)
  /-- R145: Stores a value at an offset of every member of a replica set. -/
  | mcst (d a b : Reg) (wa wb : Bool)
  /-- R313: Sends a call packet to the policing cellar and pends the reply register. -/
  | sysc (d a b : Reg) (wa wb : Bool)
  /-- R314: Traps TRAP precisely for the cellar to read s[a]. -/
  | trap (a : Reg) (wa : Bool)
  /-- R314: Traps BREAKPOINT precisely, carrying a 10-bit code in the word. -/
  | brk (n : BitVec 10)
  /-- R315: Stops issue in the slot until wafer time reaches s[a]. -/
  | idle (a : Reg) (wa : Bool)
  /-- R316: Freezes a slot, tile, stage or plot when executed by the cellar; traps PRIVILEGE from tile code. -/
  | halt (d a : Reg) (wa : Bool)
  /-- R316: Thaws a slot, tile, stage or plot when executed by the cellar; traps PRIVILEGE from tile code. -/
  | resume (d a : Reg) (wa : Bool)
  /-- R282: Returns the interval number and the fractions and mode in force. -/
  | pwrqF (d : Reg)
  /-- R279: Returns the array level, the ceiling and the ramp table. -/
  | rampq (d : Reg)
  /-- R280: Queues a skim command of n periods toward a target level on the core's matrix queue. -/
  | skim (a b : Reg) (wa wb : Bool)
  /-- R283: Sets a frozen plot's clock mode when executed by the cellar; traps PRIVILEGE from tile code. -/
  | clkm (d a : Reg) (wa : Bool)
  /-- R282: Returns the interval's energy and current budgets. -/
  | pwrqN (d : Reg)
  /-- R203: Loads 512 bytes into a vector register. -/
  | vld (vd sa : VNum) (i7 : BitVec 7)
  /-- R203: Stores a vector register's 512 bytes. -/
  | vst (vd sa : VNum) (i7 : BitVec 7)
  /-- R203: Loads lanes from strided addresses. -/
  | vlds (vd sa sb : VNum) (t : ElemTy)
  /-- R203: Stores lanes to strided addresses. -/
  | vsts (vd sa sb : VNum) (t : ElemTy)
  /-- R205: Gathers lanes from base plus unsigned indices. -/
  | vgath (vd sa vb : VNum) (t : ElemTy)
  /-- R205: Scatters lanes to base plus unsigned indices. -/
  | vscat (vd sa vb : VNum) (t : ElemTy)
  /-- R206: Float lane addition. -/
  | vadd (vd va vb : VNum) (t : ElemTy) (r : Rnd)
  /-- R206: Float lane subtraction. -/
  | vsub (vd va vb : VNum) (t : ElemTy) (r : Rnd)
  /-- R206: Float lane multiplication. -/
  | vmul (vd va vb : VNum) (t : ElemTy) (r : Rnd)
  /-- R206: Float lane division. -/
  | vdiv (vd va vb : VNum) (t : ElemTy) (r : Rnd)
  /-- R206: Float lane minimum. -/
  | vmin (vd va vb : VNum) (t : ElemTy)
  /-- R206: Float lane maximum. -/
  | vmax (vd va vb : VNum) (t : ElemTy)
  /-- R206: Float lane magnitude. -/
  | vmag (vd va : VNum) (t : ElemTy)
  /-- R206: Float lane negation. -/
  | vneg (vd va : VNum) (t : ElemTy)
  /-- R207: Fused a times b plus d, rounded once. -/
  | vfma (vd va vb : VNum) (t : ElemTy) (r : Rnd)
  /-- R207: Fused a times b minus d, rounded once. -/
  | vfms (vd va vb : VNum) (t : ElemTy) (r : Rnd)
  /-- R207: Fused minus a times b plus d, rounded once. -/
  | vfnma (vd va vb : VNum) (t : ElemTy) (r : Rnd)
  /-- R208: Integer lane addition, saturating for i8 and i4. -/
  | vaddInt (vd va vb : VNum) (t : ElemTy)
  /-- R208: Integer lane subtraction. -/
  | vsubInt (vd va vb : VNum) (t : ElemTy)
  /-- R208: Integer lane multiplication. -/
  | vmulInt (vd va vb : VNum) (t : ElemTy)
  /-- R208: Integer lane minimum. -/
  | vminInt (vd va vb : VNum) (t : ElemTy)
  /-- R208: Integer lane maximum. -/
  | vmaxInt (vd va vb : VNum) (t : ElemTy)
  /-- R208: Signed integer lane magnitude. -/
  | vmagInt (vd va : VNum) (t : ElemTy)
  /-- R208: Signed integer lane negation. -/
  | vnegInt (vd va : VNum) (t : ElemTy)
  /-- R209: Bitwise and over 512 bytes. -/
  | vand (vd va vb : VNum)
  /-- R209: Bitwise or over 512 bytes. -/
  | vor (vd va vb : VNum)
  /-- R209: Bitwise exclusive or over 512 bytes. -/
  | vxor (vd va vb : VNum)
  /-- R209: Bitwise complement over 512 bytes. -/
  | vnot (vd va : VNum)
  /-- R209: Lane left shift by lane amounts. -/
  | vshl (vd va vb : VNum) (t : ElemTy)
  /-- R209: Lane logical right shift. -/
  | vshr (vd va vb : VNum) (t : ElemTy)
  /-- R209: Lane arithmetic right shift. -/
  | vsra (vd va vb : VNum) (t : ElemTy)
  /-- R210: Lane mask of equality. -/
  | vcmpEq (vd va vb : VNum) (t : ElemTy)
  /-- R210: Lane mask of inequality. -/
  | vcmpNe (vd va vb : VNum) (t : ElemTy)
  /-- R210: Lane mask of less-than. -/
  | vcmpLt (vd va vb : VNum) (t : ElemTy)
  /-- R210: Lane mask of less-or-equal. -/
  | vcmpLe (vd va vb : VNum) (t : ElemTy)
  /-- R210: Lane mask of greater-than. -/
  | vcmpGt (vd va vb : VNum) (t : ElemTy)
  /-- R210: Lane mask of greater-or-equal. -/
  | vcmpGe (vd va vb : VNum) (t : ElemTy)
  /-- R210: Lane mask of ABSENT lanes. -/
  | vcmpAb (vd va : VNum) (t : ElemTy)
  /-- R210: Lane mask of NaN lanes. -/
  | vcmpNan (vd va : VNum) (t : ElemTy)
  /-- R210: Selects lanes of vA or vB by the mask in the old vD. -/
  | vsel (vd va vb : VNum) (t : ElemTy)
  /-- R212: Converts elements between types under the interleave rule. -/
  | vcvt (vd va : VNum) (src dst : ElemTy) (r : Rnd) (p : BitVec 5)
  /-- R213: Maps device b8 codes to standard P3109 codes. -/
  | vcvtX3109Std (vd va : VNum) (p : BitVec 5)
  /-- R213: Maps standard P3109 codes to device b8 codes. -/
  | vcvtX3109Dev (vd va : VNum) (p : BitVec 5)
  /-- R214: Expands 32-element-block quantised elements into float lanes. -/
  | vdqntMx (vd va vb : VNum) (t : ElemTy) (r : Rnd) (p : BitVec 5)
  /-- R214: Expands a 256-element native block into float lanes. -/
  | vdqntNat (vd va vb : VNum) (t : ElemTy) (r : Rnd) (p : BitVec 5)
  /-- R174: Derives one e8s scale per 32-element block. -/
  | vsclMx (vd va : VNum) (t : ElemTy) (p : BitVec 5)
  /-- R216: Derives the e8s scale of one 256-element native block. -/
  | vsclNat (vd va : VNum) (t : ElemTy) (p : BitVec 5)
  /-- R175: Encodes elements under per-block scales of 32-element blocks. -/
  | vqntMx (vd va vb : VNum) (t : ElemTy) (r : Rnd) (p : BitVec 5)
  /-- R216: Encodes a 256-element native block under its scale. -/
  | vqntNat (vd va vb : VNum) (t : ElemTy) (r : Rnd) (p : BitVec 5)
  /-- R217: Sums present lanes into lane 0, rounded once. -/
  | vsum (vd va : VNum) (t : ElemTy) (r : Rnd)
  /-- R217: Largest present lane into lane 0. -/
  | vrmax (vd va : VNum) (t : ElemTy)
  /-- R217: Smallest present lane into lane 0. -/
  | vrmin (vd va : VNum) (t : ElemTy)
  /-- R217: Exact sum of present lanes divided by their count, rounded once. -/
  | vmean (vd va : VNum) (t : ElemTy) (r : Rnd)
  /-- R217: Count of present lanes as i32. -/
  | vcntp (vd va : VNum) (t : ElemTy)
  /-- R218: Lane reciprocal within its error bound. -/
  | vrcp (vd va : VNum) (t : ElemTy)
  /-- R218: Lane reciprocal square root. -/
  | vrsq (vd va : VNum) (t : ElemTy)
  /-- R218: Lane square root, correctly rounded. -/
  | vsqrt (vd va : VNum) (t : ElemTy) (r : Rnd)
  /-- R218: Lane power of two. -/
  | vexp2 (vd va : VNum) (t : ElemTy)
  /-- R218: Lane base-2 logarithm. -/
  | vlog2 (vd va : VNum) (t : ElemTy)
  /-- R218: Lane hyperbolic tangent. -/
  | vtanh (vd va : VNum) (t : ElemTy)
  /-- R220: Permutes lanes by an index vector. -/
  | vperm (vd va vb : VNum) (t : ElemTy)
  /-- R220: Interleaves the low halves of two sources. -/
  | vshufZl (vd va vb : VNum) (t : ElemTy)
  /-- R220: Interleaves the high halves of two sources. -/
  | vshufZh (vd va vb : VNum) (t : ElemTy)
  /-- R220: Takes the even lanes of two sources. -/
  | vshufUe (vd va vb : VNum) (t : ElemTy)
  /-- R220: Takes the odd lanes of two sources. -/
  | vshufUo (vd va vb : VNum) (t : ElemTy)
  /-- R220: Rotates lanes by a scalar amount. -/
  | vrot (vd va sb : VNum) (t : ElemTy)
  /-- R220: Fills lanes with s[a] plus the lane index. -/
  | viota (vd sa : VNum) (t : ElemTy)
  /-- R220: Rotates lanes by an immediate amount. -/
  | vrotImm (vd va : VNum) (t : ElemTy) (i7 : BitVec 7)
  /-- R220: Fills every lane with a small signed immediate converted exactly. -/
  | vfill (vd : VNum) (t : ElemTy) (i7 : BitVec 7)
  /-- R221: Makes lanes ABSENT where a bitmap bit is set. -/
  | vmkab (vd va : VNum) (t : ElemTy) (p : BitVec 5)
  /-- R221: Makes every lane from index s[a] on ABSENT. -/
  | vmkabTail (vd sa : VNum) (t : ElemTy) (p : BitVec 5)
  /-- R221: Writes a bitmap of ABSENT lanes. -/
  | vtsab (vd va : VNum) (t : ElemTy) (p : BitVec 5)
  /-- R222: Writes the low bits of s[a] into every lane. -/
  | vbcast (vd sa : VNum) (t : ElemTy)
  /-- R222: Extracts the lane indexed by a scalar into a scalar register. -/
  | vext (sd va sb : VNum) (t : ElemTy)
  /-- R222: Inserts the low bits of s[a] into the lane indexed by a scalar. -/
  | vins (vd sa sb : VNum) (t : ElemTy)
  /-- R222: Extracts an immediately indexed lane into a scalar register. -/
  | vextImm (sd va : VNum) (t : ElemTy) (i7 : BitVec 7)
  /-- R222: Inserts s[a] into an immediately indexed lane. -/
  | vinsImm (vd sa : VNum) (t : ElemTy) (i7 : BitVec 7)
  /-- R146: Writes an engine register of the slot's or core's context. -/
  | ecw (e : Eng) (a : Reg) (n : BitVec 7)
  /-- R146: Reads back the last value written to an engine register, late. -/
  | ecr (e : Eng) (d : Reg) (n : BitVec 7)
  /-- R225: Checks operands, leases them and forks a dense panel multiply-accumulate. -/
  | mma (a b : Reg) (p : BitVec 5)
  /-- R237: Reads strided operand descriptors and forks a panel multiply-accumulate. -/
  | mmas (a b : Reg) (p : BitVec 5)
  /-- R225: Queues the zeroing of every element of a panel. -/
  | mzero (p : BitVec 5)
  /-- R240: Stalls until every command in the core's matrix queue at issue has completed. -/
  | mwait (d : Reg)
  /-- R241: Returns a snapshot of the matrix unit's level, queues and locks. -/
  | mqry (d : Reg)
  /-- R238: Queues a load of panel elements from typed memory. -/
  | mld (a : Reg) (p : BitVec 5)
  /-- R226: Queues a drain of panel elements to memory in sum, mean, count or amax mode. -/
  | mdrain (a : Reg) (p : BitVec 5)
  /-- R238: Queues a load of raw 72-bit panel elements. -/
  | mldRaw (a : Reg) (p : BitVec 5)
  /-- R239: Queues a drain of raw 72-bit panel elements. -/
  | mdrainRaw (a : Reg) (p : BitVec 5)
  /-- R239: Queues a drain of the panel rows mapped to the issuing core. -/
  | mdrainRows (a : Reg) (p : BitVec 5)
  /-- R148: Checks and forks a copy between two pointers. -/
  | cpy (a b d : Reg)
  /-- R148: Forks a copy from a region handle to a pointer. -/
  | cpyHs (a b d : Reg)
  /-- R148: Forks a copy from a pointer to a region handle. -/
  | cpyHd (a b d : Reg)
  /-- R148: Forks a copy between two region handles. -/
  | cpyHsd (a b d : Reg)
  /-- R148: Forks a pointer-to-pointer copy that arrives at a barrier on completion. -/
  | cpyb (a b d : Reg)
  /-- R148: Forks a barrier-bound copy from a region handle. -/
  | cpybHs (a b d : Reg)
  /-- R148: Forks a barrier-bound copy to a region handle. -/
  | cpybHd (a b d : Reg)
  /-- R148: Forks a barrier-bound copy between two region handles. -/
  | cpybHsd (a b d : Reg)
  /-- R333: Checks operands, raises the vintage's PEND and forks a decant into a filling vintage. -/
  | dcnt (a b d : Reg)
  /-- R334: Waits for the vintage's decants and makes it current if none failed. -/
  | rack (d a : Reg)
  /-- R335: Binds a batch to the current vintage and returns its token. -/
  | vntqBind (d : Reg)
  /-- R335: Releases a batch's binding, sealing a draining vintage whose count reaches 0. -/
  | vntqDrop (a : Reg)
  /-- R335: Returns the current vintage's token without binding. -/
  | vntqCur (d : Reg)
  /-- R335: Returns a vintage's state word. -/
  | vntqSt (d a : Reg)
  /-- R151: Stalls until the record's operations on the engine complete and returns their error count. -/
  | ewait (e : Eng) (d : Reg)
  /-- R151: Returns the engine's queued commands and the record's incomplete operations. -/
  | eqry (e : Eng) (d : Reg)
  /-- R256: The launcher takes a launch packet, checks it, takes a plot, loads the image and replies with a status. -/
  | launch
  /-- R27: The dispatcher fills a free slot with the oldest admitted ready record of the best queue. -/
  | dispatch
  /-- R28: At each multiple of 1,024 ns the tile resets its energy pools and I_rem from the interval's budgets. -/
  | controlIntervalStart
  /-- R30: A ready record of an ageing queue gains a priority level after each 4,096 ready cycles. -/
  | ageingPromotion
  /-- R22: A waiting record's condition holds, so it becomes ready, with a tag notice's descriptor written for kind 1. -/
  | waitConditionMet
  /-- R22: Wafer time reaches a kind-7 record's parameter and the record becomes ready. -/
  | timeWaitExpiry
  /-- R44: A long-latency producer's value arrives and fills its register or carried record word. -/
  | lateDelivery
  /-- R43: A slot stalled on empty sources for FECFG.LIMIT cycles traps EMPTY_READ. -/
  | stallLimitExpiry
  /-- R86: A missed instruction-cache line arrives from edge memory and the waiting slot may issue from it. -/
  | instructionLineFill
  /-- R143: A complete message is deposited into the oldest matching posted receive, queued in the lees queue, or answered LEES_FULL. -/
  | messageArrival
  /-- R142: The destination's accepted or LEES_FULL answer, or a boundary refusal, reaches the stalled sender. -/
  | sendAnswer
  /-- R36: A spawn reaches its target tile, which takes the lowest free or retired record of the queue and returns a status. -/
  | spawnRequest
  /-- R37: A wake reaches its target record, making a waiting record ready and returning the old state. -/
  | wakeRequest
  /-- R119: An access arriving at a scratchpad bank or home slice is applied whole, folded, parked, or answered RETRY. -/
  | bankAccess
  /-- R120: A router repeats an access that was answered RETRY. -/
  | accessRetry
  /-- R128: An atomic reaching its place of execution applies its read-modify-write and returns the old value. -/
  | atomicAtHome
  /-- R133: A reduction reaching its bank updates the core's accumulator in the word's hidden entry. -/
  | reductionContribution
  /-- R135: A home's acknowledgement of a write reaches its issuer, letting waiting fences and releases proceed. -/
  | accessAcknowledge
  /-- R138: A core or engine arrival is applied at the barrier, possibly completing the phase, or refused at EXPECT 0. -/
  | barrierArrival
  /-- R341: A refused core arrival reaches its slot, which traps STALE_HANDLE at its halt boundary. -/
  | barrierRefusal
  /-- R149: The copy engine checks, translates, reads and writes the next chunk of up to 256 bytes. -/
  | copyChunk
  /-- R150: A copy ends in success or error, writing its completion word and arriving at its barrier if cpyb. -/
  | copyCompletion
  /-- R333: The decant engine moves the next chunk of weights into the vintage's cask half. -/
  | decantChunk
  /-- R333: A decant ends, writing its completion word and updating the vintage's PEND and ERRS. -/
  | decantCompletion
  /-- R242: A free matrix path's arbiter grants the next step by holder and credit, locking the panel on a first step. -/
  | matrixGrant
  /-- R245: An array or transfer step ends once its level-cycles and fetch or its transfer are done, ending leases. -/
  | matrixStepEnd
  /-- R227: A matrix command completes, releasing its lock, ORing its flags and counting for waits. -/
  | matrixCommandCompletion
  /-- R263: Each 4-cycle period sets the array level one table step toward the ceiling. -/
  | rampPeriod
  /-- R264: After the last step, each 4-cycle tail period lowers the level by the down step with skim operations. -/
  | skimTailPeriod
  /-- R110: A translation-cache miss reaches the cellar's walker, which walks the five-level tables. -/
  | translationMiss
  /-- R109: The walk's outcome returns: translated and cached, denied, or not present or format fault starting a fault batch. -/
  | translationFill
  /-- R115: Rolruica's resolved or fatal answer reaches the waiting slot or engine. -/
  | faultBatchAnswer
  /-- R111: An invalidation removes named translation entries and is acknowledged once prior accesses are done. -/
  | translationInvalidation
  /-- R299: Space frees in a full trap or fault ring and a held record enters it. -/
  | trapRingSpace
  /-- R286: The cellar reads a register, counter, level, PC or control register of a halted slot. -/
  | cellarRead
  /-- R286: The cellar writes a register or control register of a halted slot, cancelling pending delivery. -/
  | cellarWrite
  /-- R287: The cellar steps one instruction of a halted slot, or of every slot of a stage, and gets a step report. -/
  | cellarStep
  /-- R91: The cellar resumes a halted slot, which reissues its instruction. -/
  | cellarResume
  /-- R301: The cellar freezes a slot, tile, stage or plot, halting its slots with BREAKPOINT and reporting completion. -/
  | freeze
  /-- R301: The cellar thaws a frozen scope, resuming its halted slots, dispatch, engines and injection. -/
  | thaw
  /-- R20: The cellar retires a faulted record, freeing its slot. -/
  | cellarRetireRecord
  /-- R20: The cellar kills a task, sending its ready, running, waiting and faulted records to state 5. -/
  | taskKill
  /-- R306: The cellar freezes a plot, discards its engine commands, retires its records, frees handles and mappings. -/
  | plotKill
  /-- R306: A tile that does not quiesce within 20 µs of a freeze is reset. -/
  | quiesceTimeout
  /-- R306: A tile is reset: injection stops, packets truncated, allowances exchanged and state cleared. -/
  | containmentReset
  /-- R292: A router takes a packet and forwards it adaptively or on the escape route, oldest first. -/
  | packetHop
  /-- R285: A boundary router consumes a packet leaving its plot and answers the sender with a refusal. -/
  | boundaryRefusal
  /-- R297: A refused engine packet freezes the engine at a chunk boundary and sends a PROTECTION record. -/
  | engineRefusal
  /-- R297: The cellar resumes a frozen engine, which repeats the chunk. -/
  | engineResume
  /-- R297: The cellar discards a frozen engine's command, which completes in error. -/
  | engineCommandDiscard
  /-- R304: A flit with an uncorrectable link error is sent again on its lane. -/
  | linkRetry
  /-- R305: An uncorrectable error is reported once to the agent reading the data. -/
  | uncorrectableError
  /-- R308: The cellar evicts a tile: halts it, drains engine steps, streams contexts out and in, applies pending deliveries. -/
  | swap
  /-- R307: Rolruica moves a waiting context between the shadow store and edge memory. -/
  | contextMove
  /-- R310: A core's issue check fails: the failing slot traps CORE_LOST and the others move to a spare core. -/
  | coreLost
  /-- R310: At the plot's quiescent point the cellar shifts the lost tile's column into the spare row and restores. -/
  | columnShift
  /-- R311: The tile halts, a failed bank's lines are copied to the spare bank and the mapping redirected. -/
  | bankRepair
  /-- R311: A link retrains with the spare lane in the failed lane's index. -/
  | laneRepair
  /-- R311: A spare cellar core takes over a failed core's fault and trap rings. -/
  | cellarCoreSpare
  /-- R323: A spare Trellis port takes a failed port's number and the link retrains. -/
  | trellisPortSpare
  /-- R266: A droop reading of 20 mV or more stretches the tile's next cycle by eighths of a period. -/
  | droopStretch
  /-- R268: A droop of 45 mV in a plumb plot halts the plot, clears PLUMB and sends a trap record. -/
  | plumbMargin
  /-- R268: 256 ns after the last tile halted, every tile of the plot resumes in elastic mode. -/
  | elasticResume
  /-- R269: An elastic tile idle for 2,048 cycles with no priority-3 queue takes reverse body bias. -/
  | reverseBias
  /-- R274: Pyunsin grants boost to a tile or gang for one interval. -/
  | boostGrant
  /-- R281: A held load step takes effect at the module's next stagger slot time. -/
  | staggerSlotTime
  /-- R103: A cask bank's refresh window begins and reads to it wait. -/
  | refreshWindowStart
  /-- R103: A cask bank's refresh window ends and waiting reads proceed. -/
  | refreshWindowEnd
  /-- R270: An IEEE 1588 message disciplines the module's wafer time base. -/
  | timeSyncMessage
  /-- R327: An authenticated Ultra Ethernet message is written to its ring or counted as dropped or oversized. -/
  | ueMessage
  /-- R328: An NVMe device DMA is translated under the tenant's ASID, held on a fault or aborted. -/
  | storageDma
  /-- R317: A host access to a virtio function is served, or completes with Unsupported Request outside its registers. -/
  | hostAccess
  /-- R318: Rolruica accepts a signed job whose manifest and layers verify, or refuses it whole. -/
  | jobSubmission
  /-- R322: Call 0x0001 creates a tile or plot barrier and returns its handle. -/
  | createBarrier
  /-- R322: Call 0x0002 frees a handle, releasing barrier waiters and changing its generation. -/
  | freeHandle
  /-- R322: Call 0x0003 creates a copy region and returns its handle. -/
  | createCopyRegion
  /-- R322: Call 0x0004 creates a replica set with pinned members. -/
  | createReplicaSet
  /-- R330: Call 0x0005 creates a filling vintage on a qualifying half. -/
  | createVintage
  /-- R326: Call 0x0006 creates an Ultra Ethernet ring. -/
  | createRing
  /-- R278: Call 0x0007 writes the ramp table of one or every tile from the next interval. -/
  | writeRampTable
  /-- R322: Call 0x0008 submits a launch packet as source 2 and returns its status. -/
  | launchCall
  /-- R338: Call 0x0009 returns a signed attestation report over the nonce and measurements. -/
  | attest
  /-- R322: Call 0x000A writes bytes to the console. -/
  | consoleWrite
  /-- R296: Call 0x000B records an offer of a scratchpad range to a grantee tenant. -/
  | offerWindow
  /-- R296: Call 0x000C accepts an offer and makes a copy-region handle in the grantee plot. -/
  | acceptWindow
  /-- R296: Call 0x000D withdraws an offer and frees every handle made from it. -/
  | withdrawWindow
  /-- R322: A call number not listed is answered with ERR code 1. -/
  | unknownCall
  /-- R313: A call reply arrives over the control plane and fills its register or carried word. -/
  | syscReply
  /-- R26: Pyunsin writes a bind record over the control plane, lifting reverse bias for a priority-3 queue. -/
  | bindRecordWrite
  /-- R255: Rolruica writes a tenant's launch-table entry. -/
  | launchTableWrite
  /-- R275: Pyunsin or Rolruica writes a setting with no row of its own: reserves, limits, budgets, stagger, device ids, keys. -/
  | managementSettingWrite
  /-- R337: At reset the boot ROM verifies Pyunsin, which tests and repairs the wafer and starts Rolruica. -/
  | moduleBoot
  /-- R52: A fetched word whose major, selector, reserved fields, register, type or rnd codes are not defined traps ILLEGAL precisely with TRAPV holding the word. -/
  | illegalWord
  /-- R315: Wafer time reaches the value an idle slot waits for, and the slot resumes issue at its next turn. -/
  | idleTimeReached
  /-- R310: A tile fails its router or bank checks and is lost; its slots halt and its plot waits for its quiescent point. -/
  | tileLost
  deriving DecidableEq, Repr

end Sys2Proof
end

