-- ==== Sys2Proof/Config.lean ====
section
/-!
DEFINITION. Sys2Proof/Config.lean: what the specification leaves to an implementation or to an outside standard. A
constant below without a body is a free value: no proof can see what it is, and a claim holds whatever it is.
-/
namespace Sys2Proof.Config

/-! ### Figures that the specification leaves open -/

/-- The instruction-cache line (spec/04 R86 gives no size). DESIGN CHOICE: log 12. -/
def iLine : Nat := 64

/-- The records that a fault ring holds (spec/06 R112 gives no figure). DESIGN CHOICE: log 13. -/
def faultRingSize : Nat := 512

/-- The records that a trap ring holds (spec/18 R299). -/
def trapRingSize : Nat := 512

/-- The flits of the shared pool of a router input (spec/18 R292 gives no size). DESIGN CHOICE: log 38. -/
def poolFlits : Nat := 40

/-! ### Special functions inside their error bounds (spec/11 R218) -/

/-- The result code chosen for `vrcp` of a code in f32, bf16 or h16. DESIGN CHOICE: log 7. -/
opaque rcp : ElemTy → Nat → Nat
/-- The result code chosen for `vrsq`. DESIGN CHOICE: log 7. -/
opaque rsq : ElemTy → Nat → Nat
/-- The result code chosen for `vexp2`. DESIGN CHOICE: log 7. -/
opaque exp2 : ElemTy → Nat → Nat
/-- The result code chosen for `vlog2`. DESIGN CHOICE: log 7. -/
opaque log2 : ElemTy → Nat → Nat
/-- The result code chosen for `vtanh`. DESIGN CHOICE: log 7. -/
opaque tanh : ElemTy → Nat → Nat
/-! ### Outside standards (spec/00 scope, spec/19 R318, R325, R337, R338) -/

/-- SHAKE256 with a 64-byte output. DESIGN CHOICE: log 8. -/
opaque shake256 : List Byte → List Byte
/-- Falcon-1024 verification: key, message, signature. DESIGN CHOICE: log 8. -/
opaque falconVerify : Nat → List Byte → List Byte → Bool
/-- The fused keys under which Pyunsin and Rolruica are signed. DESIGN CHOICE: log 8. -/
opaque bootKey : Nat
/-- The module's identity key as bytes. DESIGN CHOICE: log 8. -/
opaque identityKey : List Byte
/-- The module's signature over a report, 1,280 bytes. DESIGN CHOICE: log 8. -/
opaque falconSign : List Byte → List Byte

/-! ### Forms that the specification does not give -/

/-- The bytes that a launch packet of call 0x0008 takes (spec/14 R254 gives no byte form). DESIGN CHOICE: log 9. -/
opaque launchSize : Nat
/-- The launch packet that those bytes hold, with the image that it names as the launcher reads it. DESIGN CHOICE:
log 9. -/
opaque parseLaunch : List Byte → LaunchPacket
/-- What a virtio register reads as (spec/19 R317, the VIRTIO standard). DESIGN CHOICE: log 9. -/
opaque virtioRead : Nat → Nat → Nat → Nat → Word
/-- Whether an offset lies in the registers of a virtio function (spec/19 R317). DESIGN CHOICE: log 9. -/
opaque virtioHas : Nat → Nat → Bool

/-! ### Values that nothing fixes -/

/-- A 64-bit value that the specification leaves open, taken fresh by a counter in the state. DESIGN CHOICE: log 6. -/
opaque freeValue : Nat → Word

end Sys2Proof.Config
end

