-- ==== Sys2Proof/Machine/State.lean ====
section
/-!
DEFINITION. Sys2Proof/Machine/State.lean: everything the specification gives the machine, as plain data, and the
machine right after reset. The slot whose turn it is and its tile stand first, apart from the rest of the wafer, so
that an instruction's effect is an update of one slot; the rest of the wafer is a list of tiles and of shared units.
-/
namespace Sys2Proof.Machine

/-! ### Reasons to stop -/

/-- Why a step stops with a fault: no rule of the specification stops the machine (a trap halts one slot and the part
runs on, spec/05 R91), so there is no constructor, and nobody raises one. Safe: nothing is cut short. -/
inductive Fault
  deriving DecidableEq, Repr

/-- Why an instruction has no meaning. -/
inductive Refusal where
  /-- Raised by the dispatch of an instruction that is not modelled, with its mnemonic. Safe: the run stops. -/
  | notModelled (mnemonic : String)
  deriving DecidableEq, Repr

/-! ### Sparse memories -/

/-- A sparse table in canonical form: keys rising, no entry equal to what an absent key reads as. -/
abbrev Sparse (β : Type) := List (Nat × β)

/-- Byte memory in canonical form; an unlisted byte reads as zero (spec/01 R16, spec/14 R259, spec/18 R306 for the
scratchpad and the cask; DESIGN CHOICE for edge and host memory, log 5). -/
abbrev Mem := List Host.Cell

/-- Where an access lands (spec/06 R94, R105). Tiles are grid indices. -/
inductive Space where
  | edge
  | host
  | spad (tile : Nat)
  /-- both halves of a cask: half B from 0x20_0000 upward -/
  | cask (tile : Nat)
  deriving DecidableEq, Repr

/-- A byte of the part (spec/06 R94). -/
structure Place where
  sp : Space
  off : Nat
  deriving DecidableEq, Repr

/-! ### A core slot -/

/-- A translation cache entry (spec/06 R110): the leaf's page of 2^bits bytes. -/
structure Tlb where
  asid : Nat
  va : Nat
  bits : Nat
  pa : Nat
  kind : Nat
  r : Bool
  w : Bool
  x : Bool
  deriving DecidableEq, Repr

/-- An active loop level: counter number, first and last body address (spec/04 R76). -/
structure Loop where
  ctr : Nat
  first : Word
  last : Word
  deriving DecidableEq, Repr

/-- The record a slot runs: its queue, its index in the queue and its byte offset (spec/02 R19, R27). -/
structure RecId where
  queue : Nat
  index : Nat
  off : Nat
  deriving DecidableEq, Repr

/-- How a slot stands (spec/02 R27; spec/05 R91; spec/06 R114; spec/07 R142). -/
inductive SlotMode where
  /-- holds no record -/
  | free
  /-- issues instructions -/
  | running
  /-- halted by a trap: its record is in state 4 -/
  | halted
  /-- issued a send and waits for the destination's answer -/
  | sendWait
  /-- waits in place for the answer to a fault batch on an address, which its fetch or an access of its instruction met -/
  | faultWait (batch : Nat) (va : Word) (fetch : Bool)
  deriving DecidableEq, Repr

/-- What a slot that waits for the answer to a send halts for once the answer has come (spec/18 R300, R301, R310). -/
inductive HaltReq where
  | freeze (sc : FreezeScope)
  | coreLost
  deriving DecidableEq, Repr

/-- A slot that has begun to leave and drains: the state, KIND and PARAM with which its record will be written back, and
whether a write has met its wait of kind 3 meanwhile (spec/02 R33, R34). -/
structure Leaving where
  st : Nat
  kind : Nat
  param : Nat
  met : Bool
  deriving DecidableEq, Repr

/-- One of the four slots of a core (spec/03 R55, R56). -/
structure Slot where
  mode : SlotMode
  run : RecId
  /-- s0 to s31; s0 reads zero through the accessor -/
  sreg : Vector Word 32
  /-- full bits of s0 to s31 (spec/03 R43) -/
  sfull : BitVec 32
  vreg : Vector VReg 16
  vfull : BitVec 16
  /-- lc0 to lc2 -/
  lc : Vector Word 3
  /-- active levels, innermost first (spec/04 R76) -/
  loops : List Loop
  pc : Word
  /-- the word fetched at pc (INSN of a trap record, spec/05 R90) -/
  ir : Insn
  status : Word
  trapc : Word
  trapv : Word
  fecfg : Word
  /-- ce.len, ce.rows, ce.spitch, ce.dpitch, ce.xpose, ce.done, ce.bar (spec/07 R146) -/
  ce : Vector Word 7
  /-- de.len, de.off, de.tile, de.ntile, de.spitch, de.done (spec/19 R331) -/
  de : Vector Word 6
  /-- the cycle in which a stall on empty sources began (spec/03 R43) -/
  stallFrom : Option Nat
  /-- the empty source that a stall on empty sources reports if it expires (spec/03 R43) -/
  stallReg : Nat
  /-- the reissued instruction skips breakpoints and watchpoints once (spec/18 R303) -/
  skipBp : Bool
  /-- a freeze of this slot holds off dispatch (spec/18 R301) -/
  frozen : Bool
  /-- a halt waits for the halt boundary (spec/18 R300) -/
  haltReq : Option HaltReq
  /-- halted by the freeze of a scope and not resumed since (spec/18 R301) -/
  byFreeze : Option FreezeScope
  /-- executing one stepped instruction (spec/17 R287) -/
  stepping : Bool
  /-- the bytes that plain loads of this phase have fixed, newest first (spec/08 R155) -/
  snap : List (Place × Byte)
  /-- destinations whose load met an uncorrectable error, with the load's address (spec/18 R305) -/
  badReg : List (Nat × Word)
  /-- a write of the slot whose home failed: its address (spec/18 R305) -/
  badWrite : Option Word
  /-- the loop buffer: words of the bodies of active levels, with their addresses (spec/03 R50, spec/04 R78) -/
  buf : List (Word × Insn)
  /-- translations that the instruction at pc has been given while it stalls, denied ones included, so that its pages are
  taken together (spec/03 R54, spec/11 R204) -/
  xl : List Tlb
  /-- the barrier handle and phase of a stalled `bwait` (spec/07 R138, R342) -/
  bwait : Option (Nat × Nat)
  /-- the last command a stalled `mwait` waits for, and the errors met so far (spec/13 R240) -/
  mwait : Option (Nat × Nat)
  /-- a page-fault wait that a halt found: its batch, its address, whether the fetch met it, and the answer, if it came
  (spec/18 R300) -/
  fwait : Option (Nat × Word × Bool × Option Bool)
  /-- the wafer time that an `idle` waits for (spec/18 R315) -/
  idleTo : Option Nat
  /-- the suspension, retirement or yield at pc has been decided, and waits for its drain (spec/02 R33) -/
  leaving : Option Leaving
  /-- the next issue is not before this cycle (spec/02 R27; spec/04 R86) -/
  notBefore : Nat
  /-- the turn at hand has issued nothing: the model's own mark of a stall (spec/02 R31) -/
  held : Bool
  /-- the cycle in which a `fence` or a `bwait` first issued (spec/07 R135; spec/15 R261) -/
  waitFrom : Option Nat
  /-- the cycles from which s0 to s31 can be read (spec/04 R86) -/
  sat : Vector Nat 32
  /-- the cycles from which v0 to v15 can be read (spec/11 R202) -/
  vat : Vector Nat 16
  deriving DecidableEq, Repr

/-! ### Units of a tile -/

/-- A posted receive or a notice of the message unit (spec/02 R23, spec/07 R143). -/
inductive MuEntry where
  | posted (owner : Nat) (buf : Nat) (any : Bool) (src tag : Nat)
  | notice (owner : Nat) (src tag len : Nat)
  deriving DecidableEq, Repr

/-- A message of the lees queue (spec/07 R143). -/
structure Lees where
  src : Nat
  tag : Nat
  data : List Byte
  deriving DecidableEq, Repr

/-- The operations of reductions (spec/07 R132). -/
inductive RedOp where
  | add | fadd | fmax
  deriving DecidableEq, Repr

/-- The hidden entry of a reduction word (spec/07 R133): its offset and one accumulator per logical core. -/
structure RedEntry where
  off : Nat
  op : RedOp
  ty : AmoTy
  acc : Vector Word 8
  deriving DecidableEq, Repr

/-- A ready record with its ready time in cycles and the levels it has gained by age (spec/02 R20, R30). The time is negative
where the plot has turned plumb since then and its count began later (log 74). -/
structure Ready where
  queue : Nat
  index : Nat
  off : Nat
  since : Int
  level : Nat
  deriving DecidableEq, Repr

/-- A waiting record, and whether an event has met its wait of kind 2 or 3 (spec/02 R22). -/
structure Wait where
  queue : Nat
  index : Nat
  off : Nat
  met : Bool
  deriving DecidableEq, Repr

/-- How an engine's head command stands (spec/06 R115; spec/18 R297, R300). -/
inductive EngSt where
  | ready
  /-- waits for the answer to a fault batch on an address -/
  | fault (batch : Nat) (va : Word)
  /-- the answer was fatal: the command ends in error with this cause and value -/
  | failed (cause : Nat)
  /-- frozen by a boundary refusal -/
  | refused
  /-- its completion word is on its way to another tile; the command ends in error if a cause is given (spec/07 R150) -/
  | closing (cause : Option Nat)
  deriving DecidableEq, Repr

/-- An operand of a copy: a pointer, or an offset in a copy region (spec/07 R147). -/
inductive CopyOp where
  | ptr (p : Word)
  | region (handle off : Nat)
  deriving DecidableEq, Repr

/-- A queued copy with its snapshot and progress (spec/07 R148, R149). -/
structure CopyCmd where
  core : Nat
  slot : Nat
  owner : Nat
  /-- its place in the order of issue (spec/08 R169) -/
  seq : Nat
  dst : CopyOp
  src : CopyOp
  regs : Vector Word 7
  val : Word
  /-- a `cpyb`: arrives at ce.bar -/
  bar : Bool
  /-- destination bytes delivered, in the order of R149 -/
  done : Nat
  st : EngSt
  /-- translations given for the next chunk, whose rows may lie on more pages than a cache holds -/
  xl : List Tlb
  deriving DecidableEq, Repr

/-- A queued decant (spec/19 R333). -/
structure DecantCmd where
  core : Nat
  slot : Nat
  owner : Nat
  seq : Nat
  vint : Nat
  src : Word
  regs : Vector Word 6
  val : Word
  done : Nat
  st : EngSt
  deriving DecidableEq, Repr

/-- The commands of a matrix queue (spec/13 R228; spec/16 R280). -/
inductive MxOp where
  | mma | mmas | mzero | mld | mdrain | mldRaw | mdrainRaw | mdrainRows
  | skim (periods target : Nat)
  deriving DecidableEq, Repr

/-- A queued matrix command with its snapshot, next step and flags (spec/13 R230, R233, R248). -/
structure MxCmd where
  id : Nat
  core : Nat
  slot : Nat
  owner : Nat
  seq : Nat
  op : MxOp
  panel : Nat
  a : Word
  b : Word
  /-- the eight words of the two descriptors of `mmas` -/
  desc : Vector Word 8
  regs : Vector Word 18
  /-- the next step -/
  step : Nat
  /-- bytes written by a transfer command -/
  bytes : Nat
  /-- the panel is locked: the first step has been granted (spec/13 R243) -/
  started : Bool
  flags : Nat
  st : EngSt
  /-- it is eligible no earlier than this cycle (spec/13 R242, spec/15 R262) -/
  since : Nat
  /-- the places of each element of the transfer step that runs, as its translations gave them at its grant -/
  places : List (List (Place × Nat))
  /-- the cask lines that the array step that runs has not read yet, in the order of their addresses, and the time of its
  grant, by which they compete for their banks (spec/13 R245; spec/18 R295) -/
  reads : List Place
  ts : Nat
  deriving DecidableEq, Repr

/-- A lease on a 64-byte scratchpad line (spec/13 R244): the tile and core that issued its command, the command, and
the command's last step that reads the line. -/
structure Lease where
  line : Nat
  tile : Nat
  core : Nat
  cmd : Nat
  last : Nat
  deriving DecidableEq, Repr

/-- The arbiter of a matrix path (spec/13 R242): holder, credit, the core whose step runs, and the first cycle in which
that step's operands have been read or its transfer is done (spec/13 R245). -/
structure Arbiter where
  holder : Nat
  credit : Nat
  running : Option Nat
  till : Nat
  deriving DecidableEq, Repr

/-- The ramp limiter (spec/15 R263, R264; spec/16 R278). -/
structure Ramp where
  up : Nat
  down : Nat
  /-- a table written by call 0x0007, in force from the next interval -/
  next : Option (Nat × Nat)
  level : Nat
  /-- a skim tail runs -/
  tail : Bool
  /-- the path has been halted: its first step ramps from 0 (spec/15 R265) -/
  cold : Bool
  ceil : Nat
  /-- level-cycles accrued by the running array step before the cycle `accAt` -/
  acc : Nat
  accAt : Nat
  /-- the first cycle of the running array step -/
  beg : Nat
  /-- the last cycle of the array step before it -/
  ended : Nat
  /-- the cycle in which the next period begins -/
  due : Nat
  /-- the cycle in which the next period of a skim tail begins -/
  tailDue : Nat
  deriving DecidableEq, Repr

/-- Errors ended since a record's last `ewait` on an engine (spec/07 R151). -/
structure EngErr where
  owner : Nat
  eng : Eng
  n : Nat
  deriving DecidableEq, Repr

/-- The context of a plot on a tile: all that a swap moves (spec/03 R55, spec/18 R307). -/
structure Ctx where
  /-- the plot, none on a free tile -/
  plot : Option Nat
  /-- the tile's logical number in the plot -/
  n : Nat
  spad : Mem
  /-- offsets of the empty words, rising (spec/06 R97) -/
  empties : List Nat
  red : List RedEntry
  binds : Vector (Word × Word) 16
  stages : Vector Byte 16
  ready : List Ready
  waits : List Wait
  mu : List MuEntry
  lees : List Lees
  leesFull : Bool
  /-- the cycle in which an arrival was last refused (spec/04 R85) -/
  leesFullAt : Option Nat
  /-- element 4096 p + 64 i + j of panel p; unlisted elements are zero (spec/13 R229) -/
  panels : Sparse Elem
  /-- the me. registers of each logical core (spec/13 R230) -/
  fctx : Vector (Vector Word 18) 8
  slots : Vector Slot 32
  ceq : List CopyCmd
  deq : List DecantCmd
  mq : Vector (List MxCmd) 8
  leases : List Lease
  arrayArb : Arbiter
  transferArb : Arbiter
  ramp : Ramp
  engErrs : List EngErr
  /-- the last queue dispatched from at each key (spec/02 R27) -/
  rot : Vector Nat 4
  /-- the last issuer of each core (spec/02 R31) -/
  lastIssue : Vector Nat 8
  /-- the cycles from which each core issues again, and its divider and vector datapath are free (spec/04 R86, spec/11
  R202) -/
  nextIssue : Vector Nat 8
  divAt : Vector Nat 8
  vecAt : Vector Nat 8
  /-- the cycle from which the tile dispatches again (spec/02 R27) -/
  dispAt : Nat
  bps : Vector (Vector Word 4) 8
  wps : Vector (Vector (Word × Word) 4) 8
  /-- cycles counted up to `cycFrom`, and the cycle of the tile's clock from which the count runs on (spec/16 R271) -/
  cyc : Nat
  cycFrom : Nat
  /-- the number of the next matrix command -/
  nextCmd : Nat
  deriving DecidableEq, Repr

/-- A context slot of the shadow store (spec/18 R307). -/
structure Shadow where
  ctx : Ctx
  /-- a byte that cannot be read (spec/18 R305) -/
  bad : Option Nat
  deriving DecidableEq, Repr

/-- A tile: its context and what belongs to the physical tile (spec/16 R275; spec/18 R308 to R311). -/
structure Tile where
  ctx : Ctx
  /-- the cycle of the tile's clock, and the wafer time in 968ths of a nanosecond at which the next one begins
  (spec/16 R266, R267, R274) -/
  clk : Nat
  edge : Nat
  /-- eighths of a period by which the next cycle is stretched (spec/16 R266) -/
  droop : Nat
  /-- the clock runs at the boost frequency (spec/16 R269, R281) -/
  fast : Bool
  caskA : Mem
  caskB : Mem
  /-- the cycles from which each scratchpad bank and each cask bank makes its next access (spec/06 R96, R102) -/
  bankAt : Vector Nat 32
  caskAt : Vector Nat 8
  tlb : List Tlb
  /-- resident instruction lines: ASID and address of each -/
  icache : List (Nat × Nat)
  /-- class pools and common pool (spec/02 R28) -/
  pools : Vector Nat 4
  common : Nat
  irem : Int
  /-- E and I of the interval (spec/16 R275) -/
  e : Nat
  i : Nat
  /-- a record has been dispatched in this interval (spec/02 R29) -/
  dispatched : Bool
  reserves : Vector Nat 4
  enom : Nat
  inom : Nat
  eboost : Nat
  iboost : Nat
  /-- fractions in sixteenths (spec/16 R273, R274) -/
  ft : Nat
  /-- FT of the next interval, fixed at the start of this one -/
  ftNext : Nat
  fg : Nat
  f : Nat
  /-- the control interval whose budgets are set -/
  interval : Nat
  limit : Nat
  /-- the sensor's highest reading of the interval, in tenths of a degree -/
  sensor : Nat
  /-- the control interval for which Pyunsin has granted boost -/
  boostFor : Option Nat
  boost : Bool
  curlim : Bool
  thermal : Bool
  reverse : Bool
  /-- a reverse bias is being lifted: the slot, by its number, whose first instruction waits for it, and the wafer time at which
  it is gone, in 968ths of a nanosecond (spec/16 R269) -/
  lifting : Option (Nat × Nat)
  /-- consecutive cycles without a record in a slot or an engine command (spec/16 R269) -/
  idle : Nat
  frozen : Bool
  /-- engines and injection halted by a freeze, a swap or a margin event -/
  quiet : Bool
  /-- a swap has begun: its first two phases (spec/18 R308) -/
  swapping : Bool
  lost : Bool
  /-- in containment reset (spec/18 R306) -/
  inReset : Bool
  /-- the repair map: the physical core, 0 to 8, of each logical core (spec/14 R252) -/
  repair : Vector Nat 8
  /-- physical cores found bad at boot or lost since (spec/14 R252; spec/18 R310; spec/19 R337) -/
  deadCores : List Nat
  spareBank : Bool
  shadowA : Option Shadow
  shadowB : Option Shadow
  deriving DecidableEq, Repr

/-! ### Accesses in flight -/

/-- Where a late value goes (spec/03 R44). -/
inductive Dest where
  | none
  | s (r : Reg)
  | v (r : VNum)
  deriving DecidableEq, Repr

/-- The access classes (spec/07 R118). -/
inductive Cls where
  | ld | st | fe | amo | msg | eng | none
  deriving DecidableEq, Repr

/-- How the bytes of a read become the value delivered (spec/03 R42; spec/11 R203, R205). -/
inductive Ext where
  | scalar (z : LdSize)
  /-- a literal of code, outside the snapshot (spec/08 R155) -/
  | code (z : LdSize)
  /-- all bytes in order, as a vector register -/
  | vec
  deriving DecidableEq, Repr

/-- The full/empty operations (spec/07 R123). -/
inductive FeOp where
  | ldf | ldfe | ste | stf | clr | tst | waita
  deriving DecidableEq, Repr

/-- Ranges with the plot that holds them, and the handle of a granted window by which they are reached, if it is one
(spec/18 R296). -/
structure Span where
  plot : Nat
  grant : Option Nat
  ps : List (Place × Nat)
  deriving DecidableEq, Repr

/-- What an access in flight does where it lands. -/
inductive Req where
  | read (ps : List (Place × Nat)) (ext : Ext)
  | write (ps : List (Place × List Byte))
  | fe (op : FeOp) (p : Place) (x : Word)
  | amo (op : AmoOp) (ty : AmoTy) (sc : AccScope) (p : Place) (x cmp : Word)
  | red (op : RedOp) (ty : AmoTy) (p : Place) (x : Word)
  /-- `spawn` (spec/02 R36): queue, resume address, s1 to s6 with their full bits -/
  | spawn (queue : Nat) (pc : Word) (regs : List (Word × Bool))
  | wake (off : Nat)
  /-- a message (spec/07 R142): source and destination logical tile, tag, payload -/
  | msg (src dst tag : Nat) (data : List Byte)
  /-- a barrier arrival (spec/07 R138): dropping, faulted, by an engine -/
  | arrive (handle : Nat) (drop fault engine : Bool)
  /-- a count on its way to a barrier, and a read of its status (spec/07 R138, R139; spec/03 R340) -/
  | bini (handle n : Nat)
  | btst (handle phase : Nat)
  /-- a member store of `mcst`; the handle and the owner of a granted window, if it is one (spec/07 R145, spec/18 R296) -/
  | member (p : Place) (x : Word) (grant : Option (Nat × Nat))
  /-- a member store to another device (spec/19 R324): device, virtual address, value -/
  | away (dev va : Nat) (x : Word)
  | rack (handle : Nat)
  /-- a batch to be bound to the current vintage (spec/19 R335) -/
  | vbind
  /-- a chunk that an engine writes, the plot that holds its destination, and the handle of a granted window, if it is one
  (spec/07 R149; spec/13 R245; spec/18 R296) -/
  | chunk (host : Nat) (grant : Option Nat) (ps : List (Place × List Byte))
  /-- the bytes of a chunk that an engine reads, and where it will write them; a matrix load writes none (spec/07 R149;
  spec/13 R245; spec/19 R333) -/
  | fetch (src dst : Span)
  /-- the deposit of a `lees.pop`, with its descriptor (spec/07 R144) -/
  | deposit (p : Place) (data : List Byte) (val : Word)
  /-- a call packet (spec/18 R313): number, strong, argument, number among the strong calls of the queue -/
  | call (num : Nat) (strong : Bool) (arg : Word) (queue seq : Nat)
  /-- a value that only has to be delivered -/
  | reply
  deriving DecidableEq, Repr

/-- How far an access has come. -/
inductive FlSt where
  /-- on its way, or waiting where it lands -/
  | going
  /-- a full/empty request parked at its bank, with the order of its parking (spec/07 R124) -/
  | parked (stamp : Nat)
  /-- answered RETRY, to be repeated -/
  | retry
  /-- applied: its value (a number of the destination's width) and the flags it sets are on their way back -/
  | served (val : Nat) (flags : Nat)
  /-- a refused send or arrival, with the value its trap reports -/
  | refused (val : Word)
  /-- a send answered LEES_FULL -/
  | leesFull
  /-- the home could not read its data (spec/18 R305) -/
  | bad
  deriving DecidableEq, Repr

/-- A packet on the data plane (spec/18 R293). Positions are grid indices. -/
structure Packet where
  at_ : Nat
  to_ : Nat
  /-- the destination lies outside the grid (spec/17 R284) -/
  nowhere : Bool
  rank : Nat
  flits : Nat
  esc : Bool
  ts : Nat
  /-- the unit that makes the access: 0 core port, 1 copy engine, 2 matrix unit, 3 decant engine, 7 translation -/
  unit : Nat
  plot : Nat
  /-- the source id, (176 SY + SX) × 8 + UNIT of the unit that injected it -/
  src : Nat
  /-- the lane that it keeps for its whole path, once its port has chosen it -/
  lane : Option Nat
  /-- the router whose link brought it to the one where it stands; that router itself for a packet still in the port that
  injects it (spec/18 R292) -/
  via : Nat
  deriving DecidableEq, Repr

/-- An access, message, call or arrival between its issue and its end. The list of them is in order of issue. -/
structure Flight where
  /-- issuing tile, core and slot -/
  tile : Nat
  core : Nat
  slot : Nat
  /-- the issuing record's offset -/
  owner : Nat
  /-- the plot of that record -/
  plot : Nat
  /-- its place in the order of issue -/
  seq : Nat
  dest : Dest
  cls : Cls
  rel : Bool
  acq : Bool
  /-- a write that a fence of its record which did not wait for it has published (spec/08 R157) -/
  pub : Bool
  st : FlSt
  pkt : Packet
  /-- the packet in which its tile's router sends it, and sends it again after RETRY (spec/07 R120) -/
  sent : Packet
  /-- the pointer of the access, for reports -/
  ptr : Word
  req : Req
  /-- it is applied no earlier than the first of these cycles, and its value delivered no earlier than the second
  (spec/03 R340; spec/07 R122; spec/15 R261) -/
  land : Nat
  due : Nat
  /-- the lines whose turn at their banks it has had, and the pieces that it has read there (spec/06 R96) -/
  lines : List Place
  got : List (Place × List Byte)
  deriving DecidableEq, Repr

/-- What a translation is for (spec/06 R109, R113). -/
inductive XUse where
  | read | write | fetch
  /-- the read of an `ldl` (spec/06 R115) -/
  | literal
  /-- a `pref`, whose other outcomes are dropped (spec/07 R126) -/
  | hint
  deriving DecidableEq, Repr

/-- Who waits for a translation (spec/06 R113). -/
inductive XWho where
  | slot (core slot : Nat)
  | copy
  | decant
  | matrix (core : Nat)
  /-- a `pref` of a slot -/
  | hint (core slot : Nat)
  deriving DecidableEq, Repr

/-- How a walk ended (spec/06 R109). -/
inductive XOut where
  | ok (e : Tlb)
  /-- the leaf does not allow the use -/
  | denied (e : Tlb)
  | absent (level : Nat)
  | format (level : Nat)
  deriving DecidableEq, Repr

/-- A translation miss in flight (spec/06 R110). -/
structure Xlate where
  tile : Nat
  who : XWho
  asid : Nat
  va : Word
  use : XUse
  out : Option XOut
  /-- its packet, on the way to the die's cellar and back (spec/06 R110; spec/18 R291) -/
  pkt : Packet
  deriving DecidableEq, Repr

/-! ### Plots, handles, the cellar and the ports -/

/-- The range of a copy region (spec/07 R147, spec/18 R296). -/
inductive RegionBase where
  | ptr (p : Word)
  /-- a granted range: grid index of the owner's tile, offset, owner's plot and offer number -/
  | grant (tile off owner offer : Nat)
  deriving DecidableEq, Repr

/-- A member of a replica set (spec/07 R145). -/
structure Member where
  /-- its range as pinned pieces; none of one on another device -/
  ps : List (Place × Nat)
  /-- the handle of a granted window and the plot that offers it (spec/18 R296) -/
  grant : Option (Nat × Nat)
  /-- the home device and the virtual address of a member on another device (spec/19 R324) -/
  away : Option (Nat × Nat)
  deriving DecidableEq, Repr

/-- A barrier (spec/07 R136). -/
structure Barrier where
  plotWide : Bool
  tile : Nat
  phase : Nat
  expect : Nat
  arrived : Nat
  drops : Nat
  pending : Option Nat
  fault : Bool
  /-- the phases completed of late, each with its cycle, newest first (spec/15 R261; spec/16 R277) -/
  doneAt : List (Nat × Nat)
  deriving DecidableEq, Repr

/-- A vintage (spec/19 R329). -/
structure Vintage where
  state : Nat
  half : Bool
  count : Nat
  pend : Nat
  errs : Nat
  deriving DecidableEq, Repr

/-- What a handle names (spec/06 R116). -/
inductive Obj where
  | region (base : RegionBase) (len : Nat) (write : Bool)
  | replica (len : Nat) (members : List Member)
  | vintage (v : Vintage)
  | barrier (b : Barrier)
  deriving DecidableEq, Repr

/-- An entry of a handle table (spec/06 R116). -/
structure HEntry where
  index : Nat
  gen : Nat
  obj : Option Obj
  deriving DecidableEq, Repr

/-- An offer of a window (spec/18 R296). -/
structure Offer where
  num : Nat
  tile : Nat
  off : Nat
  len : Nat
  grantee : Nat
  write : Bool
  deriving DecidableEq, Repr

/-- A live plot (spec/14 R250 to R256). -/
structure Plot where
  num : Nat
  tenant : Nat
  asid : Nat
  x0 : Nat
  y0 : Nat
  w : Nat
  h : Nat
  plumb : Bool
  epoch : Nat
  lastStage : Nat
  handles : List HEntry
  offers : List Offer
  nextOffer : Nat
  /-- SHAKE256 of the image as the launcher read it -/
  digest : List Byte
  imageVa : Nat
  frozen : Bool
  frozenStages : List Nat
  /-- a clock mode that takes effect at the thaw (spec/16 R283) -/
  clock : Option Bool
  /-- halted by a margin event: 0 until its last tile has halted, then the wafer time of its resumption (spec/16 R268) -/
  margin : Option Nat
  /-- the logical tile that saw the droop of that event -/
  marginTile : Nat
  /-- being killed: the wafer time of its freeze (spec/18 R306) -/
  killing : Option Nat
  /-- strong calls issued and completed by queue: 16 n + queue, issued, completed (spec/19 R320) -/
  strong : List (Nat × Nat × Nat)
  /-- the save areas of cask halves that hold its vintages, 2 n + half of each with its address in edge memory (spec/18
  R309) -/
  casks : List (Nat × Nat)
  /-- its first dispatch after its load, or after the return of a tile, has been made (spec/16 R281) -/
  started : Bool
  deriving DecidableEq, Repr

/-- Who took a trap: its slot, an engine of a tile, or a unit that halts for none (spec/18 R299). -/
inductive TrapSrc where
  | slot (l : SlotLoc)
  | engine (tile : Nat) (e : Eng)
  | other
  deriving DecidableEq, Repr

/-- The units of a die's cellar that programs meet (spec/06 R112; spec/16 R273; spec/18 R299). -/
structure Die where
  fc : Nat
  /-- FC of the next interval, fixed at the start of this one -/
  fcNext : Nat
  limit : Nat
  peak : Nat
  /-- fault rings: records of four words -/
  fault : Vector (List (Vector Word 4)) 8
  /-- trap rings: records of eight words -/
  trap : Vector (List (Vector Word 8)) 8
  /-- records held by sources whose ring is full, oldest first -/
  heldFault : List (Nat × Vector Word 4)
  heldTrap : List (Nat × TrapSrc × Vector Word 8)
  nextBatch : Nat
  /-- the physical core that serves each ring -/
  serves : Vector Nat 8
  /-- spare cellar cores in use (spec/18 R299) -/
  spares : Nat
  /-- grid columns that have been shifted into the spare row (spec/14 R249) -/
  shifted : List Nat
  /-- the translation cache of its cores (spec/06 R110) -/
  tlb : List Tlb
  deriving DecidableEq, Repr

/-- An Ultra Ethernet ring and its port's counters (spec/19 R326, R327). -/
structure Ring where
  num : Nat
  plot : Nat
  tenant : Nat
  tile : Nat
  off : Nat
  slotb : Nat
  n : Nat
  flow : Nat
  key : Nat
  head : Nat
  drops : Nat
  oversz : Nat
  deriving DecidableEq, Repr

/-- Pyunsin, Rolruica and what they hold (spec/19 R318 to R325, R337). -/
inductive BootPhase where
  | inReset
  | failed
  | running
  deriving DecidableEq, Repr

/-- What the part reports to the cellar or to the outside, newest first. -/
inductive Report where
  | launch (source status plot : Nat) (ctxid : Word)
  | job (accepted : Bool)
  | freeze (count : Nat)
  /-- the two words of a step report (spec/17 R287) -/
  | step (w0 w1 : Word)
  | notHalted
  | read (value : Nat) (full : Bool)
  | done
  | host (value : Option Word)
  | dma (ok : Bool) (data : List Byte)
  | dmaFault (port : Nat) (va : Nat)
  /-- a member store sent to a peer device: its address space, virtual address and value (spec/19 R324) -/
  | member (dev asid va : Nat) (x : Word)
  /-- a system-scope atomic sent to the home device of its word: operation, type, address space, virtual address, operand and
  comparand (spec/19 R324) -/
  | atomic (dev : Nat) (op : AmoOp) (ty : AmoTy) (asid va : Nat) (x cmp : Word)
  /-- a port's answer to a peer device (spec/19 R324) -/
  | trellis (value : Option Word)
  /-- an MSI-X interrupt of an endpoint's function (spec/19 R317) -/
  | msix (endpoint fn : Nat)
  | invalidated
  | killed (plot : Nat)
  | bootFailed
  deriving DecidableEq, Repr

/-- A DMA held for a fault answer (spec/19 R328). -/
structure HeldDma where
  batch : Nat
  die : Nat
  dma : DmaRequest
  /-- the answer, once it has come -/
  answer : Option Bool
  deriving DecidableEq, Repr

/-- An access of a peer device held at its port for a fault answer (spec/06 R113, R115; spec/19 R324). -/
structure HeldPeer where
  batch : Nat
  die : Nat
  req : PeerRequest
  answer : Option Bool
  deriving DecidableEq, Repr

/-- A system range (spec/19 R324). -/
structure SysRange where
  asid : Nat
  va : Nat
  len : Nat
  home : Nat
  deriving DecidableEq, Repr

/-- A lane of a link that carries a packet (spec/18 R293). -/
structure LaneBusy where
  link : Link
  lane : Nat
  /-- the wafer time from which it carries the next flit, in 968ths of a nanosecond -/
  till : Nat
  deriving DecidableEq, Repr

/-- A freeze that waits for the slots of its scope to halt: how many it halts, and the register of an executing slot
that receives the number (spec/18 R301, R316). -/
structure Freezing where
  sc : FreezeScope
  count : Nat
  dest : Option (SlotLoc × Reg)
  deriving DecidableEq, Repr

/-- The wafer but for the tile at hand. -/
structure Wafer where
  /-- wafer time in nanoseconds (spec/16 R270) -/
  time : Nat
  /-- 968ths of a nanosecond gone by since then: the clocks of elastic tiles run between them (spec/16 R266) -/
  fine : Nat
  boot : BootPhase
  grade : Grade
  subst : Nat
  mfw : List Byte
  mkern : List Byte
  mcfg : List Byte
  /-- the other tiles, by rising grid index; an unlisted tile is as after reset -/
  tiles : Sparse Tile
  plots : List Plot
  nextPlot : Nat
  edge : Mem
  host : Mem
  /-- stored bytes that cannot be read until they are rewritten (spec/18 R305) -/
  bad : List Place
  dies : Sparse Die
  /-- the control interval whose current-limit fractions are in force on every die (spec/16 R273) -/
  interval : Nat
  xlates : List Xlate
  /-- the L4 root of each ASID (spec/06 R106) -/
  roots : List (Nat × Nat)
  launchTable : List (Nat × Word × Word)
  launchPeers : List (Nat × Nat)
  enrolled : List (Nat × Nat)
  sysRanges : List SysRange
  ioQueues : List (Nat × Nat × Nat × Nat)
  ueKeys : List (Nat × Nat × Nat)
  rings : List Ring
  authFail : List (Nat × Nat)
  heldDma : List HeldDma
  heldPeer : List HeldPeer
  console : List (Nat × List Byte)
  jobs : List Job
  hostWrites : List HostRequest
  deviceId : Nat
  staggerP : Nat
  staggerO : Nat
  /-- bank b of every cask is in its refresh window (spec/06 R103) -/
  refresh : BitVec 8
  linkRetries : List (Link × Nat × Nat)
  spareLanes : List (Link × Nat)
  /-- packets that a port has ended in a TRUNC flit (spec/18 R306) -/
  trunc : List (Link × Nat)
  /-- corrected errors of each tile and port (spec/18 R304) -/
  corrected : List (ErrCounter × Nat)
  /-- lanes that a packet's flits occupy (spec/18 R293) -/
  lanes : List LaneBusy
  /-- the lane that each tile's port chose last (spec/18 R293) -/
  laneRot : List (Nat × Nat)
  /-- the translation caches of the network ports and of the storage ports, by port number (spec/06 R110) -/
  netTlb : List (Nat × List Tlb)
  ioTlb : List (Nat × List Tlb)
  portMap : List (Nat × Nat)
  reports : List Report
  freezes : List Freezing
  /-- contexts that Rolruica has moved to edge memory, with their tiles and the addresses at which they lie (spec/18
  R307) -/
  away : List (Nat × Nat × Shadow)
  /-- page frames that the launcher has taken from the top of edge memory (log 28) -/
  frames : Nat
  deriving DecidableEq, Repr

/-- What step runs next from outside a slot: an instruction the cellar executes on a halted slot, or another step of
the part with what it is about. -/
structure Move where
  loc : Option SlotLoc
  i : Instr
  arg : EvArg
  deriving DecidableEq, Repr

/-- The machine. -/
structure State where
  /-- the slot at hand -/
  cur : SlotLoc
  slot : Slot
  tile : Tile
  wafer : Wafer
  flights : List Flight
  /-- what the step at hand is about, for a step of the part that is no word -/
  arg : EvArg
  /-- moves from outside a slot, first one first -/
  agenda : List Move
  /-- the next number in the order of issues and of parkings -/
  stamp : Nat
  /-- the model's own counter of free values (log 6) -/
  free : Nat
  deriving DecidableEq, Repr

/-! ### After reset -/

/-- A slot that holds no record, as dispatch leaves its registers (spec/02 R27; spec/03 R56). -/
def Slot.reset : Slot where
  mode := .free
  run := ⟨0, 0, 0⟩
  sreg := Vector.replicate 32 0
  sfull := BitVec.allOnes 32
  vreg := Vector.replicate 16 0
  vfull := BitVec.allOnes 16
  lc := Vector.replicate 3 0
  loops := []
  pc := 0
  ir := 0
  status := 0
  trapc := 0
  trapv := 0
  fecfg := 0
  ce := Vector.replicate 7 0
  de := Vector.replicate 6 0
  stallFrom := none
  stallReg := 0
  skipBp := false
  frozen := false
  haltReq := none
  byFreeze := none
  stepping := false
  snap := []
  badReg := []
  badWrite := none
  buf := []
  xl := []
  bwait := none
  mwait := none
  fwait := none
  idleTo := none
  leaving := none
  notBefore := 0
  held := false
  waitFrom := none
  sat := Vector.replicate 32 0
  vat := Vector.replicate 16 0

/-- An arbiter before its first grant (spec/13 R242). -/
def Arbiter.reset : Arbiter := ⟨7, 0, none, 0⟩

/-- The ramp limiter at plot load (spec/14 R259, spec/15 R263). -/
def Ramp.reset : Ramp := ⟨1, 1, none, 0, false, false, 16, 0, 0, 0, 0, 0, 0⟩

/-- The load state of a tile (spec/14 R259). -/
def Ctx.reset : Ctx where
  plot := none
  n := 0
  spad := []
  empties := []
  red := []
  binds := Vector.replicate 16 (0, 0)
  stages := Vector.replicate 16 0
  ready := []
  waits := []
  mu := []
  lees := []
  leesFull := false
  leesFullAt := none
  panels := []
  fctx := Vector.replicate 8 (Vector.replicate 18 0)
  slots := Vector.replicate 32 Slot.reset
  ceq := []
  deq := []
  mq := Vector.replicate 8 []
  leases := []
  arrayArb := Arbiter.reset
  transferArb := Arbiter.reset
  ramp := Ramp.reset
  engErrs := []
  rot := Vector.replicate 4 15
  lastIssue := Vector.replicate 8 3
  nextIssue := Vector.replicate 8 0
  divAt := Vector.replicate 8 0
  vecAt := Vector.replicate 8 0
  dispAt := 0
  bps := Vector.replicate 8 (Vector.replicate 4 0)
  wps := Vector.replicate 8 (Vector.replicate 4 (0, 0))
  cyc := 0
  cycFrom := 0
  nextCmd := 0

/-- A tile after module reset: free, budgets as at shipment (spec/16 R273, R275; spec/02 R28). The pools and the
budgets of the first interval are those of F = 16. -/
def Tile.reset : Tile where
  ctx := Ctx.reset
  clk := 0
  edge := 0
  droop := 0
  fast := false
  caskA := []
  caskB := []
  bankAt := Vector.replicate 32 0
  caskAt := Vector.replicate 8 0
  tlb := []
  icache := []
  pools := Vector.replicate 4 0
  common := 112640
  irem := 2200
  e := 112640
  i := 2200
  dispatched := false
  reserves := Vector.replicate 4 0
  enom := 112640
  inom := 2200
  eboost := 123904
  iboost := 2420
  ft := 16
  ftNext := 16
  fg := 16
  f := 16
  interval := 0
  limit := 0
  sensor := 0
  boostFor := none
  boost := false
  curlim := false
  thermal := false
  reverse := false
  lifting := none
  idle := 0
  frozen := false
  quiet := false
  swapping := false
  lost := false
  inReset := false
  repair := #v[0, 1, 2, 3, 4, 5, 6, 7]
  deadCores := []
  spareBank := true
  shadowA := none
  shadowB := none

/-- A die's cellar after module reset (spec/16 R273; spec/18 R299). -/
def Die.reset : Die where
  fc := 16
  fcNext := 16
  limit := 0
  peak := 0
  fault := Vector.replicate 8 []
  trap := Vector.replicate 8 []
  heldFault := []
  heldTrap := []
  nextBatch := 0
  serves := #v[0, 1, 2, 3, 4, 5, 6, 7]
  spares := 0
  shifted := []
  tlb := []

/-- The wafer after module reset: in reset, before Pyunsin is verified (spec/19 R337). -/
def Wafer.reset : Wafer where
  time := 0
  fine := 0
  boot := .inReset
  grade := .fx48
  subst := 0
  mfw := []
  mkern := []
  mcfg := []
  tiles := []
  plots := []
  nextPlot := 17
  edge := []
  host := []
  bad := []
  dies := []
  interval := 0
  xlates := []
  roots := []
  launchTable := []
  launchPeers := []
  enrolled := []
  sysRanges := []
  ioQueues := []
  ueKeys := []
  rings := []
  authFail := []
  heldDma := []
  heldPeer := []
  console := []
  jobs := []
  hostWrites := []
  deviceId := 0
  staggerP := 0
  staggerO := 0
  refresh := 0
  linkRetries := []
  spareLanes := []
  trunc := []
  corrected := []
  lanes := []
  laneRot := []
  netTlb := []
  ioTlb := []
  portMap := []
  reports := []
  freezes := []
  away := []
  frames := 0

/-- The machine right after reset. -/
def State.reset : State where
  cur := ⟨0, 0, 0⟩
  slot := Slot.reset
  tile := Tile.reset
  wafer := Wafer.reset
  flights := []
  arg := .none
  agenda := []
  stamp := 0
  free := 0

end Sys2Proof.Machine
end

