-- ==== Sys2Proof/WellFormed.lean ====
section
/-!
DEFINITION. Sys2Proof/WellFormed.lean: which instruction terms are instructions. What the field types of
Sys2Proof/Syntax.lean leave open, spec/03 R52 and the descriptions decide: a term that fails here has no legal word.
-/
namespace Sys2Proof

/-- f32, bf16 and h16 (spec/10 R180). -/
def ElemTy.isFloat : ElemTy → Bool
  | .f32 | .bf16 | .h16 => true
  | _ => false

/-- The signed integers i4 to i64 (spec/10 R178). -/
def ElemTy.isSigned : ElemTy → Bool
  | .i4 | .i8 | .i16 | .i32 | .i64 => true
  | _ => false

/-- The unsigned integers n8 to n64 (spec/10 R178). -/
def ElemTy.isUnsigned : ElemTy → Bool
  | .n8 | .n16 | .n32 | .n64 => true
  | _ => false

/-- The integer types i4 to i64 and n8 to n64. -/
def ElemTy.isInt (t : ElemTy) : Bool := t.isSigned || t.isUnsigned

/-- Every type of 8 bits or more (spec/11 R203, R220). -/
def ElemTy.isByteWide : ElemTy → Bool
  | .i4 => false
  | _ => true

/-- The types of gathers and scatters (spec/11 R205). -/
def ElemTy.isGather : ElemTy → Bool
  | .i32 | .i64 | .n32 | .n64 | .f32 => true
  | _ => false

/-- The width of an element in bits (spec/10 R178). -/
def ElemTy.bits : ElemTy → Nat
  | .i4 => 4
  | .i8 | .n8 | .e8s | .b8 => 8
  | .i16 | .n16 | .bf16 | .h16 => 16
  | .i32 | .n32 | .f32 => 32
  | .i64 | .n64 => 64

/-- L(t): the lanes of a vector register (spec/11 R197). -/
def ElemTy.lanes (t : ElemTy) : Nat := 4096 / t.bits

/-- The integer types of atomics (spec/07 R127). -/
def AmoTy.isInt : AmoTy → Bool
  | .d | .w => true
  | _ => false

/-- The float types of atomics (spec/07 R127). -/
def AmoTy.isFloat (t : AmoTy) : Bool := !t.isInt

/-- lvl = 3 is illegal (spec/03 R50). -/
def lvlOk (lvl : BitVec 2) : Bool := lvl != 3

/-- A body holds 1 to 256 instructions (spec/03 R50). -/
def lenOk (len : BitVec 9) : Bool := decide (1 ≤ len.toNat ∧ len.toNat ≤ 256)

/-- An even register, the first of a pair (spec/11 R201). -/
def evenReg (v : VNum) : Bool := decide (v.toNat % 2 = 0)

/-- A descriptor that names a b8 type: P is not 0 (spec/10 R182, spec/11 R199). -/
def descB8 (p : BitVec 5) : Bool := decide (4 ≤ p.toNat)

/-- A descriptor of a quantised element: b8, or i8 as 0 and i4 as 1 (spec/11 R199). -/
def descElem (p : BitVec 5) : Bool := descB8 p || p == 0 || p == 1

/-- The types, the descriptor and the destination of a conversion (spec/11 R201, R211). -/
def cvtOk (vd : VNum) (st dt : ElemTy) (p : BitVec 5) : Bool :=
  st != dt && st != .e8s && dt != .e8s
    && (if st == .b8 || dt == .b8 then descB8 p else p == 0)
    && decide (dt.bits < st.bits * 8)
    && (if dt.bits = st.bits * 2 then decide (vd.toNat % 2 = 0) else true)
    && (if dt.bits = st.bits * 4 then decide (vd.toNat % 4 = 0) else true)

/-- The constants that `vfill` accepts: k must be exact in t (spec/11 R220). -/
def fillOk (t : ElemTy) (i7 : BitVec 7) : Bool :=
  let k := i7.toInt
  match t with
  | .n8 | .n16 | .n32 | .n64 => decide (0 ≤ k)
  | .i8 | .i16 | .i32 | .i64 | .f32 | .bf16 | .h16 => true
  | .i4 => decide (-7 ≤ k ∧ k ≤ 7)
  | .e8s => k == 1 || k == 2 || k == 4 || k == 8 || k == 16 || k == 32
  | .b8 => false

/-- The types of the absent operations, with their descriptor (spec/11 R221). -/
def absentOk (t : ElemTy) (p : BitVec 5) : Bool :=
  match t with
  | .i4 | .i8 | .f32 | .bf16 | .h16 | .e8s => p == 0
  | .b8 => descB8 p
  | _ => false

/-- The engine register numbers (spec/03 R49, spec/19 R331). -/
def engRegOk (e : Eng) (n : BitVec 7) : Bool :=
  match e with
  | .me => decide (n.toNat < 18)
  | .ce => decide (n.toNat < 7)
  | .de => decide (n.toNat < 6)

/-- A panel field: 0 for the own panel, 8 to 15 for t0 to t7 (spec/13 R228). -/
def panelOk (p : BitVec 5) : Bool := p == 0 || decide (8 ≤ p.toNat ∧ p.toNat < 16)

/-- The terms that have a legal word, and every other step of the part. -/
def Instr.wf : Instr → Bool
  | .add _ _ _ _ _ => true
  | .sub _ _ _ _ _ => true
  | .mul _ _ _ _ _ => true
  | .mulh _ _ _ _ _ => true
  | .mulhn _ _ _ _ _ => true
  | .div _ _ _ _ _ => true
  | .divn _ _ _ _ _ => true
  | .rem _ _ _ _ _ => true
  | .remn _ _ _ _ _ => true
  | .and _ _ _ _ _ => true
  | .or _ _ _ _ _ => true
  | .xor _ _ _ _ _ => true
  | .andn _ _ _ _ _ => true
  | .orn _ _ _ _ _ => true
  | .shl _ _ _ _ _ => true
  | .shr _ _ _ _ _ => true
  | .sra _ _ _ _ _ => true
  | .rol _ _ _ _ _ => true
  | .ror _ _ _ _ _ => true
  | .clz _ _ _ => true
  | .ctz _ _ _ => true
  | .popc _ _ _ => true
  | .min _ _ _ _ _ => true
  | .max _ _ _ _ _ => true
  | .minn _ _ _ _ _ => true
  | .maxn _ _ _ _ _ => true
  | .sext _ _ _ _ _ => true
  | .zext _ _ _ _ _ => true
  | .slt _ _ _ _ _ => true
  | .sltn _ _ _ _ _ => true
  | .seq _ _ _ _ _ => true
  | .sne _ _ _ _ _ => true
  | .addi _ _ _ _ => true
  | .andi _ _ _ _ => true
  | .ori _ _ _ _ => true
  | .xori _ _ _ _ => true
  | .shli _ _ _ _ => true
  | .shri _ _ _ _ => true
  | .srai _ _ _ _ => true
  | .slti _ _ _ _ => true
  | .sltni _ _ _ _ => true
  | .lih _ _ _ _ => true
  | .lea _ _ _ => true
  | .winq _ _ _ => true
  | .wincLc _ _ _ => true
  | .wincSh _ _ _ => true
  | .addp _ _ _ _ _ => true
  | .ldl _ _ _ => true
  | .brEq _ _ _ => true
  | .brNe _ _ _ => true
  | .brLt _ _ _ => true
  | .brGe _ _ _ => true
  | .brLtn _ _ _ => true
  | .brGen _ _ _ => true
  | .jmp _ => true
  | .jal _ => true
  | .jr _ _ => true
  | .jalr _ _ _ => true
  | .loop lvl _ len => lvlOk lvl && lenOk len
  | .loopi lvl _ len => lvlOk lvl && lenOk len
  | .lbrk lvl => lvlOk lvl
  | .yield => true
  | .suspTag d _ _ => decide (d.toNat ≤ 6)
  | .suspFull _ _ => true
  | .suspChg _ _ _ _ => true
  | .suspBar _ _ => true
  | .suspEng _ _ => true
  | .suspCall => true
  | .suspTime _ _ => true
  | .retire => true
  | .spawn _ _ _ _ _ => true
  | .wake _ _ _ => true
  | .recp _ => true
  | .topo _ => true
  | .ctxid _ => true
  | .stage _ => true
  | .time _ => true
  | .cyc _ => true
  | .csrrd _ _ => true
  | .csrwr _ _ _ _ => true
  | .csrset _ _ _ _ => true
  | .csrclr _ _ _ _ => true
  | .ld _ _ _ _ _ => true
  | .st _ _ _ _ _ => true
  | .ldf _ _ _ _ => true
  | .ldfe _ _ _ _ => true
  | .ste _ _ _ _ => true
  | .stf _ _ _ _ => true
  | .feClr _ _ _ _ => true
  | .feTst _ _ _ _ => true
  | .waita _ _ _ _ => true
  | .pref _ _ _ => true
  | .refq d _ wa _ => !(d == 0 && wa)
  | .amoAdd _ _ _ _ _ _ ty => ty.isInt
  | .amoAnd _ _ _ _ _ _ ty => ty.isInt
  | .amoOr _ _ _ _ _ _ ty => ty.isInt
  | .amoXor _ _ _ _ _ _ ty => ty.isInt
  | .amoMin _ _ _ _ _ _ ty => ty.isInt
  | .amoMax _ _ _ _ _ _ ty => ty.isInt
  | .amoMinn _ _ _ _ _ _ ty => ty.isInt
  | .amoMaxn _ _ _ _ _ _ ty => ty.isInt
  | .amoXchg _ _ _ _ _ _ ty => ty.isInt
  | .amoCas _ _ _ _ _ _ ty => ty.isInt
  | .amoFadd _ _ _ _ _ _ ty => ty.isFloat
  | .amoFmax _ _ _ _ _ _ ty => ty.isFloat
  | .amoFmin _ _ _ _ _ _ ty => ty.isFloat
  | .amoAmaxx _ _ _ _ ty => ty.isFloat
  | .redAdd _ _ _ _ ty => ty.isInt
  | .redFadd _ _ _ _ ty => ty.isFloat
  | .redFmax _ _ _ _ ty => ty.isFloat
  | .fence pred succ peng seng _ => (!(pred == 0) || peng) && (!(succ == 0) || seng)
  | .fenceSc sc => sc == .wafer || sc == .system
  | .bini _ _ _ _ => true
  | .barv _ _ _ => true
  | .bard _ _ _ => true
  | .bwait _ _ _ _ _ => true
  | .btst _ _ _ _ _ => true
  | .pbarv _ _ _ => true
  | .send _ _ _ _ _ => true
  | .sendv _ _ _ _ _ => true
  | .post _ _ _ _ => true
  | .unpost _ _ _ => true
  | .probe _ _ _ => true
  | .leesPop _ _ _ => true
  | .leesCnt _ => true
  | .mcst _ _ _ _ _ => true
  | .sysc _ _ _ _ _ => true
  | .trap _ _ => true
  | .brk _ => true
  | .idle _ _ => true
  | .halt _ _ _ => true
  | .resume _ _ _ => true
  | .pwrqF _ => true
  | .rampq _ => true
  | .skim _ _ _ _ => true
  | .clkm _ _ _ => true
  | .pwrqN _ => true
  | .vld _ _ _ => true
  | .vst _ _ _ => true
  | .vlds _ _ _ t => t.isByteWide && t != .b8
  | .vsts _ _ _ t => t.isByteWide && t != .b8
  | .vgath _ _ _ t => t.isGather
  | .vscat _ _ _ t => t.isGather
  | .vadd _ _ _ t _ => t.isFloat
  | .vsub _ _ _ t _ => t.isFloat
  | .vmul _ _ _ t _ => t.isFloat
  | .vdiv _ _ _ t _ => t.isFloat
  | .vmin _ _ _ t => t.isFloat
  | .vmax _ _ _ t => t.isFloat
  | .vmag _ _ t => t.isFloat
  | .vneg _ _ t => t.isFloat
  | .vfma _ _ _ t _ => t.isFloat
  | .vfms _ _ _ t _ => t.isFloat
  | .vfnma _ _ _ t _ => t.isFloat
  | .vaddInt _ _ _ t => t.isInt
  | .vsubInt _ _ _ t => t.isInt
  | .vmulInt _ _ _ t => t.isInt
  | .vminInt _ _ _ t => t.isInt
  | .vmaxInt _ _ _ t => t.isInt
  | .vmagInt _ _ t => t.isSigned
  | .vnegInt _ _ t => t.isSigned
  | .vand _ _ _ => true
  | .vor _ _ _ => true
  | .vxor _ _ _ => true
  | .vnot _ _ => true
  | .vshl _ _ _ t => t.isUnsigned
  | .vshr _ _ _ t => t.isUnsigned
  | .vsra _ _ _ t => t.isSigned && t != .i4
  | .vcmpEq _ _ _ t => t.isInt || t.isFloat
  | .vcmpNe _ _ _ t => t.isInt || t.isFloat
  | .vcmpLt _ _ _ t => t.isInt || t.isFloat
  | .vcmpLe _ _ _ t => t.isInt || t.isFloat
  | .vcmpGt _ _ _ t => t.isInt || t.isFloat
  | .vcmpGe _ _ _ t => t.isInt || t.isFloat
  | .vcmpAb _ _ t => t.isInt || t.isFloat
  | .vcmpNan _ _ t => t.isFloat
  | .vsel _ _ _ t => t != .b8
  | .vcvt vd _ src dst _ p => cvtOk vd src dst p
  | .vcvtX3109Std _ _ p => descB8 p
  | .vcvtX3109Dev _ _ p => descB8 p
  | .vdqntMx _ _ _ t _ p => t.isFloat && descElem p
  | .vdqntNat vd _ _ t _ p => t.isFloat && descElem p && (t != .f32 || evenReg vd)
  | .vsclMx _ _ t p => t.isFloat && descElem p
  | .vsclNat _ va t p => t.isFloat && descElem p && (t != .f32 || evenReg va)
  | .vqntMx _ _ _ t _ p => t.isFloat && descElem p
  | .vqntNat _ va _ t _ p => t.isFloat && descElem p && (t != .f32 || evenReg va)
  | .vsum _ _ t r => t.isFloat || (t.isInt && r == .rne)
  | .vrmax _ _ t => t.isFloat || t.isInt
  | .vrmin _ _ t => t.isFloat || t.isInt
  | .vmean _ _ t _ => t.isFloat
  | .vcntp _ _ t => t.isFloat || t.isInt || t == .e8s
  | .vrcp _ _ t => t.isFloat
  | .vrsq _ _ t => t.isFloat
  | .vsqrt _ _ t _ => t.isFloat
  | .vexp2 _ _ t => t.isFloat
  | .vlog2 _ _ t => t.isFloat
  | .vtanh _ _ t => t.isFloat
  | .vperm _ _ _ t => t.isByteWide && t != .b8
  | .vshufZl _ _ _ t => t.isByteWide && t != .b8
  | .vshufZh _ _ _ t => t.isByteWide && t != .b8
  | .vshufUe _ _ _ t => t.isByteWide && t != .b8
  | .vshufUo _ _ _ t => t.isByteWide && t != .b8
  | .vrot _ _ _ t => t.isByteWide && t != .b8
  | .viota _ _ t => t.isInt && t.isByteWide && t != .i8
  | .vrotImm _ _ t i7 => t.isByteWide && t != .b8 && decide (i7.toNat < t.lanes)
  | .vfill _ t i7 => fillOk t i7
  | .vmkab _ _ t p => absentOk t p
  | .vmkabTail _ _ t p => absentOk t p
  | .vtsab _ _ t p => absentOk t p
  | .vbcast _ _ t => t != .b8
  | .vext _ _ _ t => t != .b8
  | .vins _ _ _ t => t != .b8
  | .vextImm _ _ t i7 => t != .b8 && decide (i7.toNat < t.lanes)
  | .vinsImm _ _ t i7 => t != .b8 && decide (i7.toNat < t.lanes)
  | .ecw e _ n => engRegOk e n
  | .ecr e _ n => engRegOk e n
  | .mma _ _ p => panelOk p
  | .mmas _ _ p => panelOk p
  | .mzero p => panelOk p
  | .mwait _ => true
  | .mqry _ => true
  | .mld _ p => panelOk p
  | .mdrain _ p => panelOk p
  | .mldRaw _ p => panelOk p
  | .mdrainRaw _ p => panelOk p
  | .mdrainRows _ p => panelOk p
  | .cpy _ _ _ => true
  | .cpyHs _ _ _ => true
  | .cpyHd _ _ _ => true
  | .cpyHsd _ _ _ => true
  | .cpyb _ _ _ => true
  | .cpybHs _ _ _ => true
  | .cpybHd _ _ _ => true
  | .cpybHsd _ _ _ => true
  | .dcnt _ _ _ => true
  | .rack _ _ => true
  | .vntqBind _ => true
  | .vntqDrop _ => true
  | .vntqCur _ => true
  | .vntqSt _ _ => true
  | .ewait _ _ => true
  | .eqry _ _ => true
  | .launch => true
  | .dispatch => true
  | .controlIntervalStart => true
  | .ageingPromotion => true
  | .waitConditionMet => true
  | .timeWaitExpiry => true
  | .lateDelivery => true
  | .stallLimitExpiry => true
  | .instructionLineFill => true
  | .messageArrival => true
  | .sendAnswer => true
  | .spawnRequest => true
  | .wakeRequest => true
  | .bankAccess => true
  | .accessRetry => true
  | .atomicAtHome => true
  | .reductionContribution => true
  | .accessAcknowledge => true
  | .barrierArrival => true
  | .barrierRefusal => true
  | .copyChunk => true
  | .copyCompletion => true
  | .decantChunk => true
  | .decantCompletion => true
  | .matrixGrant => true
  | .matrixStepEnd => true
  | .matrixCommandCompletion => true
  | .rampPeriod => true
  | .skimTailPeriod => true
  | .translationMiss => true
  | .translationFill => true
  | .faultBatchAnswer => true
  | .translationInvalidation => true
  | .trapRingSpace => true
  | .cellarRead => true
  | .cellarWrite => true
  | .cellarStep => true
  | .cellarResume => true
  | .freeze => true
  | .thaw => true
  | .cellarRetireRecord => true
  | .taskKill => true
  | .plotKill => true
  | .quiesceTimeout => true
  | .containmentReset => true
  | .packetHop => true
  | .boundaryRefusal => true
  | .engineRefusal => true
  | .engineResume => true
  | .engineCommandDiscard => true
  | .linkRetry => true
  | .uncorrectableError => true
  | .swap => true
  | .contextMove => true
  | .coreLost => true
  | .columnShift => true
  | .bankRepair => true
  | .laneRepair => true
  | .cellarCoreSpare => true
  | .trellisPortSpare => true
  | .droopStretch => true
  | .plumbMargin => true
  | .elasticResume => true
  | .reverseBias => true
  | .boostGrant => true
  | .staggerSlotTime => true
  | .refreshWindowStart => true
  | .refreshWindowEnd => true
  | .timeSyncMessage => true
  | .ueMessage => true
  | .storageDma => true
  | .hostAccess => true
  | .jobSubmission => true
  | .createBarrier => true
  | .freeHandle => true
  | .createCopyRegion => true
  | .createReplicaSet => true
  | .createVintage => true
  | .createRing => true
  | .writeRampTable => true
  | .launchCall => true
  | .attest => true
  | .consoleWrite => true
  | .offerWindow => true
  | .acceptWindow => true
  | .withdrawWindow => true
  | .unknownCall => true
  | .syscReply => true
  | .bindRecordWrite => true
  | .launchTableWrite => true
  | .managementSettingWrite => true
  | .moduleBoot => true
  | .illegalWord => true
  | .idleTimeReached => true
  | .tileLost => true

/-- The rows with an encoding: the instructions of tile code (spec/03 R45). The other rows are steps of the part. -/
def Instr.isWord : Instr → Bool
  | .add _ _ _ _ _ => true
  | .sub _ _ _ _ _ => true
  | .mul _ _ _ _ _ => true
  | .mulh _ _ _ _ _ => true
  | .mulhn _ _ _ _ _ => true
  | .div _ _ _ _ _ => true
  | .divn _ _ _ _ _ => true
  | .rem _ _ _ _ _ => true
  | .remn _ _ _ _ _ => true
  | .and _ _ _ _ _ => true
  | .or _ _ _ _ _ => true
  | .xor _ _ _ _ _ => true
  | .andn _ _ _ _ _ => true
  | .orn _ _ _ _ _ => true
  | .shl _ _ _ _ _ => true
  | .shr _ _ _ _ _ => true
  | .sra _ _ _ _ _ => true
  | .rol _ _ _ _ _ => true
  | .ror _ _ _ _ _ => true
  | .clz _ _ _ => true
  | .ctz _ _ _ => true
  | .popc _ _ _ => true
  | .min _ _ _ _ _ => true
  | .max _ _ _ _ _ => true
  | .minn _ _ _ _ _ => true
  | .maxn _ _ _ _ _ => true
  | .sext _ _ _ _ _ => true
  | .zext _ _ _ _ _ => true
  | .slt _ _ _ _ _ => true
  | .sltn _ _ _ _ _ => true
  | .seq _ _ _ _ _ => true
  | .sne _ _ _ _ _ => true
  | .addi _ _ _ _ => true
  | .andi _ _ _ _ => true
  | .ori _ _ _ _ => true
  | .xori _ _ _ _ => true
  | .shli _ _ _ _ => true
  | .shri _ _ _ _ => true
  | .srai _ _ _ _ => true
  | .slti _ _ _ _ => true
  | .sltni _ _ _ _ => true
  | .lih _ _ _ _ => true
  | .lea _ _ _ => true
  | .winq _ _ _ => true
  | .wincLc _ _ _ => true
  | .wincSh _ _ _ => true
  | .addp _ _ _ _ _ => true
  | .ldl _ _ _ => true
  | .brEq _ _ _ => true
  | .brNe _ _ _ => true
  | .brLt _ _ _ => true
  | .brGe _ _ _ => true
  | .brLtn _ _ _ => true
  | .brGen _ _ _ => true
  | .jmp _ => true
  | .jal _ => true
  | .jr _ _ => true
  | .jalr _ _ _ => true
  | .loop _ _ _ => true
  | .loopi _ _ _ => true
  | .lbrk _ => true
  | .yield => true
  | .suspTag _ _ _ => true
  | .suspFull _ _ => true
  | .suspChg _ _ _ _ => true
  | .suspBar _ _ => true
  | .suspEng _ _ => true
  | .suspCall => true
  | .suspTime _ _ => true
  | .retire => true
  | .spawn _ _ _ _ _ => true
  | .wake _ _ _ => true
  | .recp _ => true
  | .topo _ => true
  | .ctxid _ => true
  | .stage _ => true
  | .time _ => true
  | .cyc _ => true
  | .csrrd _ _ => true
  | .csrwr _ _ _ _ => true
  | .csrset _ _ _ _ => true
  | .csrclr _ _ _ _ => true
  | .ld _ _ _ _ _ => true
  | .st _ _ _ _ _ => true
  | .ldf _ _ _ _ => true
  | .ldfe _ _ _ _ => true
  | .ste _ _ _ _ => true
  | .stf _ _ _ _ => true
  | .feClr _ _ _ _ => true
  | .feTst _ _ _ _ => true
  | .waita _ _ _ _ => true
  | .pref _ _ _ => true
  | .refq _ _ _ _ => true
  | .amoAdd _ _ _ _ _ _ _ => true
  | .amoAnd _ _ _ _ _ _ _ => true
  | .amoOr _ _ _ _ _ _ _ => true
  | .amoXor _ _ _ _ _ _ _ => true
  | .amoMin _ _ _ _ _ _ _ => true
  | .amoMax _ _ _ _ _ _ _ => true
  | .amoMinn _ _ _ _ _ _ _ => true
  | .amoMaxn _ _ _ _ _ _ _ => true
  | .amoXchg _ _ _ _ _ _ _ => true
  | .amoCas _ _ _ _ _ _ _ => true
  | .amoFadd _ _ _ _ _ _ _ => true
  | .amoFmax _ _ _ _ _ _ _ => true
  | .amoFmin _ _ _ _ _ _ _ => true
  | .amoAmaxx _ _ _ _ _ => true
  | .redAdd _ _ _ _ _ => true
  | .redFadd _ _ _ _ _ => true
  | .redFmax _ _ _ _ _ => true
  | .fence _ _ _ _ _ => true
  | .fenceSc _ => true
  | .bini _ _ _ _ => true
  | .barv _ _ _ => true
  | .bard _ _ _ => true
  | .bwait _ _ _ _ _ => true
  | .btst _ _ _ _ _ => true
  | .pbarv _ _ _ => true
  | .send _ _ _ _ _ => true
  | .sendv _ _ _ _ _ => true
  | .post _ _ _ _ => true
  | .unpost _ _ _ => true
  | .probe _ _ _ => true
  | .leesPop _ _ _ => true
  | .leesCnt _ => true
  | .mcst _ _ _ _ _ => true
  | .sysc _ _ _ _ _ => true
  | .trap _ _ => true
  | .brk _ => true
  | .idle _ _ => true
  | .halt _ _ _ => true
  | .resume _ _ _ => true
  | .pwrqF _ => true
  | .rampq _ => true
  | .skim _ _ _ _ => true
  | .clkm _ _ _ => true
  | .pwrqN _ => true
  | .vld _ _ _ => true
  | .vst _ _ _ => true
  | .vlds _ _ _ _ => true
  | .vsts _ _ _ _ => true
  | .vgath _ _ _ _ => true
  | .vscat _ _ _ _ => true
  | .vadd _ _ _ _ _ => true
  | .vsub _ _ _ _ _ => true
  | .vmul _ _ _ _ _ => true
  | .vdiv _ _ _ _ _ => true
  | .vmin _ _ _ _ => true
  | .vmax _ _ _ _ => true
  | .vmag _ _ _ => true
  | .vneg _ _ _ => true
  | .vfma _ _ _ _ _ => true
  | .vfms _ _ _ _ _ => true
  | .vfnma _ _ _ _ _ => true
  | .vaddInt _ _ _ _ => true
  | .vsubInt _ _ _ _ => true
  | .vmulInt _ _ _ _ => true
  | .vminInt _ _ _ _ => true
  | .vmaxInt _ _ _ _ => true
  | .vmagInt _ _ _ => true
  | .vnegInt _ _ _ => true
  | .vand _ _ _ => true
  | .vor _ _ _ => true
  | .vxor _ _ _ => true
  | .vnot _ _ => true
  | .vshl _ _ _ _ => true
  | .vshr _ _ _ _ => true
  | .vsra _ _ _ _ => true
  | .vcmpEq _ _ _ _ => true
  | .vcmpNe _ _ _ _ => true
  | .vcmpLt _ _ _ _ => true
  | .vcmpLe _ _ _ _ => true
  | .vcmpGt _ _ _ _ => true
  | .vcmpGe _ _ _ _ => true
  | .vcmpAb _ _ _ => true
  | .vcmpNan _ _ _ => true
  | .vsel _ _ _ _ => true
  | .vcvt _ _ _ _ _ _ => true
  | .vcvtX3109Std _ _ _ => true
  | .vcvtX3109Dev _ _ _ => true
  | .vdqntMx _ _ _ _ _ _ => true
  | .vdqntNat _ _ _ _ _ _ => true
  | .vsclMx _ _ _ _ => true
  | .vsclNat _ _ _ _ => true
  | .vqntMx _ _ _ _ _ _ => true
  | .vqntNat _ _ _ _ _ _ => true
  | .vsum _ _ _ _ => true
  | .vrmax _ _ _ => true
  | .vrmin _ _ _ => true
  | .vmean _ _ _ _ => true
  | .vcntp _ _ _ => true
  | .vrcp _ _ _ => true
  | .vrsq _ _ _ => true
  | .vsqrt _ _ _ _ => true
  | .vexp2 _ _ _ => true
  | .vlog2 _ _ _ => true
  | .vtanh _ _ _ => true
  | .vperm _ _ _ _ => true
  | .vshufZl _ _ _ _ => true
  | .vshufZh _ _ _ _ => true
  | .vshufUe _ _ _ _ => true
  | .vshufUo _ _ _ _ => true
  | .vrot _ _ _ _ => true
  | .viota _ _ _ => true
  | .vrotImm _ _ _ _ => true
  | .vfill _ _ _ => true
  | .vmkab _ _ _ _ => true
  | .vmkabTail _ _ _ _ => true
  | .vtsab _ _ _ _ => true
  | .vbcast _ _ _ => true
  | .vext _ _ _ _ => true
  | .vins _ _ _ _ => true
  | .vextImm _ _ _ _ => true
  | .vinsImm _ _ _ _ => true
  | .ecw _ _ _ => true
  | .ecr _ _ _ => true
  | .mma _ _ _ => true
  | .mmas _ _ _ => true
  | .mzero _ => true
  | .mwait _ => true
  | .mqry _ => true
  | .mld _ _ => true
  | .mdrain _ _ => true
  | .mldRaw _ _ => true
  | .mdrainRaw _ _ => true
  | .mdrainRows _ _ => true
  | .cpy _ _ _ => true
  | .cpyHs _ _ _ => true
  | .cpyHd _ _ _ => true
  | .cpyHsd _ _ _ => true
  | .cpyb _ _ _ => true
  | .cpybHs _ _ _ => true
  | .cpybHd _ _ _ => true
  | .cpybHsd _ _ _ => true
  | .dcnt _ _ _ => true
  | .rack _ _ => true
  | .vntqBind _ => true
  | .vntqDrop _ => true
  | .vntqCur _ => true
  | .vntqSt _ _ => true
  | .ewait _ _ => true
  | .eqry _ _ => true
  | .launch => false
  | .dispatch => false
  | .controlIntervalStart => false
  | .ageingPromotion => false
  | .waitConditionMet => false
  | .timeWaitExpiry => false
  | .lateDelivery => false
  | .stallLimitExpiry => false
  | .instructionLineFill => false
  | .messageArrival => false
  | .sendAnswer => false
  | .spawnRequest => false
  | .wakeRequest => false
  | .bankAccess => false
  | .accessRetry => false
  | .atomicAtHome => false
  | .reductionContribution => false
  | .accessAcknowledge => false
  | .barrierArrival => false
  | .barrierRefusal => false
  | .copyChunk => false
  | .copyCompletion => false
  | .decantChunk => false
  | .decantCompletion => false
  | .matrixGrant => false
  | .matrixStepEnd => false
  | .matrixCommandCompletion => false
  | .rampPeriod => false
  | .skimTailPeriod => false
  | .translationMiss => false
  | .translationFill => false
  | .faultBatchAnswer => false
  | .translationInvalidation => false
  | .trapRingSpace => false
  | .cellarRead => false
  | .cellarWrite => false
  | .cellarStep => false
  | .cellarResume => false
  | .freeze => false
  | .thaw => false
  | .cellarRetireRecord => false
  | .taskKill => false
  | .plotKill => false
  | .quiesceTimeout => false
  | .containmentReset => false
  | .packetHop => false
  | .boundaryRefusal => false
  | .engineRefusal => false
  | .engineResume => false
  | .engineCommandDiscard => false
  | .linkRetry => false
  | .uncorrectableError => false
  | .swap => false
  | .contextMove => false
  | .coreLost => false
  | .columnShift => false
  | .bankRepair => false
  | .laneRepair => false
  | .cellarCoreSpare => false
  | .trellisPortSpare => false
  | .droopStretch => false
  | .plumbMargin => false
  | .elasticResume => false
  | .reverseBias => false
  | .boostGrant => false
  | .staggerSlotTime => false
  | .refreshWindowStart => false
  | .refreshWindowEnd => false
  | .timeSyncMessage => false
  | .ueMessage => false
  | .storageDma => false
  | .hostAccess => false
  | .jobSubmission => false
  | .createBarrier => false
  | .freeHandle => false
  | .createCopyRegion => false
  | .createReplicaSet => false
  | .createVintage => false
  | .createRing => false
  | .writeRampTable => false
  | .launchCall => false
  | .attest => false
  | .consoleWrite => false
  | .offerWindow => false
  | .acceptWindow => false
  | .withdrawWindow => false
  | .unknownCall => false
  | .syscReply => false
  | .bindRecordWrite => false
  | .launchTableWrite => false
  | .managementSettingWrite => false
  | .moduleBoot => false
  | .illegalWord => false
  | .idleTimeReached => false
  | .tileLost => false

end Sys2Proof
end

