-- ==== Sys2Proof/Machine/Flags.lean ====
section
/-!
DEFINITION. Sys2Proof/Machine/Flags.lean: the number formats, the one rounding function with the flags it raises, and
exact arithmetic on decoded values (spec/10). A code is a natural number below 2 to the width of its type.
-/
namespace Sys2Proof

/-- The range of an integer type (spec/10 R178, R187). -/
def ElemTy.range : ElemTy → Int × Int
  | .i4 => (-7, 7)
  | .i8 => (-127, 127)
  | .i16 => (-2 ^ 15, 2 ^ 15 - 1)
  | .i32 => (-2 ^ 31, 2 ^ 31 - 1)
  | .i64 => (-2 ^ 63, 2 ^ 63 - 1)
  | .n8 => (0, 2 ^ 8 - 1)
  | .n16 => (0, 2 ^ 16 - 1)
  | .n32 => (0, 2 ^ 32 - 1)
  | .n64 => (0, 2 ^ 64 - 1)
  | _ => (0, 0)

/-- The integer that a code of an integer type denotes. -/
def ElemTy.toInt (t : ElemTy) (c : Nat) : Int :=
  if t.isSigned ∧ 2 ^ (t.bits - 1) ≤ c then (c : Int) - 2 ^ t.bits else c

/-- The code of an integer, modulo the width. -/
def ElemTy.ofInt (t : ElemTy) (x : Int) : Nat := (x % (2 ^ t.bits : Int)).toNat

/-- Access size in bytes (spec/07 R128). -/
def AmoTy.size : AmoTy → Nat
  | .d => 8
  | .w | .f32 => 4
  | .bf16 | .h16 => 2

end Sys2Proof

namespace Sys2Proof.Machine

/-! ### STATUS flags (spec/03 R57) -/

def fNX : Nat := 1
def fUF : Nat := 2
def fOF : Nat := 4
def fDZ : Nat := 8
def fNV : Nat := 16
def fISAT : Nat := 128
def fCNTOV : Nat := 256

/-- Flags set in STATUS stay set (spec/03 R57). -/
def Slot.raise (x : Slot) (flags : Nat) : Slot := { x with status := x.status ||| BitVec.ofNat 64 (flags &&& 415) }

/-! ### Types and values -/

/-- A type with its b8 descriptor, or the accumulator format (spec/10 R178, R182, R194). -/
inductive Ty where
  | el (t : ElemTy)
  | b8 (p : Nat) (uns ext : Bool)
  | a56
  deriving DecidableEq, Repr

/-- A b8 type from a 5-bit descriptor: P in [4:2], N in [1], X in [0] (spec/10 R182). -/
def Ty.ofDesc (d : Nat) : Ty := .b8 (d / 4 % 8) (d / 2 % 2 == 1) (d % 2 == 1)

/-- An FV type with the descriptor that goes with b8. -/
def Ty.of (t : ElemTy) (d : Nat) : Ty := if t = .b8 then Ty.ofDesc d else .el t

/-- The element of a quantised operand: i8 as 0, i4 as 1, else a b8 type (spec/11 R199). -/
def Ty.ofElem (d : Nat) : Ty := if d = 0 then .el .i8 else if d = 1 then .el .i4 else Ty.ofDesc d

/-- Width in bits. -/
def Ty.bits : Ty → Nat
  | .el t => t.bits
  | .b8 _ _ _ => 8
  | .a56 => 56

/-- A decoded value. A finite value is num ÷ den × 2^e with a sign; den is not 0. -/
inductive Val where
  | absent
  | nan (signalling : Bool)
  | inf (neg : Bool)
  | fin (neg : Bool) (num den : Nat) (e : Int)
  deriving DecidableEq, Repr

/-- An exact integer as a value. -/
def Val.int (x : Int) : Val := .fin (decide (x < 0)) x.natAbs 1 0

/-! ### Binary formats -/

/-- A binary format: fraction bits, exponent of the least normal, greatest codes of each side, place of the sign,
whether a negative zero exists (spec/10 R180, R182 to R185, R194). -/
structure Bin where
  m : Nat
  emin : Int
  maxPos : Nat
  maxNeg : Nat
  sign : Option Nat
  negZero : Bool
  ieee : Bool

/-- The binary format of a float or b8 type. -/
def Ty.bin : Ty → Option Bin
  | .el .f32 => some ⟨23, -126, 0x7F7FFFFF, 0x7F7FFFFF, some 31, true, true⟩
  | .el .bf16 => some ⟨7, -126, 0x7F7F, 0x7F7F, some 15, true, true⟩
  | .el .h16 => some ⟨10, -14, 0x7BFF, 0x7BFF, some 15, true, true⟩
  | .a56 => some ⟨45, -510, 1022 * 2 ^ 45 + (2 ^ 45 - 1), 1022 * 2 ^ 45 + (2 ^ 45 - 1), some 55, true, true⟩
  | .b8 p false x =>
    let b : Int := 2 ^ (7 - p)
    some ⟨p - 1, 1 - b, if x then 0x7E else 0x7F, if x then 0x7D else 0x7E, some 7, false, false⟩
  | .b8 p true x =>
    let b : Int := 2 ^ (8 - p)
    some ⟨p - 1, 1 - b, if x then 0xFC else 0xFD, 0, none, false, false⟩
  | _ => none

/-- The value of a magnitude code of a binary format: (field − 1) binades above the least normal (spec/10 R182). -/
def Bin.mag (b : Bin) (neg : Bool) (c : Nat) : Val :=
  let f := c / 2 ^ b.m
  let r := c % 2 ^ b.m
  if f = 0 then .fin neg r 1 (b.emin - b.m) else .fin neg (2 ^ b.m + r) 1 (b.emin - b.m + (f - 1 : Nat))

/-- ABSENT codes (spec/10 R178, R185). -/
def Ty.absent : Ty → Option Nat
  | .el .i4 => some 0x8
  | .el .i8 => some 0x80
  | .el .f32 => some 0xFFFFFFFF
  | .el .bf16 | .el .h16 => some 0xFFFF
  | .el .e8s => some 0xFE
  | .b8 _ false _ => some 0xFF
  | .b8 _ true _ => some 0xFE
  | _ => none

/-- is_absent(x, t) (spec/03 R62). -/
def Ty.isAbsent (t : Ty) (c : Nat) : Bool := t.absent == some c

/-- Canonical NaNs (spec/10 R180, R185, R194). -/
def Ty.nan : Ty → Nat
  | .el .f32 => 0x7FC00000
  | .el .bf16 => 0x7FC0
  | .el .h16 => 0x7E00
  | .b8 _ false _ => 0x80
  | .b8 _ true _ => 0xFF
  | .a56 => 1023 * 2 ^ 45 + 2 ^ 44
  | _ => 0

/-- Infinities of a type that has them (spec/10 R180, R185, R194). -/
def Ty.inf (t : Ty) (neg : Bool) : Option Nat :=
  match t with
  | .el .f32 => some (if neg then 0xFF800000 else 0x7F800000)
  | .el .bf16 => some (if neg then 0xFF80 else 0x7F80)
  | .el .h16 => some (if neg then 0xFC00 else 0x7C00)
  | .b8 _ false true => some (if neg then 0xFE else 0x7F)
  | .b8 _ true true => if neg then none else some 0xFD
  | .a56 => some (if neg then 2 ^ 55 + 1023 * 2 ^ 45 else 1023 * 2 ^ 45)
  | _ => none

/-- The value of a code (spec/10 R178 to R185, R194). -/
def Ty.decode (t : Ty) (c : Nat) : Val :=
  if t.isAbsent c then .absent
  else
    match t with
    | .el .e8s => if c = 0xFF then .nan false else .fin false 1 1 ((c : Int) - 127)
    | .b8 _ uns _ =>
      match t.bin with
      | none => .nan false
      | some b =>
        if c = t.nan then .nan false
        else if t.inf false = some c then .inf false
        else if t.inf true = some c then .inf true
        else if uns then b.mag false c
        else b.mag (128 ≤ c) (c % 128)
    | .el u =>
      match t.bin with
      | none => .int (u.toInt c)
      | some b =>
        let neg := 2 ^ (u.bits - 1) ≤ c
        let a := c % 2 ^ (u.bits - 1)
        if b.maxPos < a then
          (if a = b.maxPos + 1 then .inf neg else .nan (a / 2 ^ (b.m - 1) % 2 == 0))
        else b.mag neg a
    | .a56 =>
      let neg := 2 ^ 55 ≤ c
      let a := c % 2 ^ 55
      if a / 2 ^ 45 = 1023 then (if a % 2 ^ 45 = 0 then .inf neg else .nan false)
      else Bin.mag ⟨45, -510, 0, 0, none, true, true⟩ neg a

/-! ### Rounding (spec/10 R189 to R191) -/

/-- The magnitude of rint(z, rnd) for z = p ÷ q with a sign (spec/10 R189). -/
def rintMag (r : Rnd) (neg : Bool) (p q : Nat) : Nat :=
  let t := p / q
  let rem := p % q
  match r with
  | .rne => if q < 2 * rem ∨ (q = 2 * rem ∧ t % 2 = 1) then t + 1 else t
  | .rtz => t
  | .rup => if rem ≠ 0 ∧ neg = false then t + 1 else t
  | .rdn => if rem ≠ 0 ∧ neg = true then t + 1 else t
  | .rto => if rem ≠ 0 ∧ t % 2 = 0 then t + 1 else t

/-- num ÷ den × 2^e as a fraction in units of 2^q. -/
def inUnits (num den : Nat) (e q : Int) : Nat × Nat :=
  if q ≤ e then (num * 2 ^ (e - q).toNat, den) else (num, den * 2 ^ (q - e).toNat)

/-- floor(log2 (num ÷ den × 2^e)) for num ≠ 0. -/
def floorLog2 (num den : Nat) (e : Int) : Int :=
  let l : Int := (Nat.log2 num : Int) - Nat.log2 den
  let (p, q) := inUnits num den 0 l
  e + (if p < q then l - 1 else l)

/-- A magnitude code with its sign. -/
def Bin.signed (b : Bin) (neg : Bool) (c : Nat) : Nat :=
  match b.sign with
  | some k => if neg then 2 ^ k + c else c
  | none => c

/-- Zero of a type, with the sign where −0 exists. -/
def Bin.zero (b : Bin) (neg : Bool) : Nat := if b.negZero then b.signed neg 0 else 0

/-- The result of an overflow (spec/10 R190). -/
def Ty.overflow (t : Ty) (b : Bin) (neg : Bool) (r : Rnd) : Nat :=
  let mx := b.signed neg (if neg then b.maxNeg else b.maxPos)
  if b.ieee then
    let toInf := match r with
      | .rne => true
      | .rtz | .rto => false
      | .rup => !neg
      | .rdn => neg
    if toInf then (t.inf neg).getD mx else mx
  else mx

/-- round(x, t, rnd) of a finite exact value into a float or b8 type (spec/10 R189, R190). -/
def Ty.roundBin (t : Ty) (b : Bin) (r : Rnd) (neg : Bool) (num den : Nat) (e : Int) : Nat × Nat :=
  if num = 0 then (b.zero neg, 0)
  else if b.sign = none ∧ neg then (0, fNV)
  else
    let fl := floorLog2 num den e
    let q := max fl b.emin - b.m
    let (p, d) := inUnits num den e q
    let k := rintMag r neg p d
    let inexact := p % d ≠ 0
    let (p', d') := inUnits num den e (fl - b.m)
    let u := rintMag r neg p' d'
    let (up, ud) := inUnits u 1 (fl - b.m) b.emin
    let f1 := (if inexact then fNX else 0) ||| (if inexact ∧ up < ud then fUF else 0)
    let code := (q - (b.emin - b.m)).toNat * 2 ^ b.m + k
    if (if neg then b.maxNeg else b.maxPos) < code then (t.overflow b neg r, f1 ||| fOF ||| fNX)
    else if k = 0 then (b.zero neg, f1)
    else (b.signed neg code, f1)

/-- round of a finite exact value into an integer type: saturating, with ISAT (spec/10 R187, R189, R191). A negative value
to an unsigned type is DEDUCED (log 49). -/
def roundInt (t : ElemTy) (r : Rnd) (neg : Bool) (num den : Nat) (e : Int) : Nat × Nat :=
  if t.isUnsigned ∧ neg ∧ num ≠ 0 then (0, fISAT)
  else
    let (p, q) := inUnits num den e 0
    let k := rintMag r neg p q
    let y : Int := if neg then -(k : Int) else k
    let f := if p % q ≠ 0 then fNX else 0
    let (lo, hi) := t.range
    if hi < y then (t.ofInt hi, f ||| fISAT) else if y < lo then (t.ofInt lo, f ||| fISAT) else (t.ofInt y, f)

/-- round(x, t, rnd) of any value, with the flags it sets (spec/10 R189 to R191). -/
def Ty.round (t : Ty) (r : Rnd) (v : Val) : Nat × Nat :=
  match t.bin with
  | some b =>
    match v with
    | .absent => (t.absent.getD t.nan, 0)
    | .nan sig => (t.nan, if sig then fNV else 0)
    | .inf neg =>
      match t.inf neg with
      | some c => (c, 0)
      | none => if b.sign = none ∧ neg then (0, fNV) else (b.signed neg (if neg then b.maxNeg else b.maxPos), fOF ||| fNX)
    | .fin neg num den e => t.roundBin b r neg num den e
  | none =>
    match t with
    | .el u =>
      match v with
      | .absent => match t.absent with
        | some c => (c, 0)
        | none => (0, fNV)
      | .nan _ => (0, fNV)
      | .inf neg => (u.ofInt (if neg then u.range.1 else u.range.2), fISAT ||| fNV)
      | .fin neg num den e => roundInt u r neg num den e
    | _ => (0, 0)

/-! ### Exact arithmetic -/

/-- The signed numerator of a finite value over den × 2^-q. -/
def finNum (neg : Bool) (x : Nat) : Int := if neg then -(x : Int) else x

/-- The exact sum of two finite values; an exact zero of opposite signs is −0 under RDN only (IEEE 754-2019). -/
def finAdd (r : Rnd) (n1 : Bool) (a1 d1 : Nat) (e1 : Int) (n2 : Bool) (a2 d2 : Nat) (e2 : Int) : Val :=
  let q := min e1 e2
  let x := finNum n1 (a1 * 2 ^ (e1 - q).toNat * d2)
  let y := finNum n2 (a2 * 2 ^ (e2 - q).toNat * d1)
  let z := x + y
  if z = 0 then .fin (if n1 = n2 then n1 else r == .rdn) 0 1 0 else .fin (decide (z < 0)) z.natAbs (d1 * d2) q

/-- The exact sum, with NV for an infinity less itself. NaN operands come first; ABSENT is the caller's. -/
def Val.add (r : Rnd) (x y : Val) : Val × Nat :=
  match x, y with
  | .nan s, .nan t => (.nan false, if s || t then fNV else 0)
  | .nan s, _ => (.nan false, if s then fNV else 0)
  | _, .nan t => (.nan false, if t then fNV else 0)
  | .inf a, .inf b => if a = b then (.inf a, 0) else (.nan false, fNV)
  | .inf a, _ => (.inf a, 0)
  | _, .inf b => (.inf b, 0)
  | .fin n1 a1 d1 e1, .fin n2 a2 d2 e2 => (finAdd r n1 a1 d1 e1 n2 a2 d2 e2, 0)
  | .absent, v => (v, 0)
  | v, .absent => (v, 0)

/-- The value with its sign turned. -/
def Val.neg : Val → Val
  | .inf n => .inf (!n)
  | .fin n a d e => .fin (!n) a d e
  | v => v

/-- The magnitude. -/
def Val.abs : Val → Val
  | .inf _ => .inf false
  | .fin _ a d e => .fin false a d e
  | v => v

/-- The value is a zero. -/
def Val.isZero : Val → Bool
  | .fin _ a _ _ => a == 0
  | _ => false

/-- The value is a signalling NaN. -/
def Val.isSig : Val → Bool
  | .nan s => s
  | _ => false

/-- The value is a NaN. -/
def Val.isNan : Val → Bool
  | .nan _ => true
  | _ => false

/-- The value is finite. -/
def Val.isFin : Val → Bool
  | .fin _ _ _ _ => true
  | _ => false

/-- The sign of an infinity or a finite value. -/
def Val.isNeg : Val → Bool
  | .inf n => n
  | .fin n _ _ _ => n
  | _ => false

/-- The exact product, with NV for an infinity times zero. -/
def Val.mul (x y : Val) : Val × Nat :=
  match x, y with
  | .nan s, .nan t => (.nan false, if s || t then fNV else 0)
  | .nan s, _ => (.nan false, if s then fNV else 0)
  | _, .nan t => (.nan false, if t then fNV else 0)
  | .inf a, v => if v.isZero then (.nan false, fNV) else (.inf (a != v.isNeg), 0)
  | v, .inf b => if v.isZero then (.nan false, fNV) else (.inf (b != v.isNeg), 0)
  | .fin n1 a1 d1 e1, .fin n2 a2 d2 e2 => (.fin (n1 != n2) (a1 * a2) (d1 * d2) (e1 + e2), 0)
  | .absent, _ => (.absent, 0)
  | _, .absent => (.absent, 0)

/-- The exact quotient: NV for 0 ÷ 0 and ∞ ÷ ∞, DZ for a finite value over zero (IEEE 754-2019). -/
def Val.div (x y : Val) : Val × Nat :=
  match x, y with
  | .nan s, .nan t => (.nan false, if s || t then fNV else 0)
  | .nan s, _ => (.nan false, if s then fNV else 0)
  | _, .nan t => (.nan false, if t then fNV else 0)
  | .inf _, .inf _ => (.nan false, fNV)
  | .inf a, v => (.inf (a != v.isNeg), 0)
  | v, .inf b => (.fin (b != v.isNeg) 0 1 0, 0)
  | .fin n1 a1 d1 e1, .fin n2 a2 d2 e2 =>
    if a2 = 0 then (if a1 = 0 then (.nan false, fNV) else (.inf (n1 != n2), fDZ))
    else (.fin (n1 != n2) (a1 * d2) (d1 * a2) (e1 - e2), 0)
  | .absent, _ => (.absent, 0)
  | _, .absent => (.absent, 0)

/-- Order of two values that are not NaN or ABSENT, −0 equal to +0: less, equal or greater. -/
def Val.cmp (x y : Val) : Ordering :=
  match x, y with
  | .inf a, .inf b => if a = b then .eq else if a then .lt else .gt
  | .inf a, _ => if a then .lt else .gt
  | _, .inf b => if b then .gt else .lt
  | .fin n1 a1 d1 e1, .fin n2 a2 d2 e2 =>
    let q := min e1 e2
    compare (finNum n1 (a1 * 2 ^ (e1 - q).toNat * d2)) (finNum n2 (a2 * 2 ^ (e2 - q).toNat * d1))
  | _, _ => .eq

/-- x is below y with +0 above −0 (spec/07 R130). -/
def Val.below (x y : Val) : Bool :=
  match x.cmp y with
  | .lt => true
  | .gt => false
  | .eq => x.isNeg && !y.isNeg

/-! ### The float operations of atomics and reductions (spec/07 R129, R130) -/

/-- The type of an atomic as a number type. -/
def amoTy : AmoTy → Ty
  | .d => .el .i64
  | .w => .el .i32
  | .f32 => .el .f32
  | .bf16 => .el .bf16
  | .h16 => .el .h16

/-- fadd: RNE, ABSENT the identity (spec/07 R130). -/
def faddCode (t : Ty) (m x : Nat) : Nat × Nat :=
  if t.isAbsent x then (m, 0)
  else if t.isAbsent m then (x, 0)
  else
    let (v, f) := Val.add .rne (t.decode m) (t.decode x)
    let (c, g) := t.round .rne v
    (c, f ||| g)

/-- fmax and fmin: a NaN gives the canonical NaN, a signalling one sets NV; ABSENT the identity (spec/07 R130). -/
def fmaxCode (t : Ty) (isMin : Bool) (m x : Nat) : Nat × Nat :=
  if t.isAbsent x then (m, 0)
  else if t.isAbsent m then (x, 0)
  else
    let a := t.decode m
    let b := t.decode x
    if a.isNan || b.isNan then (t.nan, if a.isSig || b.isSig then fNV else 0)
    else if isMin then (if b.below a then x else m, 0) else (if a.below b then x else m, 0)

/-- The step of an atomic at the word (spec/07 R129): the new word and the flags. -/
def amoStep (op : AmoOp) (ty : AmoTy) (m x cmp : Nat) : Nat × Nat :=
  let k := 8 * ty.size
  let u := if ty = .d then ElemTy.i64 else ElemTy.i32
  match op with
  | .add => ((m + x) % 2 ^ k, 0)
  | .and => (m &&& x, 0)
  | .or => (m ||| x, 0)
  | .xor => (m ^^^ x, 0)
  | .min => (if u.toInt m ≤ u.toInt x then m else x, 0)
  | .max => (if u.toInt x ≤ u.toInt m then m else x, 0)
  | .minn => (if m ≤ x then m else x, 0)
  | .maxn => (if x ≤ m then m else x, 0)
  | .xchg => (x, 0)
  | .cas => (if m = cmp then x else m, 0)
  | .fadd => faddCode (amoTy ty) m x
  | .fmax => fmaxCode (amoTy ty) false m x
  | .fmin => fmaxCode (amoTy ty) true m x
  | .amaxx => ((amoTy ty).absent.getD 0, 0)

/-- The value that an atomic returns: whole, sign-extended for .w, zero-extended for a float (spec/07 R129). -/
def amoExtend (ty : AmoTy) (old : Nat) : Nat :=
  match ty with
  | .w => (ElemTy.i32.toInt old % 2 ^ 64).toNat
  | _ => old

/-- The identity of a reduction (spec/07 R133). -/
def RedOp.identity (op : RedOp) (ty : AmoTy) : Nat :=
  match op with
  | .add => 0
  | _ => (amoTy ty).absent.getD 0

/-- One step of a reduction (spec/07 R133). -/
def redStep (op : RedOp) (ty : AmoTy) (m x : Nat) : Nat :=
  match op with
  | .add => (m + x) % 2 ^ (8 * ty.size)
  | .fadd => (faddCode (amoTy ty) m x).1
  | .fmax => (fmaxCode (amoTy ty) false m x).1

end Sys2Proof.Machine
end

