-- ==== Sys2Proof/Machine/Ops.lean ====
section
/-!
DEFINITION. Sys2Proof/Machine/Ops.lean: the named operations over memory, registers, tiles, plots and accesses in
flight; the end of an instruction; taking a trap and returning from one.
-/
namespace Sys2Proof

/-- CORES by grade (spec/14 R252). -/
def Grade.cores : Grade → Nat
  | .fx48 => 8
  | .fx48_7 => 7

end Sys2Proof

namespace Sys2Proof.Machine

/-! ### Sparse tables and byte memories -/

/-- The entry at a key; `d` where none is listed. -/
def Sparse.get {β : Type} (d : β) : Sparse β → Nat → β
  | [], _ => d
  | (k, v) :: m, a => if a < k then d else if a = k then v else Sparse.get d m a

/-- The table with an entry set; setting `d` removes the entry. -/
def Sparse.set {β : Type} [DecidableEq β] (d : β) : Sparse β → Nat → β → Sparse β
  | [], a, x => if x = d then [] else [(a, x)]
  | (k, v) :: m, a, x =>
    if a < k then (if x = d then (k, v) :: m else (a, x) :: (k, v) :: m)
    else if a = k then (if x = d then m else (a, x) :: m)
    else (k, v) :: Sparse.set d m a x

/-- Every key is above a bound, keys rise, and no entry is `d`. -/
def Sparse.wfFrom {β : Type} [DecidableEq β] (d : β) : Nat → Sparse β → Bool
  | _, [] => true
  | lo, (k, v) :: m => decide (lo ≤ k) && decide (v ≠ d) && Sparse.wfFrom d (k + 1) m

/-- The canonical form of a sparse table. -/
def Sparse.wf {β : Type} [DecidableEq β] (d : β) (m : Sparse β) : Bool := Sparse.wfFrom d 0 m

/-- The canonical form of a byte memory. -/
def Memory.wf (m : Mem) : Bool := Sparse.wf (0 : Byte) m

/-- One byte. -/
def Memory.read (m : Mem) (a : Nat) : Byte := Sparse.get (0 : Byte) m a

/-- The n bytes from an address, lowest address first. -/
def Memory.readN (m : Mem) (a : Nat) : Nat → List Byte
  | 0 => []
  | n + 1 => Memory.read m a :: Memory.readN m (a + 1) n

/-- Bytes written from an address upward. -/
def Memory.writeN (m : Mem) (a : Nat) : List Byte → Mem
  | [] => m
  | b :: bs => Memory.writeN (Sparse.set (0 : Byte) m a b) (a + 1) bs

/-- The n bytes from an address as a memory of their own. -/
def Memory.slice (m : Mem) (a n : Nat) : Mem :=
  (m.filter fun c => decide (a ≤ c.1 ∧ c.1 < a + n)).map fun c => (c.1 - a, c.2)

/-- A memory whose n bytes from an address are those of another memory. -/
def Memory.splice (m : Mem) (a n : Nat) (x : Mem) : Mem :=
  (m.filter fun c => decide (c.1 < a)) ++ ((x.filter fun c => decide (c.1 < n)).map fun c => (a + c.1, c.2))
    ++ m.filter fun c => decide (a + n ≤ c.1)

/-- Little-endian value of bytes (spec/00 R3). -/
def leNat : List Byte → Nat
  | [] => 0
  | b :: bs => b.toNat + 256 * leNat bs

/-- The n low bytes of a number, lowest first (spec/00 R3). -/
def leBytes : Nat → Nat → List Byte
  | 0, _ => []
  | n + 1, x => BitVec.ofNat 8 x :: leBytes n (x / 256)

/-- The 8-byte word at an address as a number. -/
def Memory.word (m : Mem) (a : Nat) : Nat := leNat (Memory.readN m a 8)

/-! ### Vectors by number -/

/-- An entry of a vector, `d` beyond its end. -/
def vget {α : Type} {n : Nat} (v : Vector α n) (i : Nat) (d : α) : α := v[i]?.getD d

/-- A vector with an entry set, unchanged beyond its end. -/
def vset {α : Type} {n : Nat} (v : Vector α n) (i : Nat) (x : α) : Vector α n := v.setIfInBounds i x

/-- Bits hi to lo of a word as a number (spec/00 R3). -/
def bits (x : Word) (hi lo : Nat) : Nat := x.toNat / 2 ^ lo % 2 ^ (hi + 1 - lo)

/-! ### Tiles and slots -/

/-- A tile. -/
def State.getTile (s : State) (t : Nat) : Tile :=
  if t = s.cur.tile then s.tile else Sparse.get Tile.reset s.wafer.tiles t

/-- The machine with a tile replaced. -/
def State.setTile (s : State) (t : Nat) (x : Tile) : State :=
  if t = s.cur.tile then { s with tile := x }
  else { s with wafer := { s.wafer with tiles := Sparse.set Tile.reset s.wafer.tiles t x } }

/-- A tile changed by a function. -/
def State.onTile (s : State) (t : Nat) (f : Tile → Tile) : State := s.setTile t (f (s.getTile t))

/-- The context of a tile changed by a function. -/
def State.onCtx (s : State) (t : Nat) (f : Ctx → Ctx) : State := s.onTile t fun x => { x with ctx := f x.ctx }

/-- The index of a slot in its tile: slot number n stands for 4 × logical core + slot (spec/03 R55). -/
def slotIx (l : SlotLoc) : Nat := 4 * l.core + l.slot

/-- A slot. -/
def State.getSlot (s : State) (l : SlotLoc) : Slot :=
  if l = s.cur then s.slot else vget (s.getTile l.tile).ctx.slots (slotIx l) Slot.reset

/-- The machine with a slot replaced. -/
def State.setSlot (s : State) (l : SlotLoc) (x : Slot) : State :=
  if l = s.cur then { s with slot := x } else s.onCtx l.tile fun c => { c with slots := vset c.slots (slotIx l) x }

/-- A slot changed by a function. -/
def State.onSlot (s : State) (l : SlotLoc) (f : Slot → Slot) : State := s.setSlot l (f (s.getSlot l))

/-- The slot at hand put back into its tile. -/
def State.putBack (s : State) : State :=
  { s with tile := { s.tile with ctx := { s.tile.ctx with slots := vset s.tile.ctx.slots (slotIx s.cur) s.slot } } }

/-- The slot at hand taken out of its tile again. -/
def State.takeOut (s : State) : State :=
  { s with slot := vget s.tile.ctx.slots (slotIx s.cur) Slot.reset
           tile := { s.tile with ctx := { s.tile.ctx with slots := vset s.tile.ctx.slots (slotIx s.cur) Slot.reset } } }

/-- Another slot at hand; nothing else changes. -/
def State.focus (s : State) (l : SlotLoc) : State :=
  if l = s.cur then s
  else if l.tile = s.cur.tile then ({ s.putBack with cur := l }).takeOut
  else
    let s := s.putBack
    let tiles := Sparse.set Tile.reset s.wafer.tiles s.cur.tile s.tile
    let t := Sparse.get Tile.reset tiles l.tile
    ({ s with cur := l, tile := t, wafer := { s.wafer with tiles := Sparse.set Tile.reset tiles l.tile Tile.reset } }).takeOut

/-- An operation on a tile whose every slot stands in its context. -/
def State.onWhole (s : State) (f : State → State) : State := (f s.putBack).takeOut

/-- The places of the 32 slots of a tile. -/
def slotLocs (t : Nat) : List SlotLoc := (List.range 32).map fun i => ⟨t, i / 4, i % 4⟩

/-- Every slot of a tile changed by a function. -/
def State.onSlots (s : State) (t : Nat) (f : Slot → Slot) : State := (slotLocs t).foldl (fun s l => s.onSlot l f) s

/-! ### The grid, plots and handles -/

/-- The grid index of a position (spec/14 R249, spec/18 R293). -/
def gridIx (x y : Nat) : Nat := 176 * y + x

/-- The holes of the grid (spec/14 R251). -/
def hole (x y : Nat) : Bool := decide (9 ≤ x % 22 ∧ x % 22 ≤ 12 ∧ 10 ≤ y % 23 ∧ y % 23 ≤ 12)

/-- The tiles of the rectangle at (x0, y0), row-major without holes (spec/14 R251). -/
def rectTiles (x0 y0 w h : Nat) : List Nat :=
  (List.range h).flatMap fun j => (List.range w).filterMap fun i =>
    if hole (x0 + i) (y0 + j) then none else some (gridIx (x0 + i) (y0 + j))

/-- The tiles of a plot in the order of their logical numbers. -/
def Plot.tiles (p : Plot) : List Nat := rectTiles p.x0 p.y0 p.w p.h

/-- TILES of a plot (spec/14 R251). -/
def Plot.count (p : Plot) : Nat := p.tiles.length

/-- The grid index of a logical tile of a plot. -/
def Plot.at (p : Plot) (n : Nat) : Nat := p.tiles[n]?.getD 0

/-- The die of a position, numbered row-major over 8 × 6 dies (spec/14 R249). -/
def dieOf (t : Nat) : Nat := t / 176 / 23 * 8 + t % 176 / 22

/-- The router at which the data plane meets the cellar of a die: one of its holes (spec/18 R290; log 38). -/
def cellarAt (d : Nat) : Nat := gridIx (22 * (d % 8) + 9) (23 * (d / 8) + 10)

/-- A live plot by its number. -/
def State.plot (s : State) (n : Nat) : Option Plot := s.wafer.plots.find? fun p => p.num == n

/-- The plot that holds a tile. -/
def State.plotOf (s : State) (t : Nat) : Option Plot := (s.getTile t).ctx.plot.bind s.plot

/-- A plot replaced under its number. -/
def State.setPlot (s : State) (p : Plot) : State :=
  { s with wafer := { s.wafer with plots := s.wafer.plots.map fun q => if q.num = p.num then p else q } }

/-- The plot of the slot at hand. -/
def State.own (s : State) : Option Plot := s.tile.ctx.plot.bind s.plot

/-- A handle with its generation, index in [19:0] (spec/06 R116). -/
def HEntry.handle (e : HEntry) : Nat := e.gen * 2 ^ 20 + e.index

/-- The object that a handle names, if the check of spec/06 R117 passes. -/
def Plot.find (p : Plot) (h : Nat) : Option Obj :=
  if h % 2 ^ 20 < 65536 then
    (p.handles.find? fun e => e.index == h % 2 ^ 20 && e.gen == h / 2 ^ 20 % 4096).bind HEntry.obj
  else none

/-- The object of a handle replaced. -/
def Plot.put (p : Plot) (h : Nat) (o : Obj) : Plot :=
  { p with handles := p.handles.map fun e => if e.index = h % 2 ^ 20 then { e with obj := some o } else e }

/-- A die's cellar. -/
def State.die (s : State) (d : Nat) : Die := Sparse.get Die.reset s.wafer.dies d

/-- A die's cellar changed. -/
def State.onDie (s : State) (d : Nat) (f : Die → Die) : State :=
  { s with wafer := { s.wafer with dies := Sparse.set Die.reset s.wafer.dies d (f (s.die d)) } }

/-- The die whose cellar polices a plot: that of its origin tile (spec/14 R251). -/
def Plot.die (p : Plot) : Nat := dieOf (p.at 0)

/-- A ring number from an ASID (spec/06 R112, spec/18 R299). -/
def ringOf (asid : Nat) : Nat :=
  asid % 8 ^^^ asid / 8 % 8 ^^^ asid / 64 % 8 ^^^ asid / 512 % 8 ^^^ asid / 4096 % 8 ^^^ asid / 32768 % 2

/-- A report to the cellar or to the outside. -/
def State.report (s : State) (r : Report) : State := { s with wafer := { s.wafer with reports := r :: s.wafer.reports } }

/-! ### Words the hardware shows -/

/-- CTXID of a plot (spec/03 R58). -/
def Plot.ctxid (p : Plot) : Word := BitVec.ofNat 64 (p.tenant % 65536 * 2 ^ 32 + p.num % 65536 * 2 ^ 16 + p.asid % 65536)

/-- SLOT of a slot that runs a record of a queue on logical tile n (spec/03 R58). -/
def slotWord (n : Nat) (queue core slot : Nat) : Word :=
  BitVec.ofNat 64 (n % 65536 * 2 ^ 16 + queue % 16 * 2 ^ 8 + core % 8 * 16 + slot % 4)

/-- The SLOT register of a slot. -/
def State.slotReg (s : State) (l : SlotLoc) : Word :=
  slotWord (s.getTile l.tile).ctx.n (s.getSlot l).run.queue l.core l.slot

/-- The window 0x9 pointer to an offset of logical tile n (spec/02 R38, spec/06 R92). -/
def ptr9 (n off : Nat) : Word := BitVec.ofNat 64 (9 * 2 ^ 60 + n % 65536 * 2 ^ 32 + off % 2 ^ 20)

/-- The stage of a queue on a tile (spec/14 R253). -/
def State.stageOf (s : State) (t queue : Nat) : Nat := (vget (s.getTile t).ctx.stages queue 0).toNat

/-! ### Clocks (spec/16 R266, R267, R271, R274) -/

/-- The present cycle of a tile's clock. -/
def State.clk (s : State) (t : Nat) : Nat := (s.getTile t).clk

/-- The present cycle of the clock of the tile at hand. -/
def State.now (s : State) : Nat := s.tile.clk

/-- The wafer time in 968ths of a nanosecond: the clocks of elastic tiles run between nanoseconds (spec/16 R266, R270). -/
def State.instant (s : State) : Nat := s.wafer.time * 968 + s.wafer.fine

/-- The period of a tile's clock in 968ths of a nanosecond: 1.0 GHz in plumb mode, 1.1 GHz in elastic mode, 1.21 GHz
under boost. -/
def State.period (s : State) (t : Nat) : Nat :=
  if (s.plotOf t).any Plot.plumb then 968 else if (s.getTile t).fast then 800 else 880

/-- A slot for which every latency has passed. -/
def Slot.unpaced (x : Slot) : Slot :=
  { x with notBefore := 0, stallFrom := none, waitFrom := none, sat := Vector.replicate 32 0, vat := Vector.replicate 16 0 }

/-- A slot that returns from a pre-emption: its waits are abandoned and its instruction issues afresh, which is a refresh
point (spec/08 R155, R173; spec/18 R300). -/
def Slot.returned (x : Slot) : Slot :=
  { x.unpaced with snap := [], buf := [], xl := [], bwait := none, mwait := none, idleTo := none, leaving := none }

/-- A context for which every latency has passed, at a cycle of another clock. -/
def Ctx.unpaced (c : Ctx) (now : Nat) : Ctx :=
  { c with
    slots := c.slots.map Slot.unpaced
    nextIssue := Vector.replicate 8 0
    divAt := Vector.replicate 8 0
    vecAt := Vector.replicate 8 0
    dispAt := 0
    leesFullAt := none
    mq := c.mq.map fun q => q.map fun x => { x with since := 0 }
    arrayArb := { c.arrayArb with till := 0 }
    transferArb := { c.transferArb with till := 0 }
    ramp := { c.ramp with accAt := now, beg := now, ended := 0, due := now, tailDue := now } }

/-- A tile's clock as a plot in plumb mode keeps it: its cycle is the wafer time. Another one runs on, at its nominal
frequency. Every bank is free. -/
def Tile.clocked (x : Tile) (plumb : Bool) (time fine : Nat) : Tile :=
  { x with
    clk := if plumb then time else x.clk
    edge := if plumb then (time + 1) * 968 else time * 968 + fine + 880
    droop := 0
    fast := false
    bankAt := Vector.replicate 32 0
    caskAt := Vector.replicate 8 0 }

/-- A tile whose boost ends within an interval: its budgets are those of F = 16, and what the boost had given beyond them is
taken out of what is left (spec/16 R267, R275; DESIGN CHOICE: log 70). -/
def Tile.unboosted (x : Tile) : Tile :=
  if x.boost then
    let more := x.reserves.map fun r => x.e * r / 16 - x.enom * r / 16
    { x with
      boost := false, fast := false, e := x.enom, i := x.inom, irem := x.irem - ((x.i : Int) - x.inom)
      pools := Vector.ofFn fun k => x.pools[k] - more[k]
      common := x.common - (x.e - x.enom - more.toList.sum) }
  else x

/-- A tile of a plumb plot takes neither boost nor reverse bias (spec/16 R267). -/
def Tile.unbiased (x : Tile) : Tile := { x.unboosted with reverse := false, fast := false, idle := 0 }

/-- The accesses of a tile for which every latency has passed. -/
def State.unpaceFlights (s : State) (t : Nat) : State :=
  { s with flights := s.flights.map fun f => if f.tile = t then { f with land := 0, due := 0 } else f }

/-- Cycles counted on a tile (spec/16 R271). The plot cycle count in plumb mode; else the elastic count. -/
def State.cycles (s : State) (t : Nat) : Nat :=
  let c := (s.getTile t).ctx
  let el := if (s.getTile t).quiet then c.cyc else c.cyc + (s.clk t - c.cycFrom)
  match s.plotOf t with
  | some p => if p.plumb then s.wafer.time - p.epoch else el
  | none => el

/-! ### Record memory, written by the hardware (spec/02 R19, R20) -/

/-- A word of a tile's scratchpad. -/
def State.spadWord (s : State) (t off : Nat) : Nat := Memory.word (s.getTile t).ctx.spad off

/-- A word of record memory set by the hardware. -/
def Ctx.putWord (c : Ctx) (off x : Nat) : Ctx := { c with spad := Memory.writeN c.spad off (leBytes 8 x) }

/-- A word of a tile marked full or empty (spec/06 R97). -/
def Ctx.setFull (c : Ctx) (off : Nat) (full : Bool) : Ctx :=
  let e := c.empties
  { c with empties :=
      if full then e.filter fun x => x != off
      else if e.contains off then e else (e.filter fun x => x < off) ++ off :: e.filter fun x => off < x }

/-- The full/empty bit of a word. -/
def Ctx.full (c : Ctx) (off : Nat) : Bool := !c.empties.contains off

/-- STATE of a record (spec/02 R19). -/
def Ctx.recState (c : Ctx) (off : Nat) : Nat := Memory.word c.spad off / 2 ^ 60

/-- STATE of a record set; PC kept. -/
def Ctx.setState (c : Ctx) (off st : Nat) : Ctx := c.putWord off (st * 2 ^ 60 + Memory.word c.spad off % 2 ^ 60)

/-- STATE and PC of a record set. -/
def Ctx.setHead (c : Ctx) (off st : Nat) (pc : Word) : Ctx := c.putWord off (st * 2 ^ 60 + bits pc 56 2 * 4)

/-- KIND and PARAM of a record set. -/
def Ctx.setWait (c : Ctx) (off kind param : Nat) : Ctx := c.putWord (off + 8) (kind * 2 ^ 60 + param % 2 ^ 60)

/-- The carried words s1 to s6 of a record set with their bits (spec/02 R19). -/
def Ctx.setCarried (c : Ctx) (off : Nat) (regs : List (Word × Bool)) : Ctx :=
  ((List.range 6).zip regs).foldl (fun c (i, x, f) =>
    (c.putWord (off + 16 + 8 * i) x.toNat).setFull (off + 16 + 8 * i) f) c

/-- A record made ready at a time (spec/02 R20). -/
def Ctx.makeReady (c : Ctx) (now queue index off : Nat) : Ctx :=
  { (c.setState off 1).setWait off 0 0 with
    ready := c.ready ++ [⟨queue, index, off, now, 0⟩]
    waits := c.waits.filter fun w => w.off != off }

/-- A record made ready at the tile's time. -/
def State.makeReady (s : State) (t queue index off : Nat) : State :=
  let now := s.cycles t
  s.onCtx t fun c => c.makeReady now queue index off

/-! ### Bind records (spec/02 R26) -/

/-- A bind record read into its fields. -/
structure Bind where
  valid : Bool
  mask : Nat
  prio : Nat
  age : Bool
  cls : Nat
  depth : Nat
  base : Nat
  energy : Nat
  current : Nat
  deriving DecidableEq, Repr

/-- The fields of a bind record. -/
def Bind.of (w : Word × Word) : Bind where
  valid := bits w.1 63 63 == 1
  mask := bits w.1 55 48
  prio := bits w.1 47 46
  age := bits w.1 45 45 == 1
  cls := bits w.1 44 43
  depth := bits w.1 39 32 + 1
  base := bits w.1 19 6 * 64
  energy := bits w.2 31 16
  current := bits w.2 15 0

/-- The bind record of a queue. -/
def Ctx.bind (c : Ctx) (q : Nat) : Bind := Bind.of (vget c.binds q (0, 0))

/-- The queue and index of the record that holds an offset, in a queue that a valid bind record names (spec/02 R24). -/
def Ctx.recordAt (c : Ctx) (off : Nat) : Option (Nat × Nat) :=
  (List.range 16).findSome? fun q =>
    let b := c.bind q
    if b.valid ∧ b.base ≤ off ∧ off < b.base + 64 * b.depth then some (q, (off - b.base) / 64) else none

/-- The lowest byte of a range that lies in a record of a valid queue (spec/02 R24). -/
def Ctx.firstRecord (c : Ctx) (off n : Nat) : Option Nat :=
  ((List.range 16).filterMap fun q =>
    let b := c.bind q
    if b.valid ∧ b.base < off + n ∧ off < b.base + 64 * b.depth then some (max off b.base) else none).min?

/-- A context of a plot, in a tile or waiting. -/
def Ctx.ofPlot (c : Ctx) (n : Nat) : Bool := c.plot == some n

/-- The waiting contexts of a tile (spec/18 R307). -/
def State.waitingCtxs (s : State) (t : Nat) : List Ctx :=
  let x := s.getTile t
  ([x.shadowA, x.shadowB].filterMap fun y => y.map Shadow.ctx) ++ (s.wafer.away.filterMap fun y => if y.1 = t then some y.2.2.ctx else none)

/-- The context of a plot for a tile, on it or waiting for it. -/
def State.ctxOf (s : State) (t plot : Nat) : Option Ctx := ((s.getTile t).ctx :: s.waitingCtxs t).find? fun c => c.ofPlot plot

/-- A waiting context changed. -/
def Shadow.onCtx (f : Ctx → Ctx) (y : Shadow) : Shadow := { y with ctx := f y.ctx }

/-- The waiting contexts of a tile changed. -/
def State.onWaiting (s : State) (t : Nat) (f : Ctx → Ctx) : State :=
  let s := s.onTile t fun x => { x with shadowA := x.shadowA.map (Shadow.onCtx f), shadowB := x.shadowB.map (Shadow.onCtx f) }
  { s with wafer := { s.wafer with away := s.wafer.away.map fun y => if y.1 = t then (y.1, y.2.1, y.2.2.onCtx f) else y } }

/-- The context of a plot changed, on its tile or where it waits for it. -/
def State.onCtxOf (s : State) (t plot : Nat) (f : Ctx → Ctx) : State :=
  if (s.getTile t).ctx.ofPlot plot then s.onCtx t f else s.onWaiting t fun c => if c.ofPlot plot then f c else c

/-- The lowest byte of a range that lies in record memory of a plot, whether the plot's context stands on the tile or
waits for it. -/
def State.recordHit (s : State) (plot : Nat) (p : Place) (n : Nat) : Option Nat :=
  match p.sp with
  | .spad t => (s.ctxOf t plot).bind fun c => c.firstRecord p.off n
  | _ => none

/-! ### Registers of the slot at hand -/

/-- s[r]; s0 reads zero (spec/03 R55). -/
def Slot.s (x : Slot) (r : Reg) : Word := if r = 0 then 0 else x.sreg.get r.toFin

/-- The full bit of s[r]; s0 is always full (spec/03 R43). -/
def Slot.isFull (x : Slot) (r : Reg) : Bool := r == 0 || x.sfull.getLsbD r.toNat

/-- v[r]. -/
def Slot.v (x : Slot) (r : VNum) : VReg := x.vreg.get r.toFin

/-- The full bit of v[r]. -/
def Slot.vIsFull (x : Slot) (r : VNum) : Bool := x.vfull.getLsbD r.toNat

/-- A bit of a mask set or cleared. -/
def setBit {n : Nat} (m : BitVec n) (i : Nat) (b : Bool) : BitVec n :=
  if b then m ||| BitVec.ofNat n (2 ^ i) else m &&& ~~~BitVec.ofNat n (2 ^ i)

/-- write(i, x): the value, marked full, readable from a cycle on; s0 discards it (spec/03 R62, spec/04 R86). -/
def Slot.writeFrom (x : Slot) (r : Reg) (w : Word) (at_ : Nat) : Slot :=
  if r = 0 then x
  else { x with
    sreg := x.sreg.set r.toNat w r.isLt, sfull := setBit x.sfull r.toNat true, sat := x.sat.set r.toNat at_ r.isLt }

/-- write(i, x), readable at once. -/
def Slot.write (x : Slot) (r : Reg) (w : Word) : Slot := x.writeFrom r w 0

/-- A vector register written, marked full and readable from a cycle on (spec/11 R202). -/
def Slot.vwriteFrom (x : Slot) (r : VNum) (w : VReg) (at_ : Nat) : Slot :=
  { x with
    vreg := x.vreg.set r.toNat w r.isLt, vfull := setBit x.vfull r.toNat true, vat := x.vat.set r.toNat at_ r.isLt }

/-- A vector register written, readable at once. -/
def Slot.vwrite (x : Slot) (r : VNum) (w : VReg) : Slot := x.vwriteFrom r w 0

/-- pend(i): the register empty until its value arrives (spec/03 R62); s0 never becomes empty. -/
def Slot.pend (x : Slot) : Dest → Slot
  | .none => x
  | .s r => if r = 0 then x else { x with sfull := setBit x.sfull r.toNat false }
  | .v r => { x with vfull := setBit x.vfull r.toNat false }

/-- A late value placed in its destination. -/
def Slot.deliver (x : Slot) (d : Dest) (val : Nat) : Slot :=
  match d with
  | .none => x
  | .s r => x.write r (BitVec.ofNat 64 val)
  | .v r => x.vwrite r (BitVec.ofNat 4096 val)

/-- The number of a destination in TRAPV of EMPTY_READ (spec/03 R43). -/
def Dest.num : Dest → Nat
  | .none => 0
  | .s r => r.toNat
  | .v r => 32 + r.toNat

/-- The slot at hand changed. -/
def State.onCur (s : State) (f : Slot → Slot) : State := { s with slot := f s.slot }

/-- write(i, x) in the slot at hand. -/
def State.write (s : State) (r : Reg) (x : Word) : State := { s with slot := s.slot.write r x }

/-! ### Accesses in flight -/

/-- A packet as the injection guard of a tile stamps it: its time, class, source and plot (spec/18 R290, R293). -/
def State.packet (s : State) (t goal rank flits unit : Nat) : Packet where
  at_ := t
  to_ := goal
  nowhere := false
  rank := rank
  flits := flits
  esc := false
  ts := s.wafer.time / 8 % 2 ^ 20
  unit := unit
  plot := (s.getTile t).ctx.plot.getD 0
  src := t * 8 + unit
  lane := none
  via := t

/-- An access of the running record of the slot at hand, from here to a tile. -/
def State.flight (s : State) (dest : Dest) (cls : Cls) (rel acq : Bool) (goal rank flits : Nat) (ptr : Word) (req : Req) : Flight where
  tile := s.cur.tile
  core := s.cur.core
  slot := s.cur.slot
  owner := s.slot.run.off
  plot := s.tile.ctx.plot.getD 0
  seq := s.stamp
  dest := if dest = .s 0 then .none else dest
  cls := cls
  rel := rel
  acq := acq
  pub := false
  st := .going
  pkt := s.packet s.cur.tile goal rank flits 0
  sent := s.packet s.cur.tile goal rank flits 0
  ptr := ptr
  req := req
  land := s.now
  due := s.now
  lines := []
  got := []

/-- An access applied and answered after cycles of its own (spec/03 R340). -/
def Flight.lasting (f : Flight) (land due : Nat) : Flight := { f with land := f.land + land, due := f.due + due }

/-- An access sent: its destination empties (spec/03 R44). -/
def State.send (s : State) (f : Flight) : State :=
  { s with flights := s.flights ++ [f], slot := s.slot.pend f.dest, stamp := s.stamp + 1 }

/-- A value that is on its way to a register of the slot at hand, with its result latency (spec/03 R44, R340). -/
def State.later (s : State) (dest : Dest) (cls : Cls) (acq : Bool) (val : Nat) (lat : Nat := 0) : State :=
  s.send { (s.flight dest cls false acq s.cur.tile 4 1 0 .reply).lasting 0 lat with st := .served val 0 }

/-- An access in flight replaced. -/
def State.setFlight (s : State) (n : Nat) (f : Flight) : State := { s with flights := s.flights.set n f }

/-- An access in flight ended. -/
def State.dropFlight (s : State) (n : Nat) : State := { s with flights := s.flights.eraseIdx n }

/-- An instruction of a record of a plot's tile made the access, and no engine on its behalf. -/
def Flight.of (f : Flight) (t plot off : Nat) : Bool := f.tile == t && f.plot == plot && f.owner == off && f.pkt.unit == 0

/-- The access belongs to the record that runs in the slot at hand. -/
def State.mine (s : State) (f : Flight) : Bool := f.of s.cur.tile (s.tile.ctx.plot.getD 0) s.slot.run.off

/-- A producer into a destination of the running record is outstanding (spec/03 R44). -/
def State.producing (s : State) (d : Dest) : Bool := s.flights.any fun f => s.mine f && f.dest == d && d != .none

/-- Deliveries to a register of the record that a slot runs are cancelled (spec/17 R286). -/
def State.cancel (s : State) (l : SlotLoc) (d : Dest) : State :=
  let off := (s.getSlot l).run.off
  let plot := (s.getTile l.tile).ctx.plot.getD 0
  { s with flights := s.flights.map fun f => if f.of l.tile plot off && f.dest == d then { f with dest := .none } else f }

/-- A register of a slot written with its full/empty bit. -/
def Slot.put (x : Slot) (d : Dest) (v : Nat) (full : Bool) : Slot :=
  let x := x.deliver d v
  let x := if full then x else x.pend d
  { x with badReg := x.badReg.filter fun b => b.1 != d.num }

/-- The result of an instruction that the cellar executes on a halted slot: a delivery that its register awaits is cancelled,
so that the later write wins (spec/03 R44; spec/17 R286; DEDUCED: log 73). -/
def State.putReg (s : State) (l : SlotLoc) (d : Reg) (x : Word) : State :=
  if d = 0 then s else (s.cancel l (.s d)).onSlot l fun y => y.put (.s d) x.toNat true

/-- An access of these classes that the running record issued is not yet performed (spec/07 R135). -/
def State.outstanding (s : State) (cs : List Cls) : Bool := s.flights.any fun f => s.mine f && cs.contains f.cls

/-- A write that must be acknowledged before a release (spec/08 R160). -/
def Flight.isWrite (f : Flight) : Bool := f.cls == .st || f.cls == .fe || f.cls == .amo

/-- An acquire that has not delivered holds later accesses (spec/08 R160). -/
def State.acquiring (s : State) : Bool := s.flights.any fun f => s.mine f && f.acq

/-! ### Stalling -/

/-- What a meaning answers. -/
abbrev Out := Host.Outcome State Fault Refusal

/-- The slot at hand issues nothing in its turn, and tries again in the next cycle (spec/02 R31, spec/04 R86). -/
def Slot.hold (x : Slot) (now : Nat) : Slot := { x with held := true, notBefore := now + 1 }

/-- The slot stalls at its instruction: it issues afresh at a later turn. Only a stall on empty sources counts against
FECFG.LIMIT (spec/03 R43). -/
def stalled (s : State) : Out := .next { s with slot := { s.slot.hold s.now with stallFrom := none } }

/-- The slot stalls on empty sources, of which it would report the register numbered `reg` (spec/03 R43). -/
def stalledEmpty (reg : Nat) (s : State) : Out :=
  .next { s with slot := { s.slot.hold s.now with
    stallFrom := some (s.slot.stallFrom.getD s.now), stallReg := reg } }

/-- The cycle in which the instruction first issued. -/
def State.waitStart (s : State) : Nat := s.slot.waitFrom.getD s.now

/-- An instruction that waits in place counts from the cycle in which it issued; only its later turns issue nothing
(spec/07 R135; spec/15 R261). -/
def waiting (s : State) : Out :=
  .next { s with slot := { s.slot with
    held := s.slot.waitFrom.isSome, notBefore := s.now + 1, stallFrom := none, waitFrom := some s.waitStart } }

/-! ### Traps (spec/03 R53, spec/05 R90, spec/18 R298) -/

/-- The trap causes of spec/18 R298. -/
inductive Cause where
  | illegal | emptyRead | misaligned | foreignWindow | windowRange | pageFault | protection | staleHandle | leesFull
  | loopSuspend | loopDepth | caskWrite | ecc | breakpoint | trap | engineFault | coreLost | plumbMargin | privilege
  deriving DecidableEq, Repr

/-- Cause codes. -/
def Cause.code : Cause → Nat
  | .illegal => 1 | .emptyRead => 2 | .misaligned => 3 | .foreignWindow => 4 | .windowRange => 5 | .pageFault => 6
  | .protection => 7 | .staleHandle => 8 | .leesFull => 9 | .loopSuspend => 10 | .loopDepth => 11 | .caskWrite => 12
  | .ecc => 13 | .breakpoint => 14 | .trap => 15 | .engineFault => 16 | .coreLost => 17 | .plumbMargin => 18
  | .privilege => 19

/-- The eight words of a trap record (spec/05 R90). -/
def trapWords (cause stage : Nat) (ctxid slot pc recp value : Word) (insn : Insn) (time : Nat) : Vector Word 8 :=
  #v[BitVec.ofNat 64 (cause * 2 ^ 56 + stage % 256 * 2 ^ 48), ctxid, slot, BitVec.ofNat 64 (bits pc 56 2 * 4), recp,
     value, BitVec.ofNat 64 insn.toNat, BitVec.ofNat 64 time]

/-- A trap record enters its ring, or its source holds it (spec/18 R299). -/
def State.sendTrapRecord (s : State) (p : Plot) (src : TrapSrc) (r : Vector Word 8) : State :=
  let q := ringOf p.asid
  s.onDie p.die fun d =>
    if (vget d.trap q []).length < Config.trapRingSize ∧ ¬ (d.heldTrap.any fun h => h.1 == q)
    then { d with trap := vset d.trap q (vget d.trap q [] ++ [r]) }
    else { d with heldTrap := d.heldTrap ++ [(q, src, r)] }

/-- The trap record of the slot at hand, to the cellar that polices its plot. -/
def State.trapRecord (s : State) (cause : Nat) (value : Word) (insn : Insn) : State :=
  match s.own with
  | none => s
  | some p =>
    s.sendTrapRecord p (.slot s.cur)
      (trapWords cause (s.stageOf s.cur.tile s.slot.run.queue) p.ctxid (s.slotReg s.cur) s.slot.pc
        (ptr9 s.tile.ctx.n s.slot.run.off) value insn s.wafer.time)

/-- The record of the slot at hand goes to a state (spec/02 R20). -/
def State.setRecState (s : State) (st : Nat) : State :=
  { s with tile := { s.tile with ctx := s.tile.ctx.setState s.slot.run.off st } }

/-- A step report: the PC at which the slot stands, the record's state and the cause (spec/17 R287). -/
def stepWords (pc : Word) (st cause : Nat) : Report :=
  .step (BitVec.ofNat 64 (bits pc 56 2 * 4)) (BitVec.ofNat 64 (st % 16 * 2 ^ 60 + cause % 256))

/-- The slot at hand sends its step report. -/
def State.stepReport (s : State) (st cause : Nat) : State := s.report (stepWords s.slot.pc st cause)

/-- TAKING A TRAP in the slot at hand: the slot halts with its PC at the instruction, TRAPC and TRAPV are written, the
record goes to state 4 and the trap record is sent (spec/03 R53, R59; spec/05 R90; spec/02 R20). `bp` says that an
address breakpoint or a watchpoint raised it (spec/18 R303). A halt that finds the slot in the drain of a suspension, a yield
or a retirement drops the decision, and the instruction issues afresh (DEDUCED: log 72). -/
def State.takeTrapWith (s : State) (c : Cause) (value : Word) (insn : Insn) (bp : Bool) : State :=
  let stepping := s.slot.stepping
  let s := s.trapRecord c.code value insn
  let s := { s with slot := { s.slot with
    mode := .halted, trapc := BitVec.ofNat 64 (2 ^ 16 + c.code), trapv := value, stallFrom := none, skipBp := bp,
    haltReq := none, stepping := false, bwait := none, mwait := none, idleTo := none, leaving := none, waitFrom := none,
    xl := [] } }
  let s := s.setRecState 4
  if stepping then s.stepReport 4 c.code else s

/-- A trap of the instruction at the PC. -/
def State.takeTrap (s : State) (c : Cause) (value : Word) : State := s.takeTrapWith c value s.slot.ir false

/-- The outcome of a trap. -/
def trap (c : Cause) (value : Word) (s : State) : Out := .next (s.takeTrap c value)

/-- A slot waits for no translation any more: what it asked for before is dropped. -/
def State.forgetMiss (s : State) (l : SlotLoc) : State :=
  { s with wafer := { s.wafer with xlates := s.wafer.xlates.filter fun x =>
      !(x.tile == l.tile && x.who == .slot l.core l.slot) } }

/-- A PAGE_FAULT trap at the instruction of the slot at hand: one whose fetch faulted reports no word (spec/05 R90,
spec/06 R115). -/
def State.pageFault (s : State) (va : Word) (fetch : Bool) : State :=
  s.takeTrapWith .pageFault va (if fetch then 0 else s.slot.ir) false

/-- RETURNING FROM A TRAP: the record goes from state 4 to 2 and the slot issues the instruction at its PC afresh; the
resumption is a refresh point (spec/05 R91, spec/08 R155). A page-fault wait that the halt found goes on, or meets its
answer (spec/18 R300). -/
def State.resume (s : State) : State :=
  let w := s.slot.fwait
  let s := (s.setRecState 2).forgetMiss s.cur
  let s := { s with slot := { s.slot with
    mode := .running, byFreeze := none, snap := [], stallFrom := none, fwait := none, leaving := none } }
  match w with
  | none | some (_, _, _, some true) => s
  | some (b, va, fetch, none) => { s with slot := { s.slot with mode := .faultWait b va fetch } }
  | some (_, va, fetch, some false) => s.pageFault va fetch

/-- A trap record of an engine or a router for a record of a plot on a tile, which halts no slot; the plot's context
stands on the tile or waits for it (spec/07 R150, R341; spec/18 R296, R297). -/
def State.plotTrap (s : State) (p : Plot) (t core slot owner : Nat) (src : TrapSrc) (c : Cause) (value : Word) : State :=
  let x := (s.ctxOf t p.num).getD (s.getTile t).ctx
  let q := (x.recordAt owner).getD (0, 0)
  s.sendTrapRecord p src
    (trapWords c.code (vget x.stages q.1 0).toNat p.ctxid (slotWord x.n q.1 core slot) 0 (ptr9 x.n owner) value 0 s.wafer.time)

/-- A trap record of a unit of a tile for the plot that the tile holds. -/
def State.unitTrap (s : State) (t core slot owner : Nat) (src : TrapSrc) (c : Cause) (value : Word) : State :=
  match s.plotOf t with
  | none => s
  | some p => s.plotTrap p t core slot owner src c value

/-! ### The end of an instruction (spec/04 R78, R79; spec/17 R287) -/

/-- The steps at the end of a pass: every level whose body ends at the instruction, innermost first (spec/04 R78). -/
def passEnd (pc : Word) : List Loop → Vector Word 3 → Word × List Loop × Vector Word 3
  | [], lc => (pc + 4, [], lc)
  | l :: r, lc =>
    if l.last = pc then
      let c := vget lc l.ctr 0 - 1
      let lc := vset lc l.ctr c
      if c ≠ 0 then (l.first, l :: r, lc) else passEnd pc r lc
    else (pc + 4, l :: r, lc)

/-- After an instruction has completed: a stepped slot halts again with its report (spec/17 R287). -/
def State.ended (s : State) : State :=
  if s.slot.stepping then
    let s := { s with slot := { s.slot with mode := .halted, stepping := false } }
    (s.setRecState 4).stepReport 4 0
  else s

/-- A body holds an address. -/
def Loop.has (l : Loop) (a : Word) : Bool := decide (l.first.toNat ≤ a.toNat ∧ a.toNat ≤ l.last.toNat)

/-- The loop buffer while some levels are active: the words of their bodies (spec/03 R50, spec/04 R78). -/
def bufOf (loops : List Loop) (buf : List (Word × Insn)) : List (Word × Insn) :=
  buf.filter fun b => loops.any fun l => l.has b.1

/-- The slot goes on at an address. -/
def State.goTo (s : State) (pc : Word) (loops : List Loop) (lc : Vector Word 3) : State :=
  ({ s with slot := { s.slot with pc := pc, loops := loops, lc := lc, stallFrom := none, skipBp := false, bwait := none
                                  mwait := none, idleTo := none, leaving := none, waitFrom := none, xl := []
                                  buf := bufOf loops s.slot.buf } }).ended

/-- The instruction completes without transferring control. -/
def State.advance (s : State) : State :=
  let (pc, loops, lc) := passEnd s.slot.pc s.slot.loops s.slot.lc
  s.goTo pc loops lc

/-- The outcome of an instruction that completes. -/
def done (s : State) : Out := .next s.advance

/-- write(d, x), and the instruction completes. -/
def writeDone (d : Reg) (x : Word) (s : State) : Out := done (s.write d x)

/-- write(d, x) with a result latency of more than one cycle, and the instruction completes (spec/04 R86). -/
def writeAfter (lat : Nat) (d : Reg) (x : Word) (s : State) : Out :=
  done { s with slot := s.slot.writeFrom d x (s.now + lat) }

/-- A taken transfer: the slot's next issue is no earlier than 3 cycles after it (spec/04 R86). -/
def State.taken (s : State) : State := { s with slot := { s.slot with notBefore := s.now + 3 } }

end Sys2Proof.Machine
end

