-- ==== Sys2Proof/Machine/Bank.lean ====
section
/-!
DEFINITION. Sys2Proof/Machine/Bank.lean: what a bank, a home slice or a plot unit does with an access that reaches it:
folds, full/empty words, parked requests and their scan, leases, and the events that make waiting records ready
(spec/06 R96, R97, R102, R103; spec/07 R119 to R125, R129 to R133).
-/
namespace Sys2Proof.Machine

/-! ### Raw reads and writes by place -/

/-- The bytes from a place upward. -/
def State.readPlace (s : State) (p : Place) (n : Nat) : List Byte :=
  match p.sp with
  | .edge => Memory.readN s.wafer.edge p.off n
  | .host => Memory.readN s.wafer.host p.off n
  | .spad t => Memory.readN (s.getTile t).ctx.spad p.off n
  | .cask t =>
    if p.off < 2 ^ 21 then Memory.readN (s.getTile t).caskA p.off n
    else Memory.readN (s.getTile t).caskB (p.off - 2 ^ 21) n

/-- One byte at a place: the read of memory that statements use. -/
def State.byteAt (s : State) (p : Place) : Byte :=
  match p.sp with
  | .edge => Memory.read s.wafer.edge p.off
  | .host => Memory.read s.wafer.host p.off
  | .spad t => Memory.read (s.getTile t).ctx.spad p.off
  | .cask t =>
    if p.off < 2 ^ 21 then Memory.read (s.getTile t).caskA p.off else Memory.read (s.getTile t).caskB (p.off - 2 ^ 21)

/-- The reserved bytes of a live ring's header, 32 to 63 (spec/19 R326). -/
def Ring.reserves (r : Ring) (t off : Nat) : Bool := r.tile == t && decide (r.off + 32 ≤ off ∧ off < r.off + 64)

/-- A byte of a place is reserved by a ring of the plot that the tile holds. -/
def State.reservedAt (s : State) (p : Place) : Bool :=
  match p.sp with
  | .spad t => s.wafer.rings.any fun r => r.reserves t p.off && (s.getTile t).ctx.ofPlot r.plot
  | _ => false

/-- What a write leaves of its bytes: a reserved byte of a ring's header stays zero (spec/00 R4; spec/19 R326). -/
def State.kept (s : State) (p : Place) (bs : List Byte) : List Byte :=
  if s.wafer.rings.isEmpty then bs
  else bs.zipIdx.map fun b => if s.reservedAt ⟨p.sp, p.off + b.2⟩ then 0 else b.1

/-- Bytes stored from a place upward, with no other effect. -/
def State.storePlace (s : State) (p : Place) (bs : List Byte) : State :=
  let bs := s.kept p bs
  match p.sp with
  | .edge => { s with wafer := { s.wafer with edge := Memory.writeN s.wafer.edge p.off bs } }
  | .host => { s with wafer := { s.wafer with host := Memory.writeN s.wafer.host p.off bs } }
  | .spad t => s.onCtx t fun c => { c with spad := Memory.writeN c.spad p.off bs }
  | .cask t =>
    s.onTile t fun x =>
      if p.off < 2 ^ 21 then { x with caskA := Memory.writeN x.caskA p.off bs }
      else { x with caskB := Memory.writeN x.caskB (p.off - 2 ^ 21) bs }

/-- The aligned 8-byte words that n bytes from an offset touch. -/
def wordsOf (off n : Nat) : List Nat :=
  if n = 0 then [] else (List.range ((off + n - 1) / 8 - off / 8 + 1)).map fun i => (off / 8 + i) * 8

/-- The 64-byte lines that n bytes from an offset touch. -/
def linesOf (off n : Nat) : List Nat :=
  if n = 0 then [] else (List.range ((off + n - 1) / 64 - off / 64 + 1)).map fun i => (off / 64 + i) * 64

/-- The bank of an offset (spec/06 R96). -/
def bankOf (off : Nat) : Nat := off / 64 % 32

/-! ### Banks, one access at a time (spec/06 R96, R102; spec/07 R122) -/

/-- The lines of ranges, each once, with the space they lie in. -/
def linesIn (ps : List (Place × Nat)) : List Place :=
  (ps.flatMap fun a => (linesOf a.1.off a.2).map fun l => (⟨a.1.sp, l⟩ : Place)).eraseDups

/-- The bank of a line makes its next access in this cycle or later: edge and host memory have none. -/
def State.bankFree (s : State) (l : Place) : Bool :=
  match l.sp with
  | .spad t => decide (vget (s.getTile t).bankAt (bankOf l.off) 0 ≤ s.clk t)
  | .cask t => decide (vget (s.getTile t).caskAt (l.off / 64 % 8) 0 ≤ s.clk t)
  | _ => true

/-- Every bank that ranges need is free: the accesses that came before, one in each cycle, are over. -/
def State.banksFree (s : State) (ps : List (Place × Nat)) : Bool := (linesIn ps).all s.bankFree

/-- A line takes its bank for a cycle. -/
def State.takeBank (s : State) (l : Place) : State :=
  match l.sp with
  | .spad t => s.onTile t fun x =>
      { x with bankAt := vset x.bankAt (bankOf l.off) (max (vget x.bankAt (bankOf l.off) 0) x.clk + 1) }
  | .cask t => s.onTile t fun x =>
      { x with caskAt := vset x.caskAt (l.off / 64 % 8) (max (vget x.caskAt (l.off / 64 % 8) 0) x.clk + 1) }
  | _ => s

/-- The lines of ranges take their banks, a cycle for each. -/
def State.takeBanks (s : State) (ps : List (Place × Nat)) : State := (linesIn ps).foldl State.takeBank s

/-- A line can be reached in this cycle: its bank is free, and no refresh window makes a cask's bank unavailable
(spec/06 R96, R102, R103). -/
def State.lineFree (s : State) (l : Place) : Bool :=
  s.bankFree l && match l.sp with
    | .cask _ => !s.wafer.refresh.getLsbD (l.off / 64 % 8)
    | _ => true

/-- The lines of a list that get their turn in this cycle, one at each bank, and the machine with those banks taken. -/
def State.serveLines (s : State) : List Place → List Place × State
  | [] => ([], s)
  | l :: ls =>
    if s.lineFree l then
      let (r, s) := State.serveLines (s.takeBank l) ls
      (l :: r, s)
    else State.serveLines s ls

/-- The part of a range that lies in a line. -/
def inLine (l : Place) (a : Place × Nat) : Option (Place × Nat) :=
  let lo := max a.1.off l.off
  let hi := min (a.1.off + a.2) (l.off + 64)
  if a.1.sp = l.sp ∧ lo < hi then some (⟨l.sp, lo⟩, hi - lo) else none

/-- The bytes of a write that lie in a line. -/
def bytesInLine (l : Place) (x : Place × List Byte) : Option (Place × List Byte) :=
  (inLine l (x.1, x.2.length)).map fun a => (a.1, (x.2.drop (a.1.off - x.1.off)).take a.2)

/-! ### Stored bytes that cannot be read (spec/18 R305) -/

/-- A byte lies in some ranges. -/
def Place.inside (b : Place) (ps : List (Place × Nat)) : Bool :=
  ps.any fun a => a.1.sp == b.sp && decide (a.1.off ≤ b.off ∧ b.off < a.1.off + a.2)

/-- Some stored byte of ranges is bad. -/
def State.unreadable (s : State) (ps : List (Place × Nat)) : Bool := s.wafer.bad.any fun b => b.inside ps

/-- The stored bytes of ranges go bad. -/
def State.markBad (s : State) (ps : List (Place × Nat)) : State :=
  { s with wafer := { s.wafer with
    bad := (ps.flatMap fun a => (List.range a.2).map fun i => (⟨a.1.sp, a.1.off + i⟩ : Place)) ++ s.wafer.bad } }

/-- Bytes that are rewritten are sound again. -/
def State.rewritten (s : State) (p : Place) (n : Nat) : State :=
  if s.wafer.bad.isEmpty then s
  else { s with wafer := { s.wafer with bad := s.wafer.bad.filter fun b => !b.inside [(p, n)] } }

/-! ### Snapshots (spec/08 R155) -/

/-- A byte that a plain load of this phase has fixed. -/
def Slot.fixed (x : Slot) (p : Place) : Option Byte := (x.snap.find? fun e => e.1 == p).map Prod.snd

/-- The bytes of a plain load: those fixed in this phase, else those at the word now. The slot's own writes are fixed too,
but not its contributions to reductions (DESIGN CHOICE: log 61). -/
def Slot.phaseRead (x : Slot) (p : Place) : List Byte → List Byte
  | [] => []
  | b :: bs => (x.fixed p).getD b :: Slot.phaseRead x ⟨p.sp, p.off + 1⟩ bs

/-- A plain load fixes its bytes for the phase. -/
def Slot.fix (x : Slot) (p : Place) : List Byte → Slot
  | [] => x
  | b :: bs =>
    Slot.fix (if (x.fixed p).isSome then x else { x with snap := (p, b) :: x.snap }) ⟨p.sp, p.off + 1⟩ bs

/-- The slot's own write replaces what it had fixed. -/
def Slot.ownWrite (x : Slot) (p : Place) : List Byte → Slot
  | [] => x
  | b :: bs =>
    Slot.ownWrite (if (x.fixed p).isSome then { x with snap := (p, b) :: x.snap } else x) ⟨p.sp, p.off + 1⟩ bs

/-- The slot that still runs the record an access belongs to. -/
def State.runner (s : State) (f : Flight) : Option SlotLoc :=
  let l : SlotLoc := ⟨f.tile, f.core, f.slot⟩
  let x := s.getSlot l
  if f.pkt.unit ≠ 0 then none
  else if x.mode ≠ .free ∧ x.run.off = f.owner ∧ (s.getTile f.tile).ctx.plot = some f.plot then some l
  else (slotLocs f.tile).find? fun l =>
    (s.getSlot l).mode != .free && (s.getSlot l).run.off == f.owner && (s.getTile f.tile).ctx.plot == some f.plot

/-! ### Full/empty words and what waits for them -/

/-- Waits of kind 2 and 3 on a word that a write met (spec/02 R22). -/
def Ctx.meet (c : Ctx) (w : Nat) : Ctx :=
  { c with waits := c.waits.map fun x =>
      let h := Memory.word c.spad (x.off + 8)
      let kind := h / 2 ^ 60
      if h % 2 ^ 60 = w ∧ (kind = 3 ∨ (kind = 2 ∧ c.full w)) then { x with met := true } else x }

/-- The word of a full/empty request on a tile. -/
def Flight.feWord (f : Flight) (t : Nat) : Option Nat :=
  match f.req with
  | .fe _ p _ => if p.sp = .spad t then some p.off else none
  | _ => none

/-- An access applied now: what it had to wait is added to its latency (spec/03 R340; spec/07 R122). -/
def Flight.met (f : Flight) (now : Nat) : Flight := { f with land := max f.land now, due := f.due + (now - f.land) }

/-- The unit that answers an access: 4 plot unit, 5 bank, 6 message unit (spec/18 R293; spawns and wakes at the bank that
holds the record: log 38). -/
def Req.server : Req → Nat
  | .msg .. | .deposit .. => 6
  | .arrive .. | .bini .. | .btst .. | .rack .. | .vbind => 4
  | .amo _ _ .plot _ _ _ => 4
  | .reply => 0
  | _ => 5

/-- The bytes of ranges. -/
def extent (ps : List (Place × Nat)) : Nat := (ps.map Prod.snd).sum

/-- The flits of a packet that carries n bytes (spec/18 R293). -/
def flitsOf (n : Nat) : Nat := (n + 15) / 128 + 1

/-- The flits of the answer to an access: those of the bytes that an engine reads or of a vector register, else one (spec/18
R293). -/
def Req.answerFlits : Req → Nat
  | .read _ .vec => 5
  | .fetch src _ => flitsOf (extent src.ps)
  | _ => 1

/-- The answer to an access that has been applied, on its way back to its issuer: the packet that the unit which served it
injects, with its time and the plot of its tile. The reply to a call crosses the control plane (spec/18 R289 to R291,
R293). -/
def State.serve (s : State) (f : Flight) (val flags : Nat) : Flight :=
  let home := match f.req with
    | .call .. => f.tile
    | _ => f.pkt.to_
  { f with
    st := .served val flags
    pkt := { s.packet home f.tile 4 f.req.answerFlits f.req.server with unit := f.pkt.unit } }

/-- The answer that an access gets whose home could not read its data (spec/18 R305). -/
def State.serveBad (s : State) (f : Flight) : Flight := { s.serve f 0 0 with st := .bad }

/-- An access answered RETRY, by a packet of the unit that it reached (spec/18 R291). -/
def State.refuseFor (s : State) (f : Flight) : Flight :=
  { f with st := .retry, pkt := { s.packet f.pkt.to_ f.tile 4 1 f.req.server with unit := f.pkt.unit } }

/-- An access is answered RETRY. -/
def State.retry (s : State) (n : Nat) (f : Flight) : State := s.setFlight n (s.refuseFor f)

/-- Parked `waita` requests on a word take its value after a write (spec/07 R123); one that cannot be read tells them so
(spec/18 R305). -/
def State.serveWaita (s : State) (t w : Nat) : State :=
  let v := s.spadWord t w
  let bad := s.unreadable [(⟨.spad t, w⟩, 8)]
  let plot := (s.getTile t).ctx.plot
  { s with flights := s.flights.map fun f =>
      match f.st, f.req with
      | .parked _, .fe .waita p _ =>
        if p.sp = .spad t ∧ p.off = w ∧ plot = some f.plot then (if bad then s.serveBad f else s.serve f v 0) else f
      | _, _ => f }

/-- A slot that leaves with a wait of kind 3 on a word has its wait met by a write (spec/02 R22). -/
def Slot.meet (x : Slot) (w : Nat) : Slot :=
  { x with leaving := x.leaving.map fun v => if v.kind = 3 ∧ v.param = w then { v with met := true } else v }

/-- The slots of a tile that leave with a wait on a word. -/
def State.meetLeaving (s : State) (t w : Nat) : State :=
  if (s.getTile t).ctx.slots.toList.any (fun x => x.leaving.isSome) || (s.slot.leaving.isSome && t == s.cur.tile) then
    s.onSlots t fun x => x.meet w
  else s

/-- A write completed at a word: the records and requests that wait for one are met. -/
def State.wrote (s : State) (t w : Nat) : State := ((s.onCtx t fun c => c.meet w).meetLeaving t w).serveWaita t w

/-- The condition of a full/empty operation (spec/07 R123); `waita` waits for a write after it is parked. -/
def FeOp.ok (op : FeOp) (full : Bool) : Bool :=
  match op with
  | .ldf | .ldfe => full
  | .ste => !full
  | .stf | .clr | .tst => true
  | .waita => false

/-- A full/empty operation at its word, as one step (spec/07 R123): its result and the machine. -/
def State.applyFe (s : State) (t w : Nat) (op : FeOp) (x : Word) : Nat × State :=
  let v := s.spadWord t w
  let full := (s.getTile t).ctx.full w
  match op with
  | .ldf => (v, s)
  | .ldfe => (v, (s.onCtx t fun c => c.setFull w false).wrote t w)
  | .ste | .stf =>
    let s := s.storePlace ⟨.spad t, w⟩ (leBytes 8 x.toNat)
    (0, ((s.onCtx t fun c => c.setFull w true).rewritten ⟨.spad t, w⟩ 8).wrote t w)
  | .clr => (full.toNat, (s.onCtx t fun c => c.setFull w false).wrote t w)
  | .tst => (full.toNat, s)
  | .waita => (v, s)

/-- An access is parked at a word with its condition met, and by when it was parked. -/
def Flight.unparks (f : Flight) (t w : Nat) (full : Bool) : Option Nat :=
  match f.st, f.req with
  | .parked st, .fe op p _ => if p.sp = .spad t ∧ p.off = w ∧ op.ok full then some st else none
  | _, _ => none

/-- The place of the entry with the least stamp. -/
def oldest : List (Nat × Nat) → Option (Nat × Nat)
  | [] => none
  | x :: xs =>
    match oldest xs with
    | some y => if y.2 < x.2 then some y else some x
    | none => some x

/-- The oldest parked request of a word whose condition holds. -/
def State.nextParked (s : State) (t w : Nat) : Option Nat :=
  let full := (s.getTile t).ctx.full w
  let plot := (s.getTile t).ctx.plot
  (oldest (s.flights.zipIdx.filterMap fun (f, i) =>
    if plot = some f.plot then (f.unparks t w full).map fun st => (i, st) else none)).map Prod.fst

/-- The operation reads the word's value. -/
def FeOp.reads : FeOp → Bool
  | .ldf | .ldfe | .waita => true
  | .ste | .stf | .clr | .tst => false

/-- A full/empty access at its word whose condition holds: applied and answered; one that reads a value that cannot be
read is answered so and does nothing (spec/18 R305). -/
def State.serveFe (s : State) (n : Nat) (f : Flight) (t w : Nat) (op : FeOp) (x : Word) : State :=
  if op.reads && s.unreadable [(⟨.spad t, w⟩, 8)] then s.setFlight n (s.serveBad f)
  else
    let (v, s) := s.applyFe t w op x
    let s := match s.runner f, op with
      | some l, .ste | some l, .stf => s.onSlot l fun y => y.ownWrite ⟨.spad t, w⟩ (s.kept ⟨.spad t, w⟩ (leBytes 8 x.toNat))
      | _, _ => s
    s.setFlight n (s.serve f v 0)

/-- The scan of a word's parked requests, oldest first, from the start again after each (spec/07 R124). The fuel is
the number of accesses in flight: each pass serves one. -/
def State.scan (t w : Nat) : Nat → State → State
  | 0, s => s
  | k + 1, s =>
    match s.nextParked t w with
    | none => s
    | some i =>
      match s.flights[i]? with
      | none => s
      | some f =>
        match f.req with
        | .fe op _ x => State.scan t w k (s.serveFe i f t w op x)
        | _ => s

/-- A write at a word, and then the scan. -/
def State.wroteScan (s : State) (t w : Nat) : State := State.scan t w s.flights.length (s.wrote t w)

/-! ### Reductions (spec/07 R133) -/

/-- The folded value of an entry: m op acc[0], then op acc[1], up to acc[7]. -/
def RedEntry.fold (e : RedEntry) (m : Nat) : Nat :=
  e.acc.toList.foldl (fun m a => redStep e.op e.ty m a.toNat) m

/-- An entry folded into its word and freed; the word becomes full (spec/06 R97). A word that cannot be read stays as it is
and stays bad, so that whoever reads it is told (spec/18 R305; log 55). -/
def State.foldEntry (s : State) (t : Nat) (e : RedEntry) : State :=
  let n := e.ty.size
  let p : Place := ⟨.spad t, e.off⟩
  let m := leNat (s.readPlace p n)
  let s := s.onCtx t fun c => { c with red := c.red.filter fun x => x != e }
  if s.unreadable [(p, n)] then s
  else
    let s := s.storePlace p (leBytes n (e.fold m))
    (s.onCtx t fun c => c.setFull (e.off / 8 * 8) true).wroteScan t (e.off / 8 * 8)

/-- Entries of a list folded, oldest first. -/
def State.foldAll (s : State) (t : Nat) (es : List RedEntry) : State := es.foldl (fun s e => s.foldEntry t e) s

/-- Every entry of the words that an access touches is folded first. -/
def State.foldTouched (s : State) (t off n : Nat) : State :=
  s.foldAll t ((s.getTile t).ctx.red.filter fun e => decide (off / 8 ≤ e.off / 8 ∧ e.off / 8 * 8 < off + n))

/-- A contribution from a logical core (spec/07 R133). Two reductions of 2 or 4 bytes to parts of one aligned 8-byte word
have an entry each, and another access to the word folds both; the rule says only that a reduction word has an entry (DESIGN
CHOICE: log 65). -/
def State.contribute (s : State) (t core : Nat) (op : RedOp) (ty : AmoTy) (off : Nat) (x : Nat) : State :=
  let s := s.foldAll t ((s.getTile t).ctx.red.filter fun e =>
    e.off / 8 == off / 8 && (e.op != op || e.ty != ty))
  match (s.getTile t).ctx.red.find? fun e => e.off == off with
  | some e =>
    let e' := { e with acc := vset e.acc core (BitVec.ofNat 64 (redStep op ty (vget e.acc core 0).toNat x)) }
    s.onCtx t fun c => { c with red := c.red.map fun y => if y == e then e' else y }
  | none =>
    let bank := (s.getTile t).ctx.red.filter fun e => bankOf e.off == bankOf off
    let s := if 16 ≤ bank.length then s.foldAll t (bank.take 1) else s
    let acc : Vector Word 8 := Vector.replicate 8 (BitVec.ofNat 64 (op.identity ty))
    let acc := vset acc core (BitVec.ofNat 64 (redStep op ty (op.identity ty) x))
    s.onCtx t fun c => { c with red := c.red ++ [⟨off, op, ty, acc⟩] }

/-! ### Reads and writes as the agents of the part make them -/

/-- A read at a place: a scratchpad word with a hidden entry is folded first. -/
def State.readAt (s : State) (p : Place) (n : Nat) : List Byte × State :=
  match p.sp with
  | .spad t =>
    let s := s.foldTouched t p.off n
    (s.readPlace p n, s)
  | _ => (s.readPlace p n, s)

/-- A write at a place: folds, bytes, every scratchpad word written full, and what waits for it (spec/06 R97). -/
def State.writeAt (s : State) (p : Place) (bs : List Byte) : State :=
  match p.sp with
  | .spad t =>
    let s := ((s.foldTouched t p.off bs.length).storePlace p bs).rewritten p bs.length
    (wordsOf p.off bs.length).foldl (fun s w => (s.onCtx t fun c => c.setFull w true).wroteScan t w) s
  | _ => (s.storePlace p bs).rewritten p bs.length

/-- A lease on some line of a range (spec/07 R120). -/
def Ctx.leased (c : Ctx) (off n : Nat) : Bool :=
  c.leases.any fun l => decide (off < l.line + 64 ∧ l.line < off + n)

/-- A lease of a core's own command on some line of a range. -/
def Ctx.leasedBy (c : Ctx) (t core off n : Nat) : Bool :=
  c.leases.any fun l => l.tile == t && l.core == core && decide (off < l.line + 64 ∧ l.line < off + n)

/-- A place is under a lease. -/
def State.leased (s : State) (p : Place) (n : Nat) : Bool :=
  match p.sp with
  | .spad t => (s.getTile t).ctx.leased p.off n
  | _ => false

/-- A lease was placed by a command that the issuer of an access forked after it: the command reads the access's write
(spec/08 R169), so the lease does not hold it off. A drain's write comes before the commands behind it in its queue
(spec/12 R227), so their leases do not hold it off either (log 52). -/
def State.forkedAfter (s : State) (f : Flight) (l : Lease) : Bool :=
  f.tile == l.tile && (((s.ctxOf l.tile f.plot).map fun c => vget c.mq l.core []).getD []).any fun m =>
    m.id == l.cmd && decide (f.seq < m.seq) && (if f.pkt.unit = 2 then m.core == f.core else f.pkt.unit == 0 && m.owner == f.owner)

/-- A lease holds an access off (spec/07 R120). -/
def State.heldOff (s : State) (f : Flight) (p : Place) (n : Nat) : Bool :=
  match p.sp with
  | .spad t =>
    (s.getTile t).ctx.leases.any fun l => decide (p.off < l.line + 64 ∧ l.line < p.off + n) && !s.forkedAfter f l
  | _ => false

/-- A cask bank that holds a byte of a range is in its refresh window (spec/06 R102, R103). -/
def State.refreshing (s : State) (p : Place) (n : Nat) : Bool :=
  match p.sp with
  | .cask _ => (linesOf p.off n).any fun a => s.wafer.refresh.getLsbD (a / 64 % 8)
  | _ => false

/-! ### Which access may be applied now -/

/-- The ranges that an access touches. -/
def Req.ranges : Req → List (Place × Nat)
  | .read ps _ => ps
  | .write ps => ps.map fun x => (x.1, x.2.length)
  | .fe _ p _ => [(p, 8)]
  | .amo _ ty _ p _ _ => [(p, ty.size)]
  | .red _ ty p _ => [(p, ty.size)]
  | .member p _ _ => [(p, 8)]
  | .chunk _ _ ps => ps.map fun x => (x.1, x.2.length)
  | .fetch src _ => src.ps
  | .deposit p data _ => [(p, data.length)]
  | _ => []

/-- The lines of an access that have not had their turn. -/
def Flight.linesLeft (f : Flight) : List Place := (linesIn f.req.ranges).filter fun l => !f.lines.contains l

/-- Two ranges share an aligned word. -/
def sameWord (a b : Place × Nat) : Bool :=
  a.1.sp == b.1.sp && decide (a.1.off / 8 * 8 < b.1.off + b.2 ∧ b.1.off / 8 * 8 < a.1.off + a.2)

/-- An access has not been applied yet. -/
def Flight.waiting (f : Flight) : Bool :=
  match f.st with
  | .going | .parked _ | .retry => true
  | _ => false

/-- A packet waits in the port of its tile, whose injection guard a freeze has stopped: nothing of it has been injected. A
message that has been issued goes on, since its slot halts only when the answer has come (spec/18 R290, R300, R301; log
38). -/
def State.pent (s : State) (tile : Nat) (p : Packet) (msg : Bool) : Bool :=
  p.lane.isNone && p.at_ == tile && p.at_ != p.to_ && !(4 ≤ p.src % 8 && p.src % 8 ≤ 6) && !msg && (s.getTile tile).quiet

/-- An access has reached the place it is for. -/
def Flight.arrived (f : Flight) : Bool := f.pkt.at_ == f.pkt.to_ && !f.pkt.nowhere

/-- A write that a record of a plot made before it forked an engine operation is not yet applied to a range (spec/08
R169). -/
def State.forkWaits (s : State) (t plot owner seq : Nat) (ps : List (Place × Nat)) : Bool :=
  s.flights.any fun f =>
    f.of t plot owner && decide (f.seq < seq) && f.waiting && f.isWrite && f.req.ranges.any fun a => ps.any fun b => sameWord a b

/-- Some release of a list in order of issue stands behind a write that is not yet acknowledged: what the release
publishes is not all visible yet (spec/08 R159, R160, R165). -/
def unpublished : List Flight → Bool
  | [] => false
  | g :: gs => (g.isWrite && gs.any Flight.rel) || unpublished gs

/-- A chunk that an engine writes. -/
def Req.isChunk : Req → Bool
  | .chunk .. => true
  | _ => false

/-- The same engine's command makes two accesses. -/
def Flight.sameCommand (f g : Flight) : Bool :=
  f.tile == g.tile && f.plot == g.plot && f.pkt.unit == g.pkt.unit && f.core == g.core && f.seq == g.seq

/-- A read of an engine. -/
def Req.isFetch : Req → Bool
  | .fetch .. => true
  | _ => false

/-- A write to a member of a replica set. -/
def Req.toMember : Req → Bool
  | .member .. | .away .. => true
  | _ => false

/-- The order of one agent's accesses: to one word in program order, a release after every earlier write is acknowledged,
and a write after all that an earlier release or fence publishes; a member's write after every earlier release has been
applied; a chunk of an engine after the writes that its command's fork publishes to it, and after the chunks that the command
has written before it (spec/07 R119; spec/08 R153, R157, R159, R160, R165, R168 to R170). The deposit of the record's `lees.pop`
is the message unit's, which the order of its word alone holds (DESIGN CHOICE: log 80). -/
def State.inOrder (s : State) (n : Nat) (f : Flight) : Bool :=
  if f.pkt.unit ≠ 0 then
    !s.forkWaits f.tile f.plot f.owner f.seq f.req.ranges
      && !(f.req.isChunk && (s.flights.take n).any fun g => g.sameCommand f && g.req.isChunk && g.waiting)
  else
    let own := (s.flights.take n).filter fun g => g.of f.tile f.plot f.owner
    (own.all fun g =>
      !(g.waiting && f.req.ranges.any fun a => g.req.ranges.any fun b => sameWord a b) && !(f.rel && g.isWrite)
        && !(f.req.toMember && g.rel && g.waiting))
      && !(f.isWrite && (unpublished own || own.any fun g => g.pub))

/-- A tile holds a plot, and is not being reset (spec/06 R94, spec/18 R306, R308). -/
def State.holds (s : State) (t plot : Nat) : Bool :=
  let x := s.getTile t
  x.ctx.plot == some plot && !x.inReset && !x.lost

/-- The plot whose tile an access lands on: its own, or the owner of a granted window (spec/18 R296). -/
def Flight.hostPlot (f : Flight) : Option Nat :=
  match f.req with
  | .member _ _ (some (_, owner)) => some owner
  | .chunk host _ _ => some host
  | .fetch src _ => some src.plot
  | _ => some f.plot

/-- Where an access lands: one that has been answered RETRY, where its tile's router sends it again. -/
def Flight.goal (f : Flight) : Nat := if f.st = .retry then f.sent.to_ else f.pkt.to_

/-- The tile that an access lands on still holds its plot. -/
def State.present (s : State) (f : Flight) : Bool := f.hostPlot.any fun p => s.holds f.goal p

/-- The address space in which an access was translated. -/
def State.asidOf (s : State) (f : Flight) : Nat := ((s.plot f.plot).map Plot.asid).getD 0

/-- The bytes of a load (spec/03 R42). -/
def ldBytes : LdSize → Nat
  | .b | .bz => 1
  | .h | .hz => 2
  | .w | .wz => 4
  | .d => 8

/-- The 64-bit value of loaded bytes. -/
def extend (z : LdSize) (x : Nat) : Nat :=
  match z with
  | .b => if x < 2 ^ 7 then x else 2 ^ 64 - 2 ^ 8 + x
  | .h => if x < 2 ^ 15 then x else 2 ^ 64 - 2 ^ 16 + x
  | .w => if x < 2 ^ 31 then x else 2 ^ 64 - 2 ^ 32 + x
  | .bz | .hz | .wz | .d => x

/-- The value that a read delivers. -/
def Ext.value (e : Ext) (bs : List Byte) : Nat :=
  match e with
  | .scalar z | .code z => extend z (leNat bs)
  | .vec => leNat bs

/-- The bytes of the pieces of a read, taken from the snapshot of the phase for a plain load. A load belongs to the phase in
which it is performed (DESIGN CHOICE: log 60). -/
def State.loadPieces (s : State) (l : Option SlotLoc) : List (Place × Nat) → List (Place × List Byte) × State
  | [] => ([], s)
  | (p, n) :: ps =>
    let (bs, s) := s.readAt p n
    let (bs, s) := match l with
      | some l => ((s.getSlot l).phaseRead p bs, s.onSlot l fun x => x.fix p bs)
      | none => (bs, s)
    let (r, s) := State.loadPieces s l ps
    ((p, bs) :: r, s)

/-- A slot's own writes made and seen by its snapshot. -/
def State.storeAll (s : State) (l : Option SlotLoc) : List (Place × List Byte) → State
  | [] => s
  | (p, bs) :: ps =>
    let s := s.writeAt p bs
    let s := match l with
      | some l => s.onSlot l fun x => x.ownWrite p (s.kept p bs)
      | none => s
    State.storeAll s l ps

/-- The bytes of ranges put together from the pieces that an access has read, line by line. -/
def Flight.gathered (f : Flight) (ps : List (Place × Nat)) : List Byte :=
  ps.flatMap fun a => (linesOf a.1.off a.2).flatMap fun l =>
    match inLine ⟨a.1.sp, l⟩ a with
    | some b => ((f.got.find? fun g => g.1 == b.1 && g.2.length == b.2).map Prod.snd).getD []
    | none => []

/-- Lines of an access have had their turn; with the last one it is answered (spec/06 R96). -/
def State.turned (s : State) (n : Nat) (f : Flight) (ls : List Place) (val : Flight → Nat) : State :=
  let f := { f with lines := f.lines ++ ls }
  s.setFlight n (if f.linesLeft.isEmpty then s.serve f (val f) 0 else f)

/-- The part of a read in the lines that have their turn: its bytes are read; bytes that cannot be read end it (spec/18
R305). -/
def State.readLines (s : State) (n : Nat) (f : Flight) (l : Option SlotLoc) (ps : List (Place × Nat)) (ls : List Place)
    (val : List Byte → Nat) : State :=
  let parts := ps.flatMap fun a => ls.filterMap fun k => inLine k a
  if s.unreadable parts then s.setFlight n (s.serveBad f)
  else
    let (bs, s) := s.loadPieces l parts
    s.turned n { f with got := f.got ++ bs } ls fun f => val (f.gathered ps)

/-- The part of a write in the lines that have their turn; a lease holds the whole of it off (spec/07 R120). -/
def State.writeLines (s : State) (n : Nat) (f : Flight) (l : Option SlotLoc) (ps : List (Place × List Byte)) (ls : List Place) :
    State :=
  if ps.any fun a => s.heldOff f a.1 a.2.length then s.retry n f
  else (s.storeAll l (ps.flatMap fun a => ls.filterMap fun k => bytesInLine k a)).turned n f ls fun _ => 0

/-- A full/empty access at its word: applied, parked, or sent back (spec/07 R123, R124). -/
def State.reachFe (s : State) (n : Nat) (f : Flight) (t w : Nat) (op : FeOp) (x : Word) : State :=
  if (op == .ldfe || op == .ste || op == .stf || op == .clr) && s.heldOff f ⟨.spad t, w⟩ 8 then s.retry n f
  else
    let s := s.foldTouched t w 8
    if op.ok ((s.getTile t).ctx.full w) then State.scan t w s.flights.length (s.serveFe n f t w op x)
    else
      let parked := s.flights.filter fun g =>
        match g.st, g.req with
        | .parked _, .fe _ q _ => g.plot == f.plot && q.sp == .spad t && bankOf q.off == bankOf w
        | _, _ => false
      if parked.length < 32 then { s.setFlight n { f with st := .parked s.stamp } with stamp := s.stamp + 1 }
      else s.retry n f

/-- An access applied where it lands, in the lines that have their turn at their banks: the lines of a wide access have
their turns as their banks come free, all that are free in one cycle together, each word applied whole. The order of the words
of one access is open (spec/07 R119, R120; spec/11 R204; DESIGN CHOICE: log 14). A literal of code has been checked when its
instruction issued (spec/04 R71). -/
def State.applyAccess (s : State) (n : Nat) (f : Flight) (ls : List Place) : State :=
  let l := s.runner f
  match f.req with
  | .read ps (.code z) =>
    let (bs, s) := s.loadPieces none (ps.flatMap fun a => ls.filterMap fun k => inLine k a)
    s.turned n { f with got := f.got ++ bs } ls fun f => (Ext.code z).value (f.gathered ps)
  | .read ps ext => s.readLines n f l ps ls ext.value
  | .fetch src _ => s.readLines n f none src.ps ls leNat
  | .write ps => s.writeLines n f l ps ls
  | .chunk _ _ ps => s.writeLines n f none ps ls
  | .member p x _ => s.writeLines n f l [(p, leBytes 8 x.toNat)] ls
  | .away dev va x => let s := s.report (.member dev (s.asidOf f) va x); s.setFlight n (s.serve f 0 0)
  | .deposit p data v =>
    if s.heldOff f p data.length then s.retry n f
    else
      let g := { f with lines := f.lines ++ ls }
      if g.linesLeft.isEmpty then let s := s.writeAt p data; s.setFlight n (s.serve g v.toNat 0) else s.setFlight n g
  | .fe op p x =>
    match p.sp with
    | .spad t => s.reachFe n f t p.off op x
    | _ => s
  | _ => s

end Sys2Proof.Machine
end

