-- ==== Sys2Proof/Machine/Walk.lean ====
section
/-!
DEFINITION. Sys2Proof/Machine/Walk.lean: page tables, the walk and the translation caches (spec/06 R105 to R110).
-/
namespace Sys2Proof.Machine

/-! ### Entries of translation caches (spec/06 R109, R110) -/

/-- The entry of a translation cache for an address: the smallest size that covers it. -/
def lookupIn (tlb : List Tlb) (asid va : Nat) : Option Tlb :=
  (tlb.filter fun e => e.asid == asid && va / 2 ^ e.bits == e.va / 2 ^ e.bits).foldl (fun b e =>
    match b with
    | some y => if e.bits < y.bits then some e else some y
    | none => some e) none

/-- The entry of a tile's translation cache for an address. -/
def Tile.lookup (x : Tile) (asid va : Nat) : Option Tlb := lookupIn x.tlb asid va

/-- An entry taken by a cache of 64; the oldest gives way (log 25). -/
def fillIn (tlb : List Tlb) (e : Tlb) : List Tlb :=
  let rest := tlb.filter fun f => !(f.asid == e.asid && f.bits == e.bits && f.va == e.va)
  (if 64 ≤ rest.length then rest.drop 1 else rest) ++ [e]

/-- The place of an address under an entry. -/
def Tlb.place (e : Tlb) (va : Nat) : Place :=
  ⟨if e.kind = 0 then .edge else .host, e.pa + va % 2 ^ e.bits⟩

/-- Whether an entry allows a use (spec/06 R109). A `pref` is denied where a load would be: the specification speaks of a
denied result of a hint and names no permission for it (DESIGN CHOICE: log 50). -/
def Tlb.allows (e : Tlb) : XUse → Bool
  | .read | .hint => e.r
  | .write => e.w
  | .fetch | .literal => e.x

/-- The ASID of a tile's plot. -/
def State.asid (s : State) (t : Nat) : Nat := ((s.plotOf t).map Plot.asid).getD 0

/-! ### The walk (spec/06 R106 to R109) -/

/-- The bytes of edge memory (spec/06 R105). -/
def edgeSize : Nat := 0x18000000000

/-- The index bits of a level: the lowest bit that it indexes. -/
def levelBit (lvl : Nat) : Nat := 12 + 9 * lvl

/-- The size, as a power of two, of a leaf group at a level. -/
def groupBits (lvl sz : Nat) : Nat := levelBit lvl + (if sz = 1 then 2 else if sz = 2 then 4 else 0)

/-- A table entry. -/
def State.pte (s : State) (base i : Nat) : Nat := Memory.word s.wafer.edge (base + 8 * i)

/-- A field of an entry. -/
def pteBits (e hi lo : Nat) : Nat := e / 2 ^ lo % 2 ^ (hi + 1 - lo)

/-- PA, in bytes. -/
def ptePa (e : Nat) : Nat := pteBits e 55 12 * 4096

/-- The format checks of a valid entry at a level (spec/06 R105, R107, R108; log 24). -/
def pteBad (lvl e : Nat) : Bool :=
  let leaf := pteBits e 1 1 == 1
  let sz := pteBits e 9 8
  let kind := pteBits e 11 10
  pteBits e 63 56 != 0 || pteBits e 5 5 != 0
    || (leaf && decide (3 ≤ lvl)) || (!leaf && lvl == 0)
    || (sz == 1 && lvl != 0) || sz == 3
    || (pteBits e 4 4 == 1 && pteBits e 3 3 == 1)
    || decide (2 ≤ kind) || (!leaf && kind != 0)
    || (leaf && sz != 0 && ptePa e % 2 ^ groupBits lvl sz != 0)
    || (kind == 0 && decide (edgeSize < ptePa e + (if leaf then 2 ^ groupBits lvl sz else 4096)))

/-- The entries of a group are equal apart from A and D. -/
def State.groupAgrees (s : State) (base first n : Nat) : Bool :=
  let key := fun e : Nat => (pteBits e 63 8, pteBits e 5 0)
  (List.range n).all fun i => key (s.pte base (first + i)) == key (s.pte base first)

/-- What the cache takes of a leaf (spec/06 R108). -/
def State.leafEntry (s : State) (asid va base lvl : Nat) : Tlb :=
  let i := va / 2 ^ levelBit lvl % 512
  let e := s.pte base i
  let sz := pteBits e 9 8
  let g := groupBits lvl sz
  let n := 2 ^ (g - levelBit lvl)
  let whole := sz == 0 || s.groupAgrees base (i / n * n) n
  let b := if whole then g else levelBit lvl
  let pa := if whole then ptePa e else ptePa e + va % 2 ^ g / 2 ^ b * 2 ^ b
  ⟨asid, va / 2 ^ b * 2 ^ b, b, pa, pteBits e 11 10, pteBits e 2 2 == 1, pteBits e 3 3 == 1, pteBits e 4 4 == 1⟩

/-- The walk from a table down, with the place of the leaf's entry. -/
def State.walkFrom (s : State) (asid va : Nat) : Nat → Nat → XOut × Option Nat
  | 0, base =>
    let e := s.pte base (va / 2 ^ levelBit 0 % 512)
    if pteBits e 0 0 = 0 then (.absent 0, none)
    else if pteBad 0 e then (.format 0, none)
    else (.ok (s.leafEntry asid va base 0), some (base + 8 * (va / 2 ^ levelBit 0 % 512)))
  | lvl + 1, base =>
    let e := s.pte base (va / 2 ^ levelBit (lvl + 1) % 512)
    if pteBits e 0 0 = 0 then (.absent (lvl + 1), none)
    else if pteBad (lvl + 1) e then (.format (lvl + 1), none)
    else if pteBits e 1 1 = 1 then
      (.ok (s.leafEntry asid va base (lvl + 1)), some (base + 8 * (va / 2 ^ levelBit (lvl + 1) % 512)))
    else State.walkFrom s asid va lvl (ptePa e)

/-- THE WALK of an address for a use (spec/06 R109). An ASID without a root is not present at L4 (log 24). -/
def State.walk (s : State) (asid va : Nat) (use : XUse) : XOut × Option Nat :=
  match s.wafer.roots.find? fun r => r.1 == asid with
  | none => (.absent 4, none)
  | some (_, root) =>
    match s.walkFrom asid va 4 root with
    | (.ok e, at_) => if e.allows use then (.ok e, at_) else (.denied e, none)
    | o => o

/-- The place that an address has, whatever its page allows: by a cache, or by a walk that leaves no trace. -/
def State.mappedAt (s : State) (tlb : List Tlb) (asid va : Nat) : Option Place :=
  match lookupIn tlb asid va with
  | some e => some (e.place va)
  | none =>
    match s.wafer.roots.find? fun r => r.1 == asid with
    | some (_, root) =>
      match s.walkFrom asid va 4 root with
      | (.ok e, _) => some (e.place va)
      | _ => none
    | none => none

/-- A and D set in the entry of a walk that succeeded (spec/06 R107). -/
def State.markUsed (s : State) (at_ : Nat) (write : Bool) : State :=
  let b := Memory.read s.wafer.edge at_
  let b := b ||| 0x40 ||| (if write then 0x80 else 0)
  { s with wafer := { s.wafer with edge := Memory.writeN s.wafer.edge at_ [b] } }

/-! ### The translation caches (spec/06 R110) -/

/-- An entry taken by a tile's cache. -/
def Tile.fill (x : Tile) (e : Tlb) : Tile := { x with tlb := fillIn x.tlb e }

/-- A translation through a cache of a port or of the cellar: by an entry that it holds, else by a walk, which sets A and D
of an entry that it finds, and whose leaf the cache takes (spec/06 R107, R109, R110). -/
def State.viaCache (s : State) (tlb : List Tlb) (asid va : Nat) (use : XUse) : XOut × List Tlb × State :=
  match lookupIn tlb asid va with
  | some e => (if e.allows use then .ok e else .denied e, tlb, s)
  | none =>
    match s.walk asid va use with
    | (.ok e, at_) =>
      (.ok e, fillIn tlb e, match at_ with
        | some a => s.markUsed a (use == .write)
        | none => s)
    | (o, _) => (o, tlb, s)

/-- The place of an address, by the cache or by a walk that leaves no trace. -/
def State.peekPlace (s : State) (t va : Nat) (use : XUse) : Except XOut Place :=
  let asid := s.asid t
  match (s.getTile t).lookup asid va with
  | some e => if e.allows use then .ok (e.place va) else .error (.denied e)
  | none =>
    match (s.walk asid va use).1 with
    | .ok e => .ok (e.place va)
    | o => .error o

/-! ### Instruction lines (spec/04 R86) -/

/-- The line that holds an address. -/
def lineOf (pc : Word) : Nat := bits pc 56 0 / Config.iLine * Config.iLine

/-- The line of an address is resident in a tile's instruction cache. -/
def State.lineIn (s : State) (t : Nat) (pc : Word) : Bool := (s.getTile t).icache.contains (s.asid t, lineOf pc)

/-- The word at an address of a tile's code, 0 where it cannot be read: so a page that is not translated or holds no code ends
run-ahead with no record, since the rule does not say what run-ahead's own fetch does there (DESIGN CHOICE: log 36). -/
def State.peekWord (s : State) (t : Nat) (pc : Word) : Insn :=
  match s.peekPlace t (bits pc 56 0) .fetch with
  | .ok p => BitVec.ofNat 32 (leNat (s.readPlace p 4))
  | .error _ => 0

end Sys2Proof.Machine
end

