-- ==== Sys2Proof/Machine/Operands.lean ====
section
/-!
DEFINITION. Sys2Proof/Machine/Operands.lean: every operand form: sources with their full/empty bits, destinations,
pointers in the windows, virtual addresses through the translation cache, watchpoints and handles (spec/03 R43, R44;
spec/06 R92 to R94, R109, R117; spec/18 R302).
-/
namespace Sys2Proof.Machine

/-! ### Sources and destinations (spec/03 R43, R44) -/

/-- A register source with its w bit. -/
inductive Src where
  | s (r : Reg) (w : Bool)
  | v (r : VNum)
  deriving DecidableEq, Repr

/-- The destination that the register of a source could be. -/
def Src.dest : Src → Dest
  | .s r _ => .s r
  | .v r => .v r

/-- The source is empty. -/
def Slot.srcEmpty (x : Slot) : Src → Bool
  | .s r _ => !x.isFull r
  | .v r => !x.vIsFull r

/-- The source is empty and traps for it. -/
def Slot.srcTraps (x : Slot) : Src → Bool
  | .s r w => w && !x.isFull r
  | .v _ => false

/-- The value of a source can be read in a cycle: its result latency has passed (spec/04 R86, spec/11 R202). -/
def Slot.srcReady (x : Slot) (now : Nat) : Src → Bool
  | .s r _ => r == 0 || decide (x.sat.get r.toFin ≤ now)
  | .v r => decide (x.vat.get r.toFin ≤ now)

/-- The lowest register number among empty sources: scalars are below vectors (spec/03 R43). -/
def Slot.lowestEmpty (x : Slot) (srcs : List Src) : Option Nat :=
  ((srcs.filter x.srcEmpty).map fun a => a.dest.num).foldl (fun m n => match m with
    | some k => some (min k n)
    | none => some n) none

/-- The first of these registers that a failed load left empty, and the load's address (spec/18 R305). -/
def Slot.failedReg (x : Slot) (ds : List Dest) : Option (Nat × Word) :=
  x.badReg.find? fun b => ds.any fun d => d != .none && d != .s 0 && d.num == b.1

/-- A failed load is reported once: it is told of no more (spec/18 R305). -/
def Slot.told (x : Slot) (r : Nat) : Slot := { x with badReg := x.badReg.filter fun b => b.1 != r }

/-- READING SOURCES AND CLAIMING DESTINATIONS. A register whose load failed traps ECC_UNCORRECTABLE at the first
instruction that reads or writes it, and before any EMPTY_READ of that instruction, since spec/03 R54 has no place for it
(DESIGN CHOICE: log 66); an empty source with w = 1 traps EMPTY_READ, the first in the order given; an empty
source with w = 0, or a destination that a long-latency producer still owes, or a source whose latency has not passed,
stalls; else the instruction goes on (spec/03 R43, R44; spec/04 R86; spec/18 R305). -/
def gate (srcs : List Src) (dests : List Dest) (k : State → Out) (s : State) : Out :=
  match s.slot.failedReg (srcs.map Src.dest ++ dests) with
  | some (r, a) => trap .ecc a { s with slot := s.slot.told r }
  | none =>
    match srcs.find? s.slot.srcTraps with
    | some a => trap .emptyRead (BitVec.ofNat 64 a.dest.num) s
    | none =>
      match s.slot.lowestEmpty srcs with
      | some r => stalledEmpty r s
      | none =>
        if (dests.any fun d => s.producing d) || (srcs.any fun a => !s.slot.srcReady s.now a) then stalled s
        else k s

/-- An access class waits behind an outstanding acquire (spec/08 R160). -/
def classed (k : State → Out) (s : State) : Out := if s.acquiring then stalled s else k s

/-- The sources and destinations of an instruction of an access class: behind an outstanding acquire it stalls before it
issues, whatever its sources hold (spec/08 R160). -/
def gateC (srcs : List Src) (dests : List Dest) (k : State → Out) : State → Out := classed (gate srcs dests k)

/-! ### Pointers (spec/06 R92 to R94, R101) -/

/-- The window of a pointer. -/
def win (p : Word) : Nat := bits p 63 60

/-- TILES of the plot of the slot at hand. -/
def State.tiles (s : State) : Nat :=
  match s.own with
  | some p => p.count
  | none => 0

/-- Step 1 of spec/06 R93 for an access of n bytes. -/
def wellFormed (tiles : Nat) (p : Word) (n : Nat) : Bool :=
  match win p with
  | 0x0 => decide (bits p 59 57 = 0 ∧ bits p 56 0 + n ≤ 2 ^ 57)
  | 0x8 => decide (bits p 59 36 = 0 ∧ bits p 35 32 < 8 ∧ bits p 29 13 = 0 ∧ bits p 12 0 + n ≤ 0x2000)
  | 0x9 | 0xA => decide (bits p 59 48 = 0 ∧ bits p 31 20 = 0 ∧ bits p 47 32 < tiles ∧ bits p 19 0 + n ≤ 2 ^ 20)
  | 0xB => decide (bits p 59 48 = 0 ∧ bits p 31 23 = 0 ∧ bits p 21 21 = 0 ∧ bits p 47 32 < tiles ∧ bits p 20 0 + n ≤ 2 ^ 21)
  | _ => false

/-- Step 2 of spec/06 R93: a window 0x9 pointer to another tile, or a window 0x8 pointer to another slot. -/
def State.foreign (s : State) (p : Word) : Bool :=
  (win p == 0x9 && bits p 47 32 != s.tile.ctx.n)
    || (win p == 0x8 && (bits p 35 32 != s.cur.core || bits p 31 30 != s.cur.slot))

/-- Steps 1 to 3 of spec/06 R93: the first cause that a pointer raises. `fe` marks a full/empty operation. -/
def State.ptrCause (s : State) (p : Word) (n align : Nat) (fe : Bool) : Option Cause :=
  if !wellFormed s.tiles p n || (fe && (win p == 0x0 || win p == 0xB)) then some .windowRange
  else if s.foreign p then some .foreignWindow
  else if p.toNat % align ≠ 0 then some .misaligned
  else none

/-- A pointer checked by spec/06 R93, steps 1 to 3. -/
def checkPtr (p : Word) (n align : Nat) (fe : Bool) (k : State → Out) (s : State) : Out :=
  match s.ptrCause p n align fe with
  | some c => trap c p s
  | none => k s

/-- A pointer with a value added to its offset, without a check. -/
def plusOff (p : Word) (n : Nat) : Word := p + BitVec.ofNat 64 n

/-- R93 on the first and on the last byte of an extent, which an instruction checks as two pointers: the cause with the pointer
of the byte that fails, for the last byte the one with the offset added. A WINDOW_RANGE of either comes before the other causes
(spec/03 R54 item 6; spec/06 R93). -/
def State.endsCause (s : State) (p : Word) (n : Nat) : Option (Cause × Word) :=
  if wellFormed s.tiles p 1 && !wellFormed s.tiles p n then some (.windowRange, plusOff p (n - 1))
  else (s.ptrCause p n 1 false).map fun c => (c, p)

/-- An extent checked by its first and its last byte. -/
def checkEnds (p : Word) (n : Nat) (k : State → Out) (s : State) : Out :=
  match s.endsCause p n with
  | some (c, q) => trap c q s
  | none => k s

/-- The greatest value of the offset field of a window (spec/06 R101). -/
def offMax (w : Nat) : Nat :=
  match w with
  | 0x0 => 2 ^ 57 - 1
  | 0x8 => 0x1FFF
  | 0xB => 0x1FFFFF
  | _ => 0xFFFFF

/-- The offset field of a pointer: VA [56:0], [12:0], [19:0] or [21:0]. -/
def offField (p : Word) : Nat :=
  match win p with
  | 0x0 => bits p 56 0
  | 0x8 => bits p 12 0
  | 0xB => bits p 21 0
  | _ => bits p 19 0

/-- A pointer with a signed value added to its offset field, exact and without wrap; none where `addp` traps. -/
def addOff (tiles : Nat) (p : Word) (k : Int) : Option Word :=
  let n : Int := (offField p : Int) + k
  if wellFormed tiles p 1 ∧ 0 ≤ n ∧ n ≤ offMax (win p) then some (BitVec.ofNat 64 (p.toNat - offField p + n.toNat))
  else none

/-- Where a pointer outside window 0x0 lands, for a tile (spec/06 R94). -/
def State.placeAt (s : State) (t : Nat) (p : Word) : Place :=
  match win p with
  | 0x8 => ⟨.spad t, (4 * bits p 35 32 + bits p 31 30) * 0x2000 + bits p 12 0⟩
  | 0x9 => ⟨.spad t, bits p 19 0⟩
  | 0xA => ⟨.spad (((s.plotOf t).map fun q => q.at (bits p 47 32)).getD 0), bits p 19 0⟩
  | 0xB => ⟨.cask (((s.plotOf t).map fun q => q.at (bits p 47 32)).getD 0), bits p 22 22 * 2 ^ 21 + bits p 20 0⟩
  | _ => ⟨.edge, bits p 56 0⟩

/-- Where a pointer of the slot at hand lands. -/
def State.placeOf (s : State) (p : Word) : Place := s.placeAt s.cur.tile p

/-- The tile that an access to a place goes to. -/
def Place.tile (p : Place) (own : Nat) : Nat :=
  match p.sp with
  | .spad t | .cask t => t
  | _ => own

/-- The pointer names a scratchpad place of the own tile. -/
def State.ownSpad (s : State) (p : Word) : Bool :=
  win p == 0x8 || win p == 0x9 || (win p == 0xA && bits p 47 32 == s.tile.ctx.n)

/-! ### Translation (spec/06 R105 to R110) -/

/-- What a lookup of a range answers. -/
inductive Looked where
  | places (ps : List (Place × Nat))
  | miss (va : Nat)
  | denied (va : Nat)
  deriving DecidableEq, Repr

/-- An answer for a page put before the answer for the pages after it: a page that is not translated yet comes before one
that is denied (spec/03 R54 item 8). -/
def Looked.after (first rest : Looked) : Looked :=
  match first, rest with
  | .miss a, _ => .miss a
  | _, .miss a => .miss a
  | .denied a, _ => .denied a
  | _, .denied a => .denied a
  | .places ps, .places qs => .places (ps ++ qs)

/-- A range of virtual addresses cut at 4 KiB boundaries. The fuel is the number of pages it can touch. -/
def pages (va n : Nat) : Nat → List (Nat × Nat)
  | 0 => []
  | k + 1 =>
    let m := min n (4096 - va % 4096)
    if n = 0 then [] else (va, m) :: pages (va + m) (n - m) k

/-- The place of a piece of one page through a translation cache. -/
def lookPage (tlb : List Tlb) (asid : Nat) (use : XUse) (x : Nat × Nat) : Looked :=
  match lookupIn tlb asid x.1 with
  | none => .miss x.1
  | some e => if e.allows use then .places [(e.place x.1, x.2)] else .denied x.1

/-- The places of a range of virtual addresses through a translation cache. -/
def translateIn (tlb : List Tlb) (asid va n : Nat) (use : XUse) : Looked :=
  ((pages va n (n / 4096 + 2)).map (lookPage tlb asid use)).foldr Looked.after (.places [])

/-- A translation miss of a waiting unit; of a `pref`, which waits for nothing, one for the same page (spec/06 R110;
spec/07 R126). -/
def Xlate.same (x : Xlate) (t : Nat) (who : XWho) (va : Nat) : Bool :=
  x.tile == t && x.who == who && match who with
    | .hint _ _ => x.va.toNat / 4096 == va / 4096
    | _ => true

/-- A translation miss sent to the die's cellar, once for each waiting unit (spec/06 R110). -/
def State.miss (s : State) (t : Nat) (who : XWho) (va : Nat) (use : XUse) : State :=
  if s.wafer.xlates.any fun x => x.same t who va then s
  else { s with wafer := { s.wafer with xlates := s.wafer.xlates ++
    [⟨t, who, s.asid t, BitVec.ofNat 64 va, use, none, s.packet t (cellarAt (dieOf t)) 1 1 7⟩] } }

/-- The translations that the slot at hand uses: the tile's cache, and what its stalled instruction has been given. -/
def State.slotTlb (s : State) : List Tlb := s.tile.tlb ++ s.slot.xl

/-! ### Watchpoints (spec/18 R302) -/

/-- The places of n bytes from a pointer, each with its distance from it; in window 0x0 those that the pages have now. -/
def State.piecesOf (s : State) (p : Word) (n : Nat) : List (Nat × Place × Nat) :=
  if win p = 0 then
    let va := bits p 56 0
    (pages va n (n / 4096 + 2)).filterMap fun (a, m) =>
      (s.mappedAt s.slotTlb (s.asid s.cur.tile) a).map fun q => (a - va, q, m)
  else [(0, s.placeOf p, n)]

/-- The places that an enabled watchpoint of a matching kind watches: 2^LOG bytes aligned on its pointer. -/
def State.watchRange (s : State) (rd wr : Bool) (w : Word × Word) : List (Nat × Place × Nat) :=
  if bits w.2 8 8 = 1 ∧ ((rd ∧ bits w.2 7 7 = 1) ∨ (wr ∧ bits w.2 6 6 = 1)) ∧ wellFormed s.tiles w.1 1 then
    let sz := 2 ^ min (bits w.2 4 0) 20
    if win w.1 = 0 then s.piecesOf (BitVec.ofNat 64 (bits w.1 56 0 / sz * sz)) sz
    else
      let q := s.placeOf w.1
      [(0, ⟨q.sp, q.off / sz * sz⟩, sz)]
  else []

/-- The distance of the lowest byte of a piece that lies in a range, by place. -/
def overlapAt (a r : Nat × Place × Nat) : Option Nat :=
  if a.2.1.sp = r.2.1.sp ∧ a.2.1.off < r.2.1.off + r.2.2 ∧ r.2.1.off < a.2.1.off + a.2.2 then
    some (a.1 + (r.2.1.off - a.2.1.off))
  else none

/-- The lowest byte of pieces that an enabled watchpoint of the core watches. Ranges are compared by place. -/
def State.watchedPlaces (s : State) (as : List (Nat × Place × Nat)) (rd wr : Bool) : Option Nat :=
  if s.slot.skipBp then none
  else
    let rs := (vget s.tile.ctx.wps s.cur.core (Vector.replicate 4 (0, 0))).toList.flatMap (s.watchRange rd wr)
    (as.flatMap fun a => rs.filterMap (overlapAt a)).min?

/-- The lowest byte of an access, by its pointer, that a watchpoint of the core watches, pointers in order. -/
def State.watched (s : State) (ps : List (Word × Nat)) (rd wr : Bool) : Option Word :=
  ps.findSome? fun (p, n) => (s.watchedPlaces (s.piecesOf p n) rd wr).map (plusOff p)

/-! ### Making an access -/

/-- What an access needs of its page and its place. -/
structure Need where
  use : XUse
  /-- watchpoint kinds that it matches -/
  rd : Bool
  wr : Bool
  /-- it writes: the cask refuses it, and a lease of the own core stalls it -/
  store : Bool
  /-- record memory is protected from it (spec/02 R24) -/
  guarded : Bool
  /-- a page of host memory refuses it (spec/07 R128) -/
  onDie : Bool

/-- What a plain load, a plain store, a full/empty operation that writes or not, and an atomic need. -/
def needLd : Need := ⟨.read, true, false, false, false, false⟩
def needSt : Need := ⟨.write, false, true, true, true, false⟩
def needFe (writes : Bool) : Need := ⟨.write, true, true, writes, true, false⟩
def needAmo : Need := ⟨.write, true, true, true, true, true⟩

/-- The places of checked pointers, or the first trap, or a miss (spec/03 R54 item 8). -/
inductive Placed where
  | ok (ps : List (Place × Nat))
  | miss (va : Nat)
  | trap (c : Cause) (p : Word)
  deriving DecidableEq, Repr

/-- The access checks of one piece: translation in window 0x0; record memory and the cask elsewhere. -/
def State.placed1 (s : State) (nd : Need) (p : Word) (n : Nat) : Placed :=
  if win p = 0 then
    match translateIn s.slotTlb (s.asid s.cur.tile) (bits p 56 0) n nd.use with
    | .places ps => if nd.onDie ∧ ps.any fun a => a.1.sp == .host then .trap .protection p else .ok ps
    | .miss a => .miss a
    | .denied a => .trap .protection (BitVec.ofNat 64 a)
  else
    let q := s.placeOf p
    match q.sp with
    | .spad _ =>
      match (if nd.guarded then s.tile.ctx.plot.bind fun k => s.recordHit k q n else none) with
      | some a => .trap .protection (plusOff p (a - q.off))
      | none => .ok [(q, n)]
    | _ => if nd.store then .trap .caskWrite p else .ok [(q, n)]

/-- The access checks of every piece, in order. A missing translation comes before a refusal, so that a page fault is
found first (spec/03 R54, spec/11 R204). -/
def State.placed (s : State) (nd : Need) : List (Word × Nat) → Placed
  | [] => .ok []
  | (p, n) :: ps =>
    match s.placed1 nd p n, State.placed s nd ps with
    | .ok q, .ok r => .ok (q ++ r)
    | .ok _, o => o
    | .miss a, _ => .miss a
    | .trap _ _, .miss a => .miss a
    | .trap c q, _ => .trap c q

/-- A lease of a command of the own core covers a byte of some ranges, on whatever tile (spec/07 R120, row 1). -/
def State.ownLease (s : State) (qs : List (Place × Nat)) : Bool :=
  qs.any fun a => match a.1.sp with
    | .spad t => (s.getTile t).ctx.leasedBy s.cur.tile s.cur.core a.1.off a.2
    | _ => false

/-- THE ACCESS CHECKS of pointers that have passed R93: translation, protection, the cask, then watchpoints; a miss
waits for the walk; a write under a lease of the own core stalls (spec/03 R54 items 8 and 9; spec/07 R120). -/
def access (nd : Need) (ps : List (Word × Nat)) (k : List (Place × Nat) → State → Out) (s : State) : Out :=
  match s.placed nd ps with
  | .trap c p => trap c p s
  | .miss va => stalled (s.miss s.cur.tile (.slot s.cur.core s.cur.slot) va nd.use)
  | .ok qs =>
    match s.watched ps nd.rd nd.wr with
    | some p => .next (s.takeTrapWith .breakpoint p s.slot.ir true)
    | none => if nd.store ∧ s.ownLease qs then stalled s else k qs s

/-- The tile that pieces go to: that of the first one outside the own tile. -/
def State.target (s : State) (ps : List (Place × Nat)) : Nat :=
  (ps.map fun a => a.1.tile s.cur.tile).find? (fun t => t != s.cur.tile) |>.getD s.cur.tile

/-! ### Handles (spec/06 R117) -/

/-- The 32-bit handle of a register operand (spec/06 R116). -/
def handleOf (x : Word) : Nat := bits x 31 0

/-- A handle checked against the plot's table: the object of the kind asked for, or STALE_HANDLE. -/
def withObj {α : Type} (h : Nat) (want : Obj → Option α) (k : α → State → Out) (s : State) : Out :=
  match (s.own.bind fun p => p.find h).bind want with
  | some a => k a s
  | none => trap .staleHandle (BitVec.ofNat 64 h) s

/-- Barriers. -/
def Obj.barrier? : Obj → Option Barrier
  | .barrier b => some b
  | _ => none

/-- Vintages. -/
def Obj.vintage? : Obj → Option Vintage
  | .vintage v => some v
  | _ => none

/-- Copy regions. -/
def Obj.region? : Obj → Option (RegionBase × Nat × Bool)
  | .region b l w => some (b, l, w)
  | _ => none

/-- Replica sets. -/
def Obj.replica? : Obj → Option (Nat × List Member)
  | .replica l m => some (l, m)
  | _ => none

end Sys2Proof.Machine
end

