-- ==== Sys2Proof/Machine/Access.lean ====
section
/-!
DEFINITION. Sys2Proof/Machine/Access.lean: loads, stores, full/empty operations, `pref`, `refq`, atomics, reductions
and fences at issue: majors 0x14 to 0x1A (spec/06 R104; spec/07 R121 to R135). Each checks its operands, then sends an
access; the access is applied where it lands by another step.
-/
namespace Sys2Proof.Machine

/-! ### Loads and stores (spec/07 R121) -/

/-- The pointer of a memory instruction: s[base] with off × n added to its offset field. -/
def effPtr (base : Reg) (off : BitVec 12) (n : Nat) (s : State) : Option Word :=
  addOff s.tiles (s.slot.s base) (off.toInt * n)

/-- The pointer of a memory instruction checked for an access of n bytes, or the trap it raises. -/
def withEff (base : Reg) (off : BitVec 12) (n : Nat) (fe : Bool) (k : Word → State → Out) (s : State) : Out :=
  match effPtr base off n s with
  | none => trap .windowRange (s.slot.s base) s
  | some p => checkPtr p n n fe (k p) s

/-- Bytes laid over pieces, in order. -/
def spread : List (Place × Nat) → List Byte → List (Place × List Byte)
  | [], _ => []
  | (p, n) :: ps, bs => (p, bs.take n) :: spread ps (bs.drop n)

/-- The result latency of a load: one for the own tile's scratchpad, one for its cask, none fixed elsewhere
(spec/07 R122, spec/11 R202). -/
def State.readLat (s : State) (spad cask : Nat) (ps : List (Place × Nat)) : Nat :=
  if ps.all fun a => a.1.sp == .spad s.cur.tile then spad
  else if ps.all fun a => a.1.sp == .cask s.cur.tile then cask
  else 0

/-- A read sent to its places, with its result latency. -/
def sendRead (dest : Dest) (p : Word) (ps : List (Place × Nat)) (ext : Ext) (lat : Nat) (s : State) : Out :=
  done (s.send ((s.flight dest .ld false false (s.target ps) 1 1 p (.read ps ext)).lasting 0 lat))

/-- A write sent to its places. -/
def sendWrite (p : Word) (ps : List (Place × Nat)) (bs : List Byte) (s : State) : Out :=
  done (s.send (s.flight .none .st false false (s.target ps) 1 (flitsOf bs.length) p (.write (spread ps bs))))

def execLd (d base : Reg) (wa : Bool) (z : LdSize) (off : BitVec 12) (s : State) : Out :=
  gateC [.s base wa] [.s d] (fun s =>
    withEff base off (ldBytes z) false (fun p s =>
      access needLd [(p, ldBytes z)] (fun ps s => sendRead (.s d) p ps (.scalar z) (s.readLat 6 10 ps) s) s) s) s

/-- The bytes of a store (spec/03 R42). -/
def stBytes : StSize → Nat
  | .b => 1
  | .h => 2
  | .w => 4
  | .d => 8

def execSt (d base : Reg) (wa : Bool) (z : StSize) (off : BitVec 12) (s : State) : Out :=
  gateC [.s d wa, .s base wa] [] (fun s =>
    withEff base off (stBytes z) false (fun p s =>
      access needSt [(p, stBytes z)] (fun ps s => sendWrite p ps (leBytes (stBytes z) (s.slot.s d).toNat) s) s) s) s

/-! ### Full/empty operations (spec/07 R123, R125) -/

/-- A full/empty operation sent to its word: `ste` and `stf` are releases, the others acquires. -/
def feSend (op : FeOp) (d base : Reg) (off : BitVec 12) (s : State) : Out :=
  let stores := op == .ste || op == .stf
  withEff base off 8 true (fun p s =>
    access (needFe (stores || op == .ldfe || op == .clr)) [(p, 8)] (fun ps s =>
      match ps with
      | (q, _) :: _ =>
        done (s.send (s.flight (if stores then .none else .s d) .fe stores (!stores) (s.target ps) 1 1 p
          (.fe op q (if stores then s.slot.s d else 0))))
      | [] => done s) s) s

/-- A full/empty operation with a result. -/
def feLoad (op : FeOp) (d base : Reg) (wa : Bool) (off : BitVec 12) (s : State) : Out :=
  gateC [.s base wa] [.s d] (feSend op d base off) s

/-- A full/empty operation that stores s[d]. -/
def feStore (op : FeOp) (d base : Reg) (wa : Bool) (off : BitVec 12) (s : State) : Out :=
  gateC [.s d wa, .s base wa] [] (feSend op d base off) s

def execLdf (d base : Reg) (wa : Bool) (off : BitVec 12) (s : State) : Out := feLoad .ldf d base wa off s
def execLdfe (d base : Reg) (wa : Bool) (off : BitVec 12) (s : State) : Out := feLoad .ldfe d base wa off s
def execSte (d base : Reg) (wa : Bool) (off : BitVec 12) (s : State) : Out := feStore .ste d base wa off s
def execStf (d base : Reg) (wa : Bool) (off : BitVec 12) (s : State) : Out := feStore .stf d base wa off s
def execFeClr (d base : Reg) (wa : Bool) (off : BitVec 12) (s : State) : Out := feLoad .clr d base wa off s
def execFeTst (d base : Reg) (wa : Bool) (off : BitVec 12) (s : State) : Out := feLoad .tst d base wa off s
def execWaita (d base : Reg) (wa : Bool) (off : BitVec 12) (s : State) : Out := feLoad .waita d base wa off s

/-! ### Hints and refresh windows (spec/07 R126, spec/06 R104) -/

/-- `pref` starts a translation of a well-formed window 0x0 pointer's page, and does nothing else. -/
def execPref (base : Reg) (wa : Bool) (off : BitVec 12) (s : State) : Out :=
  gate [.s base wa] [] (fun s =>
    match effPtr base off 8 s with
    | some p =>
      if win p = 0 ∧ (s.tile.lookup (s.asid s.cur.tile) (bits p 56 0)).isNone then
        done (s.miss s.cur.tile (.hint s.cur.core s.cur.slot) (bits p 56 0) .hint)
      else done s
    | none => done s) s

/-- The start of the current or next refresh window of a bank (spec/06 R104). -/
def refreshStart (bank now : Nat) : Nat :=
  let s := now / 32768 * 32768 + 4096 * bank
  if s + 256 ≤ now then s + 32768 else s

def execRefq (d base : Reg) (wa : Bool) (off : BitVec 12) (s : State) : Out :=
  gate [.s base wa] [.s d] (fun s =>
    match effPtr base off 8 s with
    | none => trap .windowRange (s.slot.s base) s
    | some p =>
      if win p ≠ 0xB ∨ !wellFormed s.tiles p 1 then trap .windowRange p s
      else writeAfter 2 d (BitVec.ofNat 64 (refreshStart (bits p 8 6) s.wafer.time)) s) s

/-! ### Atomics (spec/07 R127 to R131) -/

/-- The windows a scope accepts (spec/07 R128); window 0xB is left to the access checks. -/
def scopeTakes (sc : AccScope) (s : State) (p : Word) : Bool :=
  win p == 0xB ||
  match sc with
  | .tile => s.ownSpad p
  | .plot => win p == 0x8 || win p == 0x9 || win p == 0xA
  | .wafer | .system => win p == 0x0

/-- Where an atomic executes: the own tile, the plot's origin tile, or the home slice (spec/07 R128). -/
def amoHome (sc : AccScope) (s : State) : Nat :=
  match sc with
  | .plot => (s.own.map fun p => p.at 0).getD s.cur.tile
  | _ => s.cur.tile

/-- The checks of an atomic, and its access: a release always, an acquire unless the destination is s0. -/
def amoSend (op : AmoOp) (sc : AccScope) (ty : AmoTy) (d : Reg) (p x cmp : Word) (s : State) : Out :=
  if !wellFormed s.tiles p ty.size || !scopeTakes sc s p then trap .windowRange p s
  else
    checkPtr p ty.size ty.size false (fun s =>
      access needAmo [(p, ty.size)] (fun ps s =>
        match ps with
        | (q, _) :: _ => done (s.send (s.flight (.s d) .amo true (d != 0) (amoHome sc s) 1 1 p (.amo op ty sc q x cmp)))
        | [] => done s) s) s

/-- The atomics with an operand. -/
def amo2 (op : AmoOp) (d a b : Reg) (wa wb : Bool) (sc : AccScope) (ty : AmoTy) (s : State) : Out :=
  gateC [.s a wa, .s b wb] [.s d] (fun s => amoSend op sc ty d (s.slot.s a) (s.slot.s b) 0 s) s

def execAmoAdd (d a b : Reg) (wa wb : Bool) (sc : AccScope) (ty : AmoTy) (s : State) : Out := amo2 .add d a b wa wb sc ty s
def execAmoAnd (d a b : Reg) (wa wb : Bool) (sc : AccScope) (ty : AmoTy) (s : State) : Out := amo2 .and d a b wa wb sc ty s
def execAmoOr (d a b : Reg) (wa wb : Bool) (sc : AccScope) (ty : AmoTy) (s : State) : Out := amo2 .or d a b wa wb sc ty s
def execAmoXor (d a b : Reg) (wa wb : Bool) (sc : AccScope) (ty : AmoTy) (s : State) : Out := amo2 .xor d a b wa wb sc ty s
def execAmoMin (d a b : Reg) (wa wb : Bool) (sc : AccScope) (ty : AmoTy) (s : State) : Out := amo2 .min d a b wa wb sc ty s
def execAmoMax (d a b : Reg) (wa wb : Bool) (sc : AccScope) (ty : AmoTy) (s : State) : Out := amo2 .max d a b wa wb sc ty s
def execAmoMinn (d a b : Reg) (wa wb : Bool) (sc : AccScope) (ty : AmoTy) (s : State) : Out := amo2 .minn d a b wa wb sc ty s
def execAmoMaxn (d a b : Reg) (wa wb : Bool) (sc : AccScope) (ty : AmoTy) (s : State) : Out := amo2 .maxn d a b wa wb sc ty s
def execAmoXchg (d a b : Reg) (wa wb : Bool) (sc : AccScope) (ty : AmoTy) (s : State) : Out := amo2 .xchg d a b wa wb sc ty s
def execAmoFadd (d a b : Reg) (wa wb : Bool) (sc : AccScope) (ty : AmoTy) (s : State) : Out := amo2 .fadd d a b wa wb sc ty s
def execAmoFmax (d a b : Reg) (wa wb : Bool) (sc : AccScope) (ty : AmoTy) (s : State) : Out := amo2 .fmax d a b wa wb sc ty s
def execAmoFmin (d a b : Reg) (wa wb : Bool) (sc : AccScope) (ty : AmoTy) (s : State) : Out := amo2 .fmin d a b wa wb sc ty s

/-- `amo.cas` also reads s[d], the comparand, without a w bit. -/
def execAmoCas (d a b : Reg) (wa wb : Bool) (sc : AccScope) (ty : AmoTy) (s : State) : Out :=
  gateC [.s a wa, .s b wb, .s d false] [.s d] (fun s =>
    amoSend .cas sc ty d (s.slot.s a) (s.slot.s b) (s.slot.s d) s) s

/-- `amo.amaxx` has no operand. -/
def execAmoAmaxx (d a : Reg) (wa : Bool) (sc : AccScope) (ty : AmoTy) (s : State) : Out :=
  gateC [.s a wa] [.s d] (fun s => amoSend .amaxx sc ty d (s.slot.s a) 0 0 s) s

/-! ### Reductions (spec/07 R132) -/

/-- The pointers that a reduction accepts: the own tile's scratchpad (spec/07 R132); window 0xB is left to the access
checks. -/
def redTakes (s : State) (p : Word) : Bool :=
  win p == 0xB || win p == 0x8 || ((win p == 0x9 || win p == 0xA) && bits p 47 32 == s.tile.ctx.n)

/-- A contribution to a word of the own tile's scratchpad. -/
def redSend (op : RedOp) (a b : Reg) (wa wb : Bool) (ty : AmoTy) (s : State) : Out :=
  gateC [.s a wa, .s b wb] [] (fun s =>
    let p := s.slot.s a
    if !wellFormed s.tiles p ty.size || !redTakes s p then trap .windowRange p s
    else
      checkPtr p ty.size ty.size false (fun s =>
        access needAmo [(p, ty.size)] (fun ps s =>
          match ps with
          | (q, _) :: _ => done (s.send (s.flight .none .amo false false s.cur.tile 1 1 p (.red op ty q (s.slot.s b))))
          | [] => done s) s) s) s

def execRedAdd (a b : Reg) (wa wb : Bool) (ty : AmoTy) (s : State) : Out := redSend .add a b wa wb ty s
def execRedFadd (a b : Reg) (wa wb : Bool) (ty : AmoTy) (s : State) : Out := redSend .fadd a b wa wb ty s
def execRedFmax (a b : Reg) (wa wb : Bool) (ty : AmoTy) (s : State) : Out := redSend .fmax a b wa wb ty s

/-! ### Fences (spec/07 R134, R135) -/

/-- The classes of a predecessor set; eng is performed at its fork, which is at issue. -/
def predClasses (pred : BitVec 5) : List Cls :=
  ([(0, Cls.ld), (1, .st), (2, .fe), (3, .amo), (4, .msg)].filter fun x => pred.getLsbD x.1).map Prod.snd

/-- A fence with one of these classes in its predecessor set is a publish point (spec/08 R157). -/
def publishes (cs : List Cls) : Bool := cs.contains .st || cs.contains .fe || cs.contains .amo

/-- The writes of the running record that are not yet acknowledged at a publish point: later writes of the record become
visible behind them (spec/08 R159, R165). -/
def State.publish (s : State) : State :=
  { s with flights := s.flights.map fun f => if s.mine f && f.isWrite then { f with pub := true } else f }

/-- A fence completes, no earlier than 2 cycles after it issues (spec/07 R135). With st, fe or amo in its predecessor set its
completion is a publish point (spec/08 R157), also for the writes of the classes that it did not wait for; with ld in its
successor set it is a refresh point (spec/08 R155). A plain load that is performed after it is read afresh, also one issued
before it (DESIGN CHOICE: log 60). -/
def fenceDone (cs : List Cls) (refresh : Bool) (s : State) : Out :=
  let s := if publishes cs then s.publish else s
  done { s with slot := { s.slot with
    notBefore := s.waitStart + 2, snap := if refresh then [] else s.slot.snap } }

/-- A fence stalls until its predecessor accesses have been performed. A write whose home failed traps
ECC_UNCORRECTABLE (spec/18 R305). -/
def fenceOn (cs : List Cls) (refresh : Bool) (s : State) : Out :=
  match s.slot.badWrite with
  | some a =>
    if publishes cs then
      trap .ecc a { s with slot := { s.slot with badWrite := none } }
    else if s.outstanding cs then waiting s
    else fenceDone cs refresh s
  | none => if s.outstanding cs then waiting s else fenceDone cs refresh s

/-- `fence` (the scope changes neither what it waits for nor the on-die order, spec/07 R135). -/
def execFence (pred succ : BitVec 5) (_peng _seng : Bool) (_sc : FenceScope) (s : State) : Out :=
  fenceOn (predClasses pred) (succ.getLsbD 0) s

/-- `fence.sc`: both sets hold every class; every store is visible on every die once acknowledged (log 18). -/
def execFenceSc (_sc : FenceScope) (s : State) : Out := fenceOn (predClasses 31) true s

end Sys2Proof.Machine
end

