-- ==== Sys2Proof/Machine/Strand.lean ====
section
/-!
DEFINITION. Sys2Proof/Machine/Strand.lean: the continuation instructions, major 0x11: `yield`, `susp`, `retire`,
`spawn`, `wake` and `recp` (spec/02 R32 to R38).
-/
namespace Sys2Proof.Machine

/-! ### Leaving the slot (spec/02 R33) -/

/-- s1 to s6 with their full bits. -/
def Slot.carried (x : Slot) : List (Word × Bool) :=
  [1, 2, 3, 4, 5, 6].map fun (r : Reg) => (x.s r, x.isFull r)

/-- The access is a call packet. -/
def Flight.isCall (f : Flight) : Bool :=
  match f.req with
  | .call .. => true
  | _ => false

/-- The access is an arrival of a core at a barrier. -/
def Flight.isArrival (f : Flight) : Bool :=
  match f.req with
  | .arrive _ _ _ engine => !engine
  | _ => false

/-- A destination among s1 to s6. -/
def Dest.isCarried : Dest → Bool
  | .s r => decide (1 ≤ r.toNat ∧ r.toNat ≤ 6)
  | _ => false

/-- The producers and arrivals that leaving the slot waits for (spec/02 R33 item 2). -/
def State.draining (s : State) : Bool :=
  s.flights.any fun f => s.mine f && ((f.dest.isCarried && !f.isCall) || f.isArrival)

/-- The classes of the tile fence of R33. -/
def fenceAll : List Cls := [.ld, .st, .fe, .amo, .msg]

/-- The access only brings a value. -/
def Flight.isReply (f : Flight) : Bool :=
  match f.req with
  | .reply => true
  | _ => false

/-- Late values that lose their register with the slot; a value for a carried register is kept. -/
def State.dropLate (s : State) : State :=
  let kept := s.flights.filter fun f => !(s.mine f && f.isReply && !f.dest.isCarried)
  { s with flights := kept.map (fun f => if s.mine f && !f.dest.isCarried then { f with dest := .none } else f) }

/-- A slot whose record has left: it holds no record and waits for nothing; its registers stand as they are until the
next dispatch sets them (spec/02 R27). -/
def Slot.freed (x : Slot) : Slot :=
  { Slot.reset with
    frozen := x.frozen, run := x.run, sreg := x.sreg, sfull := x.sfull, vreg := x.vreg, vfull := x.vfull, lc := x.lc
    loops := x.loops, pc := x.pc, ir := x.ir, status := x.status, trapc := x.trapc, trapv := x.trapv, fecfg := x.fecfg
    ce := x.ce, de := x.de }

/-- The slot free again, its current returned (spec/02 R28, R33 item 5). -/
def State.freeSlot (s : State) : State :=
  let c := (s.tile.ctx.bind s.slot.run.queue).current
  { s with slot := s.slot.freed, tile := { s.tile with irem := s.tile.irem + c } }

/-- The record of the slot at hand written back in a state, with its wait (spec/02 R20, R22). -/
def State.writeBack (s : State) (v : Leaving) (pc : Word) : State :=
  let r := s.slot.run
  let now := s.cycles s.cur.tile
  let c := ((s.tile.ctx.setHead r.off v.st pc).setWait r.off v.kind v.param).setCarried r.off s.slot.carried
  let c := if v.st = 1 then { c with ready := c.ready ++ [⟨r.queue, r.index, r.off, now, 0⟩] }
    else if v.st = 3 then { c with waits := c.waits ++ [⟨r.queue, r.index, r.off, v.met⟩] }
    else c
  { s with tile := { s.tile with ctx := c } }

/-- The producer drain, the tile fence, the write-back and the release. What the record leaves with has been decided: while
the slot drains, it is kept (spec/02 R33; spec/18 R305). The PC written is that of the next instruction, or of the `retire`
itself (spec/02 R20). -/
def drainSlot (v : Leaving) (s : State) : Out :=
  match s.slot.badReg.head?, s.slot.badWrite with
  | some (r, a), _ => trap .ecc a { s with slot := s.slot.told r }
  | none, some a => trap .ecc a { s with slot := { s.slot with badWrite := none } }
  | none, none =>
    if s.draining || s.outstanding fenceAll then stalled { s with slot := { s.slot with leaving := some v } }
    else
      let stepping := s.slot.stepping
      let pc := if v.st = 5 then s.slot.pc else s.slot.pc + 4
      let s := ((s.writeBack v pc).dropLate).freeSlot
      .next (if stepping then s.report (stepWords pc v.st 0) else s)

/-- LEAVING THE SLOT: the loop check, then the drain (spec/02 R33). -/
def leaveSlot (st kind param : Nat) (s : State) : Out :=
  if s.slot.loops ≠ [] then trap .loopSuspend 0 s else drainSlot ⟨st, kind, param, false⟩ s

/-- A suspension reads its operands and decides once; a slot that has begun to leave goes on with its drain (spec/02 R34). -/
def orLeave (k : State → Out) (s : State) : Out :=
  match s.slot.leaving with
  | some v => drainSlot v s
  | none => k s

/-! ### Notices (spec/02 R23) -/

/-- The descriptor of a message (spec/07 R141). -/
def descriptor (len src tag : Nat) : Word :=
  BitVec.ofNat 64 (2 ^ 63 + len % 1024 * 2 ^ 48 + src % 65536 * 2 ^ 32 + tag % 65536)

/-- The oldest notice of a record with a tag, and the entries without it. -/
def takeNotice (owner tag : Nat) : List MuEntry → Option ((Nat × Nat) × List MuEntry)
  | [] => none
  | .notice r src tg len :: es =>
    if r = owner ∧ tg = tag then some ((len, src), es)
    else (takeNotice owner tag es).map fun x => (x.1, .notice r src tg len :: x.2)
  | e :: es => (takeNotice owner tag es).map fun x => (x.1, e :: x.2)

/-! ### The suspensions (spec/02 R34) -/

def execYield (s : State) : Out := orLeave (leaveSlot 1 0 0) s

/-- `susp.tag`: consumes a notice, whose observation is an acquire, or waits for one. -/
def execSuspTag (d a : Reg) (wa : Bool) (s : State) : Out :=
  orLeave (gate [.s a wa] [.s d] (fun s =>
    let tag := bits (s.slot.s a) 15 0
    match takeNotice s.slot.run.off tag s.tile.ctx.mu with
    | some ((len, src), mu) =>
      let s := { s with tile := { s.tile with ctx := { s.tile.ctx with mu := mu } }, slot := { s.slot with snap := [] } }
      writeDone d (descriptor len src tag) s
    | none => leaveSlot 3 1 (d.toNat * 65536 + tag) s)) s

/-- check_own_scratch of spec/02 R34: a window 0x9 pointer to a word of the own tile. -/
def checkOwn (x : Word) (k : State → Out) (s : State) : Out :=
  if win x ≠ 0x9 ∨ !wellFormed s.tiles x 1 then trap .windowRange x s
  else if s.foreign x then trap .foreignWindow x s
  else if x.toNat % 8 ≠ 0 then trap .misaligned x s
  else k s

/-- `susp.full` looks at the full bit of its word as it stands; a hidden entry of the word is not folded first, and so does its
wait (spec/02 R34; spec/07 R133; DESIGN CHOICE: log 66). -/
def execSuspFull (a : Reg) (wa : Bool) (s : State) : Out :=
  orLeave (gate [.s a wa] [] (fun s =>
    let x := s.slot.s a
    checkOwn x (fun s => if s.tile.ctx.full (bits x 19 0) then done s else leaveSlot 3 2 (bits x 19 0) s) s)) s

/-- `susp.chg` reads s[a] and checks it before it reads s[b], as the pseudocode of R34 does; so an empty s[a] with wa = 0 stalls
before an empty s[b] with wb = 1 traps. The word is read, and a hidden entry of it folded, before the loop check, whose trap
leaves the fold (DESIGN CHOICE: log 66). A word that cannot be read traps ECC_UNCORRECTABLE at the instruction (spec/18 R305;
log 55). -/
def execSuspChg (a b : Reg) (wa wb : Bool) (s : State) : Out :=
  orLeave (gate [.s a wa] [] (fun s =>
    let x := s.slot.s a
    checkOwn x (fun s =>
      gate [.s b wb] [] (fun s =>
        let p : Place := ⟨.spad s.cur.tile, bits x 19 0⟩
        if s.unreadable [(p, 8)] then trap .ecc x s
        else
          let (bs, s) := s.readAt p 8
          if leNat bs ≠ (s.slot.s b).toNat then done s else leaveSlot 3 3 p.off s) s) s)) s

/-- A barrier that the slot at hand may use (spec/07 R136, R137). -/
def State.mayUse (s : State) (b : Barrier) : Bool := b.plotWide || b.tile == s.tile.ctx.n

/-- A barrier handle checked, with its barrier (spec/07 R137). -/
def withBarrier (h : Nat) (ok : Barrier → Bool) (k : Barrier → State → Out) (s : State) : Out :=
  withObj h (fun o => o.barrier?.bind fun b => if ok b && s.mayUse b then some b else none) k s

/-- `susp.bar` reads the phase before it leaves: an arrival of its own that is accepted in the drain may complete it. -/
def execSuspBar (a : Reg) (wa : Bool) (s : State) : Out :=
  orLeave (gate [.s a wa] [] (fun s =>
    let h := handleOf (s.slot.s a)
    withBarrier h (fun _ => true) (fun b s => leaveSlot 3 4 (b.phase % 65536 * 2 ^ 32 + h) s) s)) s

/-- A record's operations on an engine that are not complete (spec/07 R151). -/
def Ctx.engineOps (c : Ctx) (owner eng : Nat) : Nat :=
  match eng with
  | 0 => (c.mq.toList.flatMap fun q => q.filter fun x => x.owner == owner).length
  | 1 => (c.ceq.filter fun x => x.owner == owner).length
  | _ => (c.deq.filter fun x => x.owner == owner).length

def execSuspEng (a : Reg) (wa : Bool) (s : State) : Out :=
  orLeave (gate [.s a wa] [] (fun s =>
    let x := s.slot.s a
    if 3 ≤ x.toNat then trap .windowRange x s
    else if s.tile.ctx.engineOps s.slot.run.off x.toNat = 0 then done s
    else leaveSlot 3 5 x.toNat s)) s

def execSuspCall (s : State) : Out :=
  orLeave (fun s => if s.slot.carried.all fun x => x.2 then done s else leaveSlot 3 6 0 s) s

def execSuspTime (a : Reg) (wa : Bool) (s : State) : Out :=
  orLeave (gate [.s a wa] [] (fun s =>
    let t := min (s.slot.s a).toNat (2 ^ 60 - 1)
    if t ≤ s.wafer.time then done s else leaveSlot 3 7 t s)) s

/-- The entries of a message unit without those of a record (spec/02 R35). -/
def dropEntries (owner : Nat) (mu : List MuEntry) : List MuEntry :=
  mu.filter fun e => match e with
    | .posted r .. => r != owner
    | .notice r .. => r != owner

/-- What a retired record leaves behind: its receives and notices are cancelled, and what is still on its way to it is
discarded (spec/02 R35). -/
def State.forget (s : State) (t owner : Nat) : State :=
  let plot := (s.getTile t).ctx.plot.getD 0
  let s := s.onCtx t fun c => { c with mu := dropEntries owner c.mu }
  { s with flights := s.flights.map fun f => if f.of t plot owner then { f with dest := .none } else f }

/-- `retire`: leaves the slot with state 5 (spec/02 R35). -/
def execRetire (s : State) : Out :=
  let r := s.slot.run.off
  match orLeave (leaveSlot 5 0 0) s with
  | .next s' => .next (if s'.slot.mode = .free then s'.forget s'.cur.tile r else s')
  | o => o

/-! ### `spawn`, `wake` and `recp` (spec/02 R36 to R38) -/

/-- A long-latency producer into s1 to s6 is outstanding, calls included. -/
def State.owes (s : State) : Bool := s.flights.any fun f => s.mine f && f.dest.isCarried

def execSpawn (d a b : Reg) (wa wb : Bool) (s : State) : Out :=
  gateC [.s a wa, .s b wb] [.s d] (fun s =>
    let x := s.slot.s a
    let pc := s.slot.s b
    if bits x 63 48 ≠ 0 ∨ s.tiles ≤ bits x 47 32 ∨ bits x 31 4 ≠ 0 then trap .windowRange x s
    else if pc.toNat % 4 ≠ 0 then trap .misaligned pc s
    else if s.owes then stalled s
    else
      let goal := (s.own.map fun p => p.at (bits x 47 32)).getD s.cur.tile
      done (s.send ((s.flight (.s d) .msg true false goal 1 1 x (.spawn (bits x 3 0) pc s.slot.carried)).lasting 0
        (if goal = s.cur.tile then 4 else 0)))) s

def execWake (d a : Reg) (wa : Bool) (s : State) : Out :=
  gateC [.s a wa] [.s d] (fun s =>
    let x := s.slot.s a
    if (win x ≠ 0x9 ∧ win x ≠ 0xA) ∨ !wellFormed s.tiles x 1 then trap .windowRange x s
    else if s.foreign x then trap .foreignWindow x s
    else if x.toNat % 64 ≠ 0 then trap .misaligned x s
    else
      let q := s.placeOf x
      done (s.send (s.flight (.s d) .msg true false (q.tile s.cur.tile) 1 1 x (.wake q.off)))) s

def execRecp (d : Reg) (s : State) : Out :=
  gate [] [.s d] (fun s => writeDone d (ptr9 s.tile.ctx.n s.slot.run.off) s) s

end Sys2Proof.Machine
end

