-- ==== Sys2Proof/Machine/Message.lean ====
section
/-!
DEFINITION. Sys2Proof/Machine/Message.lean: barriers and messages at issue, majors 0x1B and 0x1C (spec/07 R136 to
R145, R341), with the operations of the barrier and of the message unit that other steps share.
-/
namespace Sys2Proof.Machine

/-! ### Barriers (spec/07 R136, R138) -/

/-- Phase p has completed (spec/07 R136). -/
def Barrier.completed (b : Barrier) (p : Nat) : Bool :=
  let d := (b.phase + 2 ^ 32 - p % 2 ^ 32) % 2 ^ 32
  decide (1 ≤ d ∧ d ≤ 2 ^ 31)

/-- The status word of barrier instructions (spec/07 R136). -/
def barStatus (done fault : Bool) (arrived phase : Nat) : Nat :=
  done.toNat * 2 ^ 63 + fault.toNat * 2 ^ 62 + arrived % 65536 * 2 ^ 32 + phase % 2 ^ 32

/-- An arrival applied as one step: its status and the barrier; none where EXPECT is 0 (spec/07 R138). -/
def Barrier.arrive (b : Barrier) (now : Nat) (drop faulted : Bool) : Option (Nat × Barrier) :=
  if b.expect = 0 then none
  else
    let arrived := b.arrived + 1
    let drops := if drop then b.drops + 1 else b.drops
    let fault := b.fault || faulted
    if arrived = b.expect then
      let (expect, fault) := match b.pending with
        | some n => (n, false)
        | none => (b.expect - drops, fault)
      some (barStatus true fault 0 b.phase,
        { b with
          phase := (b.phase + 1) % 2 ^ 32, arrived := 0, expect := expect, fault := fault, pending := none, drops := 0
          doneAt := (b.phase, now) :: b.doneAt.filter fun x => decide (now < x.2 + 2048) })
    else some (barStatus false fault arrived b.phase, { b with arrived := arrived, drops := drops, fault := fault })

/-- `bini` at the barrier (spec/07 R138). -/
def Barrier.set (b : Barrier) (n : Nat) : Barrier :=
  if b.arrived = 0 then { b with expect := n, drops := 0, pending := none, fault := false } else { b with pending := some n }

/-- The plot of the slot at hand with an object replaced. -/
def State.putObj (s : State) (h : Nat) (o : Obj) : State :=
  match s.own with
  | some p => s.setPlot (p.put h o)
  | none => s

/-- Dp: the cycles to a plot barrier of a plumb plot, and from it; none to a tile barrier, and no fixed ones in an
elastic plot (spec/16 R277). -/
def State.barDelay (s : State) (b : Barrier) : Nat :=
  match s.own with
  | some p => if b.plotWide && p.plumb then 4 * (p.w + p.h) else 0
  | none => 0

/-- What a slot sends to a barrier: applied 2 cycles after it issues, its status in the slot 2 cycles after that, and
Dp more each way (spec/03 R340; spec/15 R261; spec/16 R277). -/
def State.toBarrier (s : State) (b : Barrier) (dest : Dest) (rel acq : Bool) (h : Nat) (req : Req) : State :=
  s.send ((s.flight dest .none rel acq s.cur.tile 5 1 (BitVec.ofNat 64 h) req).lasting (2 + s.barDelay b)
    (4 + 2 * s.barDelay b))

def execBini (a b : Reg) (wa wb : Bool) (s : State) : Out :=
  gate [.s a wa, .s b wb] [] (fun s =>
    let n := (s.slot.s b).toNat
    let h := handleOf (s.slot.s a)
    if 65536 ≤ n ∨ n = 0 then trap .windowRange (s.slot.s b) s
    else withBarrier h (fun _ => true) (fun bar s => done (s.toBarrier bar .none false false h (.bini h n))) s) s

/-- An arrival of the slot at hand: a release, whose result may be an acquire (spec/07 R140, spec/08 R160). -/
def arrive (ok : Barrier → Bool) (drop : Bool) (d a : Reg) (wa : Bool) (s : State) : Out :=
  gate [.s a wa] [.s d] (fun s =>
    let h := handleOf (s.slot.s a)
    withBarrier h ok (fun bar s => done (s.toBarrier bar (.s d) true true h (.arrive h drop false false))) s) s

def execBarv (d a : Reg) (wa : Bool) (s : State) : Out := arrive (fun b => !b.plotWide) false d a wa s
def execBard (d a : Reg) (wa : Bool) (s : State) : Out := arrive (fun _ => true) true d a wa s
def execPbarv (d a : Reg) (wa : Bool) (s : State) : Out := arrive (fun b => b.plotWide) false d a wa s

/-- The cycle in which a `bwait` for a phase that issued in cycle `beg` delivers: 3 cycles after it issues, or after the
completion of the phase reaches the tile (spec/15 R261; spec/16 R277). -/
def State.bwaitAt (s : State) (b : Barrier) (beg p : Nat) : Nat :=
  let fixed := !b.plotWide || (s.own.map Plot.plumb).getD false
  let reached := if fixed then ((b.doneAt.find? fun x => x.1 == p).map fun x => x.2 + s.barDelay b).getD 0 else 0
  max beg reached + 3

/-- A `bwait` that has stalled delivers its result in place: it takes no issue of the core, so that all of one phase deliver
in one cycle, and the slot issues again in the next (spec/15 R261). -/
def State.inPlace (s s' : State) : State :=
  if s.slot.waitFrom.isSome then { s' with slot := { s'.slot with held := true, notBefore := s.now + 1 } } else s'

/-- `bwait` stalls until the phase has completed; its completion is an acquire. -/
def execBwait (d a b : Reg) (wa wb : Bool) (s : State) : Out :=
  gate [.s a wa, .s b wb] [.s d] (fun s =>
    let h := handleOf (s.slot.s a)
    let p := bits (s.slot.s b) 31 0
    withBarrier h (fun _ => true) (fun bar s =>
      if bar.completed p && decide (s.bwaitAt bar s.waitStart p ≤ s.now) then
        .next (s.inPlace ({ s with slot := { s.slot.write d (BitVec.ofNat 64 (barStatus true bar.fault bar.arrived p)) with
          snap := [] } } : State).advance)
      else waiting { s with slot := { s.slot with bwait := some (h, p) } }) s) s

def execBtst (d a b : Reg) (wa wb : Bool) (s : State) : Out :=
  gate [.s a wa, .s b wb] [.s d] (fun s =>
    let h := handleOf (s.slot.s a)
    let p := bits (s.slot.s b) 31 0
    withBarrier h (fun _ => true) (fun bar s =>
      done (s.toBarrier bar (.s d) false true h (.btst h p))) s) s

/-! ### The message unit (spec/07 R141, R143) -/

/-- A key matches a source and tag: its tag, and its source unless ANY. -/
def keyMatches (any : Bool) (ksrc ktag src tag : Nat) : Bool := ktag == tag && (any || ksrc == src)

/-- A payload deposited at an offset of a tile (spec/07 R143). -/
def State.deposit (s : State) (t buf : Nat) (data : List Byte) : State := s.writeAt ⟨.spad t, buf⟩ data

/-- The first lees entry that a key matches, with its place. -/
def findLees (any : Bool) (src tag : Nat) (ls : List Lees) : Option (Nat × Lees) :=
  ls.zipIdx.findSome? fun (l, i) => if keyMatches any src tag l.src l.tag then some (i, l) else none

/-- The oldest posted receive that matches an arrival, with its place. -/
def findPosted (src tag : Nat) (mu : List MuEntry) : Option (Nat × Nat × Nat) :=
  mu.zipIdx.findSome? fun (e, i) =>
    match e with
    | .posted r buf any ks kt => if keyMatches any ks kt src tag then some (i, r, buf) else none
    | .notice .. => none

/-- A notice made for a record: a record that waits for its tag consumes it at once and becomes ready, the descriptor
in the carried word that its wait names (spec/02 R22, R23, R34). -/
def State.notify (s : State) (t owner src tag len : Nat) (mu : List MuEntry) : State :=
  let c := (s.getTile t).ctx
  let h := Memory.word c.spad (owner + 8)
  match c.waits.find? fun w => w.off == owner with
  | some w =>
    if h / 2 ^ 60 = 1 ∧ h % 65536 = tag then
      let r := h / 65536 % 8
      let s := s.onCtx t fun c =>
        let c := { c with mu := mu }
        if r = 0 then c
        else (c.putWord (owner + 8 + 8 * r) (descriptor len src tag).toNat).setFull (owner + 8 + 8 * r) true
      s.makeReady t w.queue w.index owner
    else s.onCtx t fun c => { c with mu := mu ++ [.notice owner src tag len] }
  | none => s.onCtx t fun c => { c with mu := mu ++ [.notice owner src tag len] }

/-! ### Sends (spec/07 R142, spec/17 R284) -/

/-- The position of the n-th non-hole place of columns X0 to X0 + W − 1 from row y on, `k` rows deep. -/
def scanRows (x0 w : Nat) : Nat → Nat → Nat → Option Nat
  | 0, _, _ => none
  | k + 1, y, n =>
    let row := rectTiles x0 y w 1
    if n < row.length then row[n]? else scanRows x0 w k (y + 1) (n - row.length)

/-- The position that a send's destination names, inside the plot or past it (spec/17 R284). -/
def Plot.position (p : Plot) (n : Nat) : Option Nat :=
  if n < p.count then some (p.at n) else scanRows p.x0 p.w (138 - (p.y0 + p.h)) (p.y0 + p.h) (n - p.count)

/-- A message sent as TAG traffic; the slot waits at the send for the answer. Outside the plot it takes the escape
route (spec/17 R285). -/
def sendMsg (dst tag : Nat) (data : List Byte) (s : State) : Out :=
  let pos := s.own.bind fun p => p.position dst
  let inside := (s.own.map fun p => decide (dst < p.count)).getD false
  let f := s.flight .none .msg true false (pos.getD s.cur.tile) 0 (flitsOf data.length) 0
    (.msg s.tile.ctx.n dst tag data)
  let f := { f with pkt := { f.pkt with nowhere := pos.isNone, esc := !inside } }
  let s := s.send f
  .next { s with slot := { s.slot with mode := .sendWait, stallFrom := none } }

/-- A send is a release: it is sent once the slot's earlier writes are acknowledged. -/
def released (k : State → Out) (s : State) : Out := if s.outstanding [.st, .fe, .amo] then stalled s else k s

/-- The payload of a send is read at its issue, once every bank that holds it is free (spec/06 R96; spec/07 R142). Bytes that
cannot be read trap ECC_UNCORRECTABLE at the send, with its source pointer (spec/18 R305; log 55). -/
def sendFrom (p : Word) (n dst tag : Nat) (s : State) : Out :=
  let q := s.placeOf p
  if s.unreadable [(q, n)] then trap .ecc p s
  else if !s.banksFree [(q, n)] then stalled s
  else
    let (bs, s) := (s.takeBanks [(q, n)]).readAt q n
    sendMsg dst tag bs s

/-- The destination, then the tag word, then the source pointer: the order in which several values out of range are
reported (DESIGN CHOICE: log 59). -/
def execSend (d a b : Reg) (wa wb : Bool) (s : State) : Out :=
  gateC [.s a wa, .s b wb, .s d false] [] (fun s =>
    let x := s.slot.s a
    let w := s.slot.s b
    let p := s.slot.s d
    let n := 8 * (bits w 21 16 + 1)
    if bits x 63 16 ≠ 0 then trap .windowRange x s
    else if bits w 63 22 ≠ 0 then trap .windowRange w s
    else if !wellFormed s.tiles p n || (win p != 0x9 && !s.ownSpad p) then trap .windowRange p s
    else checkPtr p n 8 false (released (sendFrom p n (bits x 15 0) (bits w 15 0))) s) s

def execSendv (v : VNum) (a b : Reg) (wa wb : Bool) (s : State) : Out :=
  gateC [.s a wa, .s b wb, .v v] [] (fun s =>
    let x := s.slot.s a
    if bits x 63 16 ≠ 0 then trap .windowRange x s
    else released (fun s => sendMsg (bits x 15 0) (bits (s.slot.s b) 15 0) (leBytes 512 (s.slot.v v).toNat) s) s) s

/-! ### Receives (spec/07 R143, R144) -/

/-- A buffer pointer is in range: window 0x9, or window 0xA naming the own tile, from 0x8_0000 to 0xF_FE00. -/
def bufInRange (s : State) (p : Word) : Bool :=
  wellFormed s.tiles p 1 && (win p == 0x9 || (win p == 0xA && bits p 47 32 == s.tile.ctx.n))
    && decide (0x80000 ≤ bits p 19 0 ∧ bits p 19 0 ≤ 0xFFE00)

/-- The checks of a buffer pointer and of a key (spec/07 R141). Where both are out of range the pointer's value is reported
(DESIGN CHOICE: log 59). -/
def checkBuf (p : Word) (key : Option Word) (k : State → Out) (s : State) : Out :=
  if !bufInRange s p then trap .windowRange p s
  else
    match key.filter fun x => bits x 63 33 != 0 with
    | some x => trap .windowRange x s
    | none =>
      if s.foreign p then trap .foreignWindow p s
      else if p.toNat % 8 ≠ 0 then trap .misaligned p s
      else k s

/-- An access of the running record to some word of ranges has not been applied (spec/07 R119; spec/08 R153). -/
def State.touching (s : State) (ps : List (Place × Nat)) : Bool :=
  s.flights.any fun f => s.mine f && f.waiting && f.req.ranges.any fun a => ps.any fun b => sameWord a b

/-- A `post` cannot deposit yet: a lease holds it off, an earlier access of its record to a word of the buffer is still on its
way, or a bank is not free (spec/06 R96; spec/07 R119, R120). -/
def State.depositWaits (s : State) (p : Place) (n : Nat) : Bool :=
  s.leased p n || s.touching [(p, n)] || !s.banksFree [(p, n)]

/-- `post` takes the oldest entry that its key matches, or becomes a posted receive (spec/07 R143). The deposit is the message
unit's: bytes that a load of the phase has fixed stay as they are (DESIGN CHOICE: log 61), and it does not wait behind the
record's pending releases (DESIGN CHOICE: log 80). -/
def execPost (a b : Reg) (wa wb : Bool) (s : State) : Out :=
  gateC [.s a wa, .s b wb] [] (fun s =>
    let p := s.slot.s a
    let key := s.slot.s b
    checkBuf p (some key) (fun s =>
      let mu := s.tile.ctx.mu
      let any := bits key 32 32 == 1
      let buf := bits p 19 0
      let r := s.slot.run.off
      if 128 ≤ mu.length then trap .leesFull 0 s
      else
        match findLees any (bits key 31 16) (bits key 15 0) s.tile.ctx.lees with
        | some (i, l) =>
          let q : Place := ⟨.spad s.cur.tile, buf⟩
          if s.depositWaits q l.data.length then stalled s
          else
            let s := (s.takeBanks [(q, l.data.length)]).deposit s.cur.tile buf l.data
            done { s with tile := { s.tile with ctx := { s.tile.ctx with
              lees := s.tile.ctx.lees.eraseIdx i, mu := mu ++ [.notice r l.src l.tag l.data.length] } } }
        | none =>
          done { s with tile := { s.tile with ctx := { s.tile.ctx with
            mu := mu ++ [.posted r buf any (bits key 31 16) (bits key 15 0)] } } }) s) s

/-- A key operand checked. -/
def checkKey (key : Word) (k : State → Out) (s : State) : Out :=
  if bits key 63 33 ≠ 0 then trap .windowRange key s else k s

def execUnpost (d a : Reg) (wa : Bool) (s : State) : Out :=
  gateC [.s a wa] [.s d] (fun s =>
    let key := s.slot.s a
    checkKey key (fun s =>
      let same : MuEntry → Bool := fun e => match e with
        | .posted r _ any src tag =>
          r == s.slot.run.off && any == (bits key 32 32 == 1) && src == bits key 31 16 && tag == bits key 15 0
        | .notice .. => false
      match s.tile.ctx.mu.findIdx? same with
      | some i =>
        let s := { s with tile := { s.tile with ctx := { s.tile.ctx with mu := s.tile.ctx.mu.eraseIdx i } } }
        done (s.later (.s d) .msg false 1 4)
      | none => done (s.later (.s d) .msg false 0 4)) s) s

def execProbe (d a : Reg) (wa : Bool) (s : State) : Out :=
  gateC [.s a wa] [.s d] (fun s =>
    let key := s.slot.s a
    checkKey key (fun s =>
      match findLees (bits key 32 32 == 1) (bits key 31 16) (bits key 15 0) s.tile.ctx.lees with
      | some (_, l) => done (s.later (.s d) .msg false (descriptor l.data.length l.src l.tag).toNat 4)
      | none => done (s.later (.s d) .msg false 0 4)) s) s

/-- The deposit of `lees.pop` reaches its banks as an access of its own, behind the record's earlier accesses to the buffer;
its result is delivered 6 cycles and one for each line after it issues, and later by what the deposit had to wait (spec/03
R340; spec/07 R119, R144). -/
def execLeesPop (d a : Reg) (wa : Bool) (s : State) : Out :=
  gateC [.s a wa] [.s d] (fun s =>
    let p := s.slot.s a
    checkBuf p none (fun s =>
      match s.tile.ctx.lees with
      | [] => done (s.later (.s d) .msg true 0 4)
      | l :: ls =>
        let q : Place := ⟨.spad s.cur.tile, bits p 19 0⟩
        let n := l.data.length
        if s.ownLease [(q, n)] then stalled s
        else
          let s := { s with tile := { s.tile with ctx := { s.tile.ctx with lees := ls } } }
          done (s.send ((s.flight (.s d) .msg false true s.cur.tile 1 1 p
            (.deposit q l.data (descriptor n l.src l.tag))).lasting 0 (6 + (n + 63) / 64)))) s) s

def execLeesCnt (d : Reg) (s : State) : Out :=
  gateC [] [.s d] (fun s => writeAfter 2 d (BitVec.ofNat 64 s.tile.ctx.lees.length) s) s

/-! ### Multicast stores (spec/07 R145) -/

/-- The place of an offset in pinned pieces. -/
def placeIn : List (Place × Nat) → Nat → Place
  | [], off => ⟨.edge, off⟩
  | (p, n) :: ps, off => if off < n then ⟨p.sp, p.off + off⟩ else placeIn ps (off - n)

/-- The place of a member's word. -/
def Member.word (m : Member) (off : Nat) : Place := placeIn m.ps off

/-- The pointer by which a member's word is reported: a watchpoint's TRAPV (DESIGN CHOICE: log 63). -/
def State.memberPtr (s : State) (p : Place) : Word :=
  match p.sp with
  | .spad t => BitVec.ofNat 64 (10 * 2 ^ 60 + (s.getTile t).ctx.n % 65536 * 2 ^ 32 + p.off % 2 ^ 20)
  | _ => BitVec.ofNat 64 p.off

/-- The plot on whose tile a member lies: the own one, or the owner of a granted window (spec/18 R296). -/
def State.memberPlot (s : State) (m : Member) : Option Nat :=
  match m.grant with
  | none => s.tile.ctx.plot
  | some (_, owner) => some owner

/-- A member's word lies in record memory. -/
def State.guardedWord (s : State) (m : Member) (off : Nat) : Bool :=
  ((s.memberPlot m).bind fun k => s.recordHit k (m.word off) 8).isSome

/-- A multicast store is a write of class st to every member: the first member whose word a watchpoint of the core
watches (spec/18 R302). -/
def State.memberWatched (s : State) (off : Nat) (ms : List Member) : Option Word :=
  (ms.filter fun m => m.away.isNone).findSome? fun m =>
    let q := m.word off
    (s.watchedPlaces [(0, q, 8)] false true).map fun d => s.memberPtr ⟨q.sp, q.off + d⟩

/-- The store of one member sent: to its place, or by the Trellis port to the device that holds it (spec/19 R324). -/
def State.sendMember (s : State) (m : Member) (off : Nat) (x : Word) : State :=
  let q := m.word off
  match m.away with
  | some (dev, va) => s.send (s.flight .none .st false false s.cur.tile 1 1 (BitVec.ofNat 64 (va + off)) (.away dev (va + off) x))
  | none => s.send (s.flight .none .st false false (q.tile s.cur.tile) 1 1 (s.memberPtr q) (.member q x m.grant))

def execMcst (d a b : Reg) (wa wb : Bool) (s : State) : Out :=
  gateC [.s a wa, .s b wb, .s d false] [] (fun s =>
    let h := handleOf (s.slot.s a)
    let off := (s.slot.s d).toNat
    if off % 8 ≠ 0 then trap .windowRange (s.slot.s d) s
    else
      withObj h Obj.replica? (fun (len, ms) s =>
        if len ≤ off then trap .windowRange (s.slot.s d) s
        else
          match ms.find? fun m => s.guardedWord m off with
          | some m => trap .protection (s.memberPtr (m.word off)) s
          | none =>
            match s.memberWatched off ms with
            | some p => .next (s.takeTrapWith .breakpoint p s.slot.ir true)
            | none =>
              if s.ownLease ((ms.filter fun m => m.away.isNone).map fun m => (m.word off, 8)) then stalled s
              else
                done (ms.foldl (fun s m => s.sendMember m off (s.slot.s b)) s)) s) s

end Sys2Proof.Machine
end

