-- ==== Sys2Proof/Machine/Scalar.lean ====
section
/-!
DEFINITION. Sys2Proof/Machine/Scalar.lean: the integer, immediate, address and window instructions, majors 0x01 to
0x0A (spec/04 R63 to R70, spec/06 R98 to R101). None sets a STATUS flag.
-/
namespace Sys2Proof.Machine

/-! ### Shared forms -/

/-- sD := f(s[a], s[b]) (spec/04 R64). -/
def alu2 (d a b : Reg) (wa wb : Bool) (f : Word → Word → Word) (s : State) : Out :=
  gate [.s a wa, .s b wb] [.s d] (fun s => writeDone d (f (s.slot.s a) (s.slot.s b)) s) s

/-- sD := f(s[a]) (spec/04 R64, R66 to R69). -/
def alu1 (d a : Reg) (wa : Bool) (f : Word → Word) (s : State) : Out :=
  gate [.s a wa] [.s d] (fun s => writeDone d (f (s.slot.s a)) s) s

/-- A product: pipelined, with a result latency of 3 (spec/04 R86). -/
def mul2 (d a b : Reg) (wa wb : Bool) (f : Word → Word → Word) (s : State) : Out :=
  gate [.s a wa, .s b wb] [.s d] (fun s => writeAfter 3 d (f (s.slot.s a) (s.slot.s b)) s) s

/-- The divider of a core taken for 34 cycles. -/
def State.divide (s : State) : State :=
  { s with tile := { s.tile with ctx := { s.tile.ctx with divAt := vset s.tile.ctx.divAt s.cur.core (s.now + 34) } } }

/-- A quotient or remainder: one divider for each core, and a result latency of 34 (spec/04 R86). -/
def div2 (d a b : Reg) (wa wb : Bool) (f : Word → Word → Word) (s : State) : Out :=
  gate [.s a wa, .s b wb] [.s d] (fun s =>
    if s.now < vget s.tile.ctx.divAt s.cur.core 0 then stalled s
    else writeAfter 34 d (f (s.slot.s a) (s.slot.s b)) s.divide) s

/-! ### The results of major 0x01 (spec/04 R65) -/

/-- The high half of the signed product. -/
def mulhS (x y : Word) : Word := BitVec.ofInt 64 (x.toInt * y.toInt / 2 ^ 64)
/-- The high half of the unsigned product. -/
def mulhU (x y : Word) : Word := BitVec.ofNat 64 (x.toNat * y.toNat / 2 ^ 64)
/-- The signed quotient, truncated toward zero. -/
def divS (x y : Word) : Word :=
  if y = 0 then BitVec.allOnes 64 else BitVec.ofInt 64 (Int.tdiv x.toInt y.toInt)
/-- The signed remainder, with the sign of x. -/
def remS (x y : Word) : Word := if y = 0 then x else BitVec.ofInt 64 (Int.tmod x.toInt y.toInt)
/-- The unsigned quotient. -/
def divU (x y : Word) : Word := if y = 0 then BitVec.allOnes 64 else BitVec.ofNat 64 (x.toNat / y.toNat)
/-- The unsigned remainder. -/
def remU (x y : Word) : Word := if y = 0 then x else BitVec.ofNat 64 (x.toNat % y.toNat)
/-- y[5:0]. -/
def sh (y : Word) : Nat := y.toNat % 64
/-- Rotate left. -/
def rolW (x : Word) (n : Nat) : Word := x <<< n ||| x >>> (64 - n)
/-- Rotate right. -/
def rorW (x : Word) (n : Nat) : Word := x >>> n ||| x <<< (64 - n)
/-- Leading zero bits. -/
def clzW (x : Word) : Word := BitVec.ofNat 64 (if x = 0 then 64 else 63 - Nat.log2 x.toNat)
/-- Trailing zero bits: the lowest set bit is x and −x. -/
def ctzW (x : Word) : Word := BitVec.ofNat 64 (if x = 0 then 64 else Nat.log2 (x &&& -x).toNat)
/-- One bits. -/
def popW (x : Word) : Word := BitVec.ofNat 64 (((List.range 64).filter fun i => x.getLsbD i).length)
/-- The low n bits sign-extended; n = 0 means 64. -/
def sxW (x : Word) (n : Nat) : Word :=
  if n = 0 then x
  else
    let l := x.toNat % 2 ^ n
    BitVec.ofNat 64 (if 2 ^ (n - 1) ≤ l then 2 ^ 64 - 2 ^ n + l else l)
/-- The low n bits zero-extended; n = 0 means 64. -/
def zxW (x : Word) (n : Nat) : Word := if n = 0 then x else BitVec.ofNat 64 (x.toNat % 2 ^ n)
/-- 1 or 0. -/
def boolW (b : Bool) : Word := if b then 1 else 0

/-! ### Major 0x01 -/

def execAdd (d a b : Reg) (wa wb : Bool) (s : State) : Out := alu2 d a b wa wb (fun x y => x + y) s
def execSub (d a b : Reg) (wa wb : Bool) (s : State) : Out := alu2 d a b wa wb (fun x y => x - y) s
def execMul (d a b : Reg) (wa wb : Bool) (s : State) : Out := mul2 d a b wa wb (fun x y => x * y) s
def execMulh (d a b : Reg) (wa wb : Bool) (s : State) : Out := mul2 d a b wa wb mulhS s
def execMulhn (d a b : Reg) (wa wb : Bool) (s : State) : Out := mul2 d a b wa wb mulhU s
def execDiv (d a b : Reg) (wa wb : Bool) (s : State) : Out := div2 d a b wa wb divS s
def execDivn (d a b : Reg) (wa wb : Bool) (s : State) : Out := div2 d a b wa wb divU s
def execRem (d a b : Reg) (wa wb : Bool) (s : State) : Out := div2 d a b wa wb remS s
def execRemn (d a b : Reg) (wa wb : Bool) (s : State) : Out := div2 d a b wa wb remU s
def execAnd (d a b : Reg) (wa wb : Bool) (s : State) : Out := alu2 d a b wa wb (fun x y => x &&& y) s
def execOr (d a b : Reg) (wa wb : Bool) (s : State) : Out := alu2 d a b wa wb (fun x y => x ||| y) s
def execXor (d a b : Reg) (wa wb : Bool) (s : State) : Out := alu2 d a b wa wb (fun x y => x ^^^ y) s
def execAndn (d a b : Reg) (wa wb : Bool) (s : State) : Out := alu2 d a b wa wb (fun x y => x &&& ~~~y) s
def execOrn (d a b : Reg) (wa wb : Bool) (s : State) : Out := alu2 d a b wa wb (fun x y => x ||| ~~~y) s
def execShl (d a b : Reg) (wa wb : Bool) (s : State) : Out := alu2 d a b wa wb (fun x y => x <<< sh y) s
def execShr (d a b : Reg) (wa wb : Bool) (s : State) : Out := alu2 d a b wa wb (fun x y => x >>> sh y) s
def execSra (d a b : Reg) (wa wb : Bool) (s : State) : Out := alu2 d a b wa wb (fun x y => x.sshiftRight (sh y)) s
def execRol (d a b : Reg) (wa wb : Bool) (s : State) : Out := alu2 d a b wa wb (fun x y => rolW x (sh y)) s
def execRor (d a b : Reg) (wa wb : Bool) (s : State) : Out := alu2 d a b wa wb (fun x y => rorW x (sh y)) s
def execClz (d a : Reg) (wa : Bool) (s : State) : Out := alu1 d a wa clzW s
def execCtz (d a : Reg) (wa : Bool) (s : State) : Out := alu1 d a wa ctzW s
def execPopc (d a : Reg) (wa : Bool) (s : State) : Out := alu1 d a wa popW s
def execMin (d a b : Reg) (wa wb : Bool) (s : State) : Out := alu2 d a b wa wb (fun x y => if x.toInt ≤ y.toInt then x else y) s
def execMax (d a b : Reg) (wa wb : Bool) (s : State) : Out := alu2 d a b wa wb (fun x y => if y.toInt ≤ x.toInt then x else y) s
def execMinn (d a b : Reg) (wa wb : Bool) (s : State) : Out := alu2 d a b wa wb (fun x y => if x.toNat ≤ y.toNat then x else y) s
def execMaxn (d a b : Reg) (wa wb : Bool) (s : State) : Out := alu2 d a b wa wb (fun x y => if y.toNat ≤ x.toNat then x else y) s
def execSext (d a b : Reg) (wa wb : Bool) (s : State) : Out := alu2 d a b wa wb (fun x y => sxW x (sh y)) s
def execZext (d a b : Reg) (wa wb : Bool) (s : State) : Out := alu2 d a b wa wb (fun x y => zxW x (sh y)) s
def execSlt (d a b : Reg) (wa wb : Bool) (s : State) : Out := alu2 d a b wa wb (fun x y => boolW (x.toInt < y.toInt)) s
def execSltn (d a b : Reg) (wa wb : Bool) (s : State) : Out := alu2 d a b wa wb (fun x y => boolW (x.toNat < y.toNat)) s
def execSeq (d a b : Reg) (wa wb : Bool) (s : State) : Out := alu2 d a b wa wb (fun x y => boolW (x = y)) s
def execSne (d a b : Reg) (wa wb : Bool) (s : State) : Out := alu2 d a b wa wb (fun x y => boolW (x ≠ y)) s

/-! ### Immediates, majors 0x02 to 0x08 (spec/04 R66 to R69) -/

def execAddi (d a : Reg) (imm : BitVec 15) (wa : Bool) (s : State) : Out := alu1 d a wa (fun x => x + imm.signExtend 64) s
def execAndi (d a : Reg) (imm : BitVec 15) (wa : Bool) (s : State) : Out := alu1 d a wa (fun x => x &&& imm.signExtend 64) s
def execOri (d a : Reg) (imm : BitVec 15) (wa : Bool) (s : State) : Out := alu1 d a wa (fun x => x ||| imm.signExtend 64) s
def execXori (d a : Reg) (imm : BitVec 15) (wa : Bool) (s : State) : Out := alu1 d a wa (fun x => x ^^^ imm.signExtend 64) s
def execShli (d a : Reg) (n : BitVec 6) (wa : Bool) (s : State) : Out := alu1 d a wa (fun x => x <<< n.toNat) s
def execShri (d a : Reg) (n : BitVec 6) (wa : Bool) (s : State) : Out := alu1 d a wa (fun x => x >>> n.toNat) s
def execSrai (d a : Reg) (n : BitVec 6) (wa : Bool) (s : State) : Out := alu1 d a wa (fun x => x.sshiftRight n.toNat) s
def execSlti (d a : Reg) (imm : BitVec 14) (wa : Bool) (s : State) : Out := alu1 d a wa (fun x => boolW (x.toInt < imm.toInt)) s
def execSltni (d a : Reg) (imm : BitVec 14) (wa : Bool) (s : State) : Out := alu1 d a wa (fun x => boolW (x.toNat < imm.toNat)) s
def execLih (d a : Reg) (imm : BitVec 15) (wa : Bool) (s : State) : Out := alu1 d a wa (fun x => x + (imm.signExtend 64 <<< 49)) s

/-! ### `lea` (spec/03 R51, spec/04 R70) -/

/-- The PC with bits [2:0] cleared, plus off × 8, plus 4 where h is set. -/
def leaAt (pc : Word) (h : Bool) (off : BitVec 18) : Word :=
  BitVec.ofNat 64 (pc.toNat / 8 * 8) + (off.signExtend 64 <<< 3) + (if h then 4 else 0)

/-- No page is looked at: spec/04 R70 says that `lea` makes no access and traps only ILLEGAL, where spec/03 R51 gives it the
page checks of `ldl` (DESIGN CHOICE: log 62). -/
def execLea (d : Reg) (h : Bool) (off : BitVec 18) (s : State) : Out :=
  gate [] [.s d] (fun s => writeDone d (leaAt s.slot.pc h off) s) s

/-! ### Windows, major 0x0A (spec/06 R98 to R101) -/

/-- The classification of a pointer (spec/06 R99). -/
def winqW (s : State) (p : Word) : Word :=
  let w := win p
  let well := wellFormed s.tiles p 1
  let write := w == 0x0 || w == 0x8 || w == 0x9 || w == 0xA
  let remote := well && (w == 0xA || w == 0xB) && bits p 47 32 != s.tile.ctx.n
  let here := well && !s.foreign p
  BitVec.ofNat 64 (write.toNat * 128 + remote.toNat * 64 + here.toNat * 32 + well.toNat * 16 + w)

def execWinq (d a : Reg) (wa : Bool) (s : State) : Out :=
  gate [.s a wa] [.s d] (fun s => writeDone d (winqW s (s.slot.s a)) s) s

/-- `winc`: the same byte under window 9 or 10 (spec/06 R100). -/
def winc (goal : Nat) (d a : Reg) (s : State) : Out :=
  let x := s.slot.s a
  let w := win x
  if !wellFormed s.tiles x 1 then trap .windowRange x s
  else if w = 0x8 then
    if s.foreign x then trap .foreignWindow x s
    else writeDone d (BitVec.ofNat 64 (goal * 2 ^ 60 + s.tile.ctx.n * 2 ^ 32
      + (4 * bits x 35 32 + bits x 31 30) * 0x2000 + bits x 12 0)) s
  else if w = 0x9 ∨ w = 0xA then
    if (w = 0x9 ∨ goal = 9) ∧ bits x 47 32 ≠ s.tile.ctx.n then trap .foreignWindow x s
    else writeDone d (BitVec.ofNat 64 (goal * 2 ^ 60 + bits x 47 32 * 2 ^ 32 + bits x 19 0)) s
  else trap .windowRange x s

def execWincLc (d a : Reg) (wa : Bool) (s : State) : Out := gate [.s a wa] [.s d] (fun s => winc 9 d a s) s
def execWincSh (d a : Reg) (wa : Bool) (s : State) : Out := gate [.s a wa] [.s d] (fun s => winc 10 d a s) s

/-- `addp` (spec/06 R101). -/
def execAddp (d a b : Reg) (wa wb : Bool) (s : State) : Out :=
  gate [.s a wa, .s b wb] [.s d] (fun s =>
    match addOff s.tiles (s.slot.s a) (s.slot.s b).toInt with
    | some p => writeDone d p s
    | none => trap .windowRange (s.slot.s a) s) s

end Sys2Proof.Machine
end

