-- ==== Sys2Proof/Machine/Engines.lean ====
section
/-!
DEFINITION. Sys2Proof/Machine/Engines.lean: engine registers, the issue of copies and decants, vintages, and waiting for
an engine: majors 0x30, 0x33, 0x34 and 0x35 (spec/07 R146 to R148, R151; spec/19 R329 to R336). A command is checked and
queued here; its chunks are other steps.
-/
namespace Sys2Proof.Machine

/-! ### Engine registers (spec/03 R49; spec/07 R146; spec/13 R230) -/

/-- `ecw` writes an engine register of the slot, one of the matrix unit in the core's format context. Reserved bits are kept, so
that `ecr` returns the last value written and a command that reads the register refuses it (spec/07 R146, spec/13 R231), where
spec/00 R4 has reserved bits read as zero (DESIGN CHOICE: log 79). -/
def execEcw (e : Eng) (a : Reg) (n : BitVec 7) (s : State) : Out :=
  gate [.s a false] [] (fun s =>
    let x := s.slot.s a
    match e with
    | .me =>
      done { s with tile := { s.tile with ctx := { s.tile.ctx with
        fctx := vset s.tile.ctx.fctx s.cur.core (vset (vget s.tile.ctx.fctx s.cur.core (Vector.replicate 18 0)) n.toNat x) } } }
    | .ce => done { s with slot := { s.slot with ce := vset s.slot.ce n.toNat x } }
    | .de => done { s with slot := { s.slot with de := vset s.slot.de n.toNat x } }) s

/-- What an engine register holds. -/
def State.engReg (s : State) (e : Eng) (n : Nat) : Word :=
  match e with
  | .me => vget (vget s.tile.ctx.fctx s.cur.core (Vector.replicate 18 0)) n 0
  | .ce => vget s.slot.ce n 0
  | .de => vget s.slot.de n 0

/-- `ecr` returns the last value written, its reserved bits with it (DESIGN CHOICE: log 79). -/
def execEcr (e : Eng) (d : Reg) (n : BitVec 7) (s : State) : Out :=
  gate [] [.s d] (fun s => done (s.later (.s d) .none false (s.engReg e n.toNat).toNat 3)) s

/-! ### Copies (spec/07 R147, R148) -/

/-- The element size of a transpose, 0 for none. -/
def xposeOf (regs : Vector Word 7) : Nat := bits (vget regs 4 0) 1 0

/-- Bytes of a destination row (spec/07 R148, R149). -/
def dstRow (regs : Vector Word 7) : Nat :=
  let x := xposeOf regs
  if x = 0 then (vget regs 0 0).toNat else (vget regs 1 0).toNat * x

/-- Destination rows. -/
def dstRows (regs : Vector Word 7) : Nat :=
  let x := xposeOf regs
  if x = 0 then (vget regs 1 0).toNat else (vget regs 0 0).toNat / x

/-- The extent of the source. -/
def srcExtent (regs : Vector Word 7) : Nat :=
  ((vget regs 1 0).toNat - 1) * (vget regs 2 0).toNat + (vget regs 0 0).toNat

/-- The extent of the destination. -/
def dstExtent (regs : Vector Word 7) : Nat := (dstRows regs - 1) * (vget regs 3 0).toNat + dstRow regs

/-- The first register that R148 refuses, in the order in which the rule names them; of the two conditions that join
registers, the one on LEN and XPOSE reports LEN and the one on ROWS and XPOSE reports ROWS, since the rule says only 'that
register's value' (DESIGN CHOICE: log 21 and log 51). -/
def copyBad (regs : Vector Word 7) : Option Word :=
  let l := (vget regs 0 0).toNat
  let n := (vget regs 1 0).toNat
  let x := xposeOf regs
  if l = 0 ∨ 2 ^ 24 < l then some (vget regs 0 0)
  else if n = 0 ∨ 65536 < n then some (vget regs 1 0)
  else if bits (vget regs 4 0) 63 2 ≠ 0 ∨ x = 3 then some (vget regs 4 0)
  else if x ≠ 0 ∧ l % x ≠ 0 then some (vget regs 0 0)
  else if x ≠ 0 ∧ 2 ^ 24 < n * x then some (vget regs 1 0)
  else none

/-- Region handles checked, in the order destination, source (spec/06 R117). -/
def checkRegions (ws : List Word) (k : State → Out) (s : State) : Out :=
  match ws.find? fun w => (((s.own.bind fun p => p.find (handleOf w)).bind Obj.region?).isNone) with
  | some w => trap .staleHandle (BitVec.ofNat 64 (handleOf w)) s
  | none => k s

/-- A region's length. -/
def State.regionLen (s : State) (w : Word) : Nat :=
  match (s.own.bind fun p => p.find (handleOf w)).bind Obj.region? with
  | some (_, l, _) => l
  | none => 0

/-- An extent that exceeds its region (spec/07 R148). -/
def overRegion (s : State) (w : Word) (n : Nat) : Bool := decide (s.regionLen w < bits w 63 32 + n)

/-- An operand as the engine keeps it. -/
def copyOp (region : Bool) (w : Word) : CopyOp := if region then .region (handleOf w) (bits w 63 32) else .ptr w

/-- A completion-word pointer, 0 or one that passes R93 as an 8-byte write to a scratchpad word; any other traps
WINDOW_RANGE (spec/07 R146, R148). -/
def checkDone (p : Word) (k : State → Out) (s : State) : Out :=
  if p = 0 then k s
  else if (win p ≠ 0x8 ∧ win p ≠ 0x9 ∧ win p ≠ 0xA) ∨ (s.ptrCause p 8 8 false).isSome then trap .windowRange p s
  else k s

/-- A pointer operand checked over its extent, by its first and its last byte (spec/07 R148). -/
def checkExtent (p : Word) (n : Nat) (write : Bool) (k : State → Out) (s : State) : Out :=
  checkEnds p n (fun s => if write ∧ win p = 0xB then trap .caskWrite p s else k s) s

/-- The pointer of a region operand at its offset, where its range is one of the plot's own. -/
def State.regionPtr (s : State) (w : Word) : Option Word :=
  match (s.own.bind fun p => p.find (handleOf w)).bind Obj.region? with
  | some (.ptr p, _, _) => some (plusOff p (bits w 63 32))
  | _ => none

/-- An operand checked over its extent, a region by the pointer of its range; a granted range has none and lies in a
scratchpad (spec/07 R148, spec/18 R296). -/
def checkCopyOp (region : Bool) (w : Word) (n : Nat) (write : Bool) (k : State → Out) (s : State) : Out :=
  if region then
    match s.regionPtr w with
    | some p => checkExtent p n write k s
    | none => k s
  else checkExtent w n write k s

/-- The barrier of a `cpyb` is one that the tile may use. -/
def barrierOk (s : State) (w : Word) : Bool :=
  bits w 63 32 == 0 &&
    match (s.own.bind fun p => p.find (handleOf w)).bind Obj.barrier? with
    | some b => s.mayUse b
    | none => false

/-- THE ISSUE OF A COPY: the checks of R148 in order, then the queue of 32 commands. -/
def copyIssue (dReg sReg bar : Bool) (a b d : Reg) (s : State) : Out :=
  gateC [.s a false, .s b false, .s d false] [] (fun s =>
    let regs := s.slot.ce
    let v := s.slot.s d
    let x := s.slot.s a
    let y := s.slot.s b
    match copyBad regs with
    | some r => trap .windowRange r s
    | none =>
      if bits v 63 63 = 1 then trap .windowRange v s
      else
        checkRegions ((if dReg then [x] else []) ++ if sReg then [y] else []) (fun s =>
          if dReg ∧ overRegion s x (dstExtent regs) then trap .windowRange x s
          else if sReg ∧ overRegion s y (srcExtent regs) then trap .windowRange y s
          else
            checkCopyOp sReg y (srcExtent regs) false (fun s =>
              checkCopyOp dReg x (dstExtent regs) true (fun s =>
                checkDone (vget regs 5 0) (fun s =>
                  if bar ∧ !barrierOk s (vget regs 6 0) then trap .staleHandle (BitVec.ofNat 64 (handleOf (vget regs 6 0))) s
                  else if 32 ≤ s.tile.ctx.ceq.length then stalled s
                  else
                    let c : CopyCmd := ⟨s.cur.core, s.cur.slot, s.slot.run.off, s.stamp, copyOp dReg x, copyOp sReg y, regs, v,
                      bar, 0, .ready, []⟩
                    done { s with tile := { s.tile with ctx := { s.tile.ctx with ceq := s.tile.ctx.ceq ++ [c] } },
                                  stamp := s.stamp + 1 }) s) s) s) s) s

def execCpy (a b d : Reg) (s : State) : Out := copyIssue false false false a b d s
def execCpyHs (a b d : Reg) (s : State) : Out := copyIssue false true false a b d s
def execCpyHd (a b d : Reg) (s : State) : Out := copyIssue true false false a b d s
def execCpyHsd (a b d : Reg) (s : State) : Out := copyIssue true true false a b d s
def execCpyb (a b d : Reg) (s : State) : Out := copyIssue false false true a b d s
def execCpybHs (a b d : Reg) (s : State) : Out := copyIssue false true true a b d s
def execCpybHd (a b d : Reg) (s : State) : Out := copyIssue true false true a b d s
def execCpybHsd (a b d : Reg) (s : State) : Out := copyIssue true true true a b d s

/-! ### Waiting for an engine (spec/07 R151) -/

/-- The number of an engine (spec/03 R49). -/
def engNum : Eng → Nat
  | .me => 0
  | .ce => 1
  | .de => 2

/-- Errors that a record has not yet been told of. -/
def Ctx.errors (c : Ctx) (owner : Nat) (e : Eng) : Nat :=
  ((c.engErrs.find? fun x => x.owner == owner && x.eng == e).map EngErr.n).getD 0

/-- `ewait` stalls until the record's operations have completed; its completion is a join, a refresh point. -/
def execEwait (e : Eng) (d : Reg) (s : State) : Out :=
  gate [] [.s d] (fun s =>
    let c := s.tile.ctx
    if c.engineOps s.slot.run.off (engNum e) ≠ 0 then stalled s
    else
      let n := min (c.errors s.slot.run.off e) 65535
      writeDone d (BitVec.ofNat 64 n)
        { s with
          tile := { s.tile with ctx := { c with engErrs := c.engErrs.filter fun x => !(x.owner == s.slot.run.off && x.eng == e) } }
          slot := { s.slot with snap := [] } }) s

/-- Commands queued or running on an engine, from all slots. -/
def Ctx.queued (c : Ctx) (e : Eng) : Nat :=
  match e with
  | .me => (c.mq.toList.map List.length).sum
  | .ce => c.ceq.length
  | .de => c.deq.length

def execEqry (e : Eng) (d : Reg) (s : State) : Out :=
  gate [] [.s d] (fun s =>
    let c := s.tile.ctx
    done (s.later (.s d) .none false
      (c.queued e % 2 ^ 32 * 2 ^ 32 + c.engineOps s.slot.run.off (engNum e) % 2 ^ 32) 3)) s

/-! ### Vintages (spec/19 R329 to R335) -/

/-- A vintage handle checked. -/
def withVintage (h : Nat) (k : Vintage → State → Out) (s : State) : Out := withObj h Obj.vintage? k s

/-- The first decant register or operand that R333 refuses, before the pointers. -/
def decantBad (tiles : Nat) (regs : Vector Word 6) (v src : Word) : Option Word :=
  let l := (vget regs 0 0).toNat
  let o := (vget regs 1 0).toNat
  let t0 := (vget regs 2 0).toNat
  let nt := (vget regs 3 0).toNat
  let p := (vget regs 4 0).toNat
  if l = 0 ∨ l % 64 ≠ 0 ∨ o % 64 ≠ 0 ∨ 0x200000 < o + l then some (vget regs 0 0)
  else if nt = 0 ∨ tiles < t0 + nt then some (vget regs 3 0)
  else if p % 64 ≠ 0 ∨ 2 ^ 32 ≤ p then some (vget regs 4 0)
  else if bits v 63 63 = 1 then some v
  else if win src ≠ 0 then some src
  else none

/-- The bytes that a decant reads. -/
def decantExtent (regs : Vector Word 6) : Nat :=
  ((vget regs 3 0).toNat - 1) * (vget regs 4 0).toNat + (vget regs 0 0).toNat

/-- `dcnt`: its checks, PEND counted at the plot unit, then the queue of 32 commands (spec/19 R333). -/
def execDcnt (a b d : Reg) (s : State) : Out :=
  gateC [.s a false, .s b false, .s d false] [] (fun s =>
    let regs := s.slot.de
    let v := s.slot.s d
    let src := s.slot.s b
    let h := handleOf (s.slot.s a)
    match decantBad s.tiles regs v src with
    | some r => trap .windowRange r s
    | none =>
      checkEnds src (decantExtent regs) (fun s =>
        checkDone (vget regs 5 0) (fun s =>
          withVintage h (fun vt s =>
            if vt.state ≠ 1 then trap .caskWrite (s.slot.s a) s
            else if 32 ≤ s.tile.ctx.deq.length then stalled s
            else
              let c : DecantCmd := ⟨s.cur.core, s.cur.slot, s.slot.run.off, s.stamp, h, src, regs, v, 0, .ready⟩
              let s := s.putObj h (.vintage { vt with pend := vt.pend + 1 })
              done { s with tile := { s.tile with ctx := { s.tile.ctx with deq := s.tile.ctx.deq ++ [c] } },
                            stamp := s.stamp + 1 }) s) s) s) s

/-- `rack` reaches the plot unit and waits there (spec/19 R334); it is a release (R336). -/
def execRack (d a : Reg) (s : State) : Out :=
  gate [.s a false] [.s d] (fun s =>
    let h := handleOf (s.slot.s a)
    withVintage h (fun _ s =>
      done (s.send (s.flight (.s d) .none true false s.cur.tile 5 1 (BitVec.ofNat 64 h) (.rack h)))) s) s

/-- The current vintage of a plot with its handle. -/
def Plot.current (p : Plot) : Option (Nat × Vintage) :=
  p.handles.findSome? fun e =>
    match e.obj with
    | some (.vintage v) => if v.state = 3 then some (e.handle, v) else none
    | _ => none

/-- The token of a vintage (spec/19 R335). -/
def token (h : Nat) (v : Vintage) : Nat := v.half.toNat * 2 ^ 32 + h % 2 ^ 32

/-- `vntq.bind`: while COUNT is full it is answered RETRY and repeated, and the slot runs on; its result is an acquire (spec/19
R335, R336). -/
def execVntqBind (d : Reg) (s : State) : Out :=
  gate [] [.s d] (fun s =>
    match s.own.bind Plot.current with
    | none => done (s.later (.s d) .none true 0)
    | some (h, v) =>
      if 65535 ≤ v.count then done (s.send { s.flight (.s d) .none false true s.cur.tile 1 1 0 .vbind with st := .retry })
      else done ((s.putObj h (.vintage { v with count := v.count + 1 })).later (.s d) .none true (token h v))) s

/-- `vntq.drop` waits for every earlier access of the slot. -/
def execVntqDrop (a : Reg) (s : State) : Out :=
  gate [.s a false] [] (fun s =>
    let h := handleOf (s.slot.s a)
    withVintage h (fun v s =>
      if s.outstanding fenceAll then stalled s
      else if v.count = 0 then trap .windowRange (s.slot.s a) s
      else
        let n := v.count - 1
        done (s.putObj h (.vintage { v with count := n, state := if v.state = 4 ∧ n = 0 then 2 else v.state }))) s) s

def execVntqCur (d : Reg) (s : State) : Out :=
  gate [] [.s d] (fun s =>
    match s.own.bind Plot.current with
    | none => done (s.later (.s d) .none true 0)
    | some (h, v) => done (s.later (.s d) .none true (token h v))) s

/-- The state word of a vintage (spec/19 R335). -/
def vintageWord (v : Vintage) : Nat :=
  v.state * 2 ^ 60 + v.half.toNat * 2 ^ 48 + v.count % 65536 * 2 ^ 32 + v.pend % 65536 * 2 ^ 16 + min v.errs 65535

def execVntqSt (d a : Reg) (s : State) : Out :=
  gate [.s a false] [.s d] (fun s =>
    withVintage (handleOf (s.slot.s a)) (fun v s => done (s.later (.s d) .none false (vintageWord v))) s) s

end Sys2Proof.Machine
end

