-- ==== Sys2Proof/Machine/Translate.lean ====
section
/-!
DEFINITION. Sys2Proof/Machine/Translate.lean: fault records and batches (spec/06 R112 to R115).
-/
namespace Sys2Proof.Machine

/-! ### Fault records (spec/06 R112, R113) -/

/-- What a fault record says of its access. -/
structure FaultOf where
  unit : Nat
  format : Bool
  level : Nat
  write : Bool
  va : Nat
  deriving DecidableEq, Repr

/-- The four words of a fault record. -/
def faultWords (asid : Nat) (f : FaultOf) (batch seq : Nat) (last : Bool) (source : Word) : Vector Word 4 :=
  #v[BitVec.ofNat 64 (asid % 65536 * 2 ^ 48 + f.unit * 2 ^ 40 + f.format.toNat * 2 ^ 36 + f.level * 2 ^ 33
       + f.write.toNat * 2 ^ 32),
     BitVec.ofNat 64 (f.va % 2 ^ 57),
     BitVec.ofNat 64 (batch % 2 ^ 32 * 2 ^ 32 + seq * 2 ^ 24 + last.toNat * 2 ^ 23),
     source]

/-- The die-relative number of a tile's position (spec/06 R113). -/
def dieTile (t : Nat) : Nat := t / 176 % 23 * 22 + t % 176 % 22

/-- SOURCE of a tile unit: the SLOT value with the die-relative tile. -/
def State.faultSource (s : State) (t queue core slot : Nat) : Word :=
  slotWord (s.getTile t).ctx.n queue core slot ||| BitVec.ofNat 64 (dieTile t * 2 ^ 48)

/-- A fault record enters its ring, or its unit holds it. -/
def State.sendFault (s : State) (die asid : Nat) (r : Vector Word 4) : State :=
  let q := ringOf asid
  s.onDie die fun d =>
    if (vget d.fault q []).length < Config.faultRingSize ∧ ¬ (d.heldFault.any fun h => h.1 == q)
    then { d with fault := vset d.fault q (vget d.fault q [] ++ [r]) }
    else { d with heldFault := d.heldFault ++ [(q, r)] }

/-- A batch of records sent, the last one marked; its number is the die's next. -/
def State.sendBatch (s : State) (die asid : Nat) (source : Word) (fs : List FaultOf) : Nat × State :=
  let b := (s.die die).nextBatch
  let s := s.onDie die fun d => { d with nextBatch := (d.nextBatch + 1) % 2 ^ 32 }
  (b, fs.zipIdx.foldl (fun s (f, i) =>
    s.sendFault die asid (faultWords asid f b i (i + 1 == fs.length) source)) s)

/-- The fault of a walk that found no page. -/
def XOut.fault? (o : XOut) (unit : Nat) (write : Bool) (va : Nat) : Option FaultOf :=
  match o with
  | .absent l => some ⟨unit, false, l, write, va⟩
  | .format l => some ⟨unit, true, l, write, va⟩
  | _ => none

end Sys2Proof.Machine
end

