-- ==== Sys2Proof/Machine/EventsAccess.lean ====
section
/-!
DEFINITION. Sys2Proof/Machine/EventsAccess.lean: what becomes of an access after its issue: applied at a bank or a home
slice, repeated, acknowledged, or delivered; and the refresh windows of the casks (spec/03 R44; spec/06 R103; spec/07
R119, R120, R128, R133, R135; spec/19 R334).
-/
namespace Sys2Proof.Machine

/-- A step about an access in flight; nothing happens where there is none. -/
def onFlight (k : Nat → Flight → State → Out) (s : State) : Out :=
  match s.arg with
  | .flight n =>
    match s.flights[n]? with
    | some f => k n f s
    | none => .next s
  | _ => .next s

/-! ### At the home (spec/07 R119, R120, R128, R133) -/

/-- Requests that a bank or a home slice applies. -/
def Req.atBank : Req → Bool
  | .read .. | .write .. | .fe .. | .member .. | .chunk .. | .fetch .. | .deposit .. | .away .. => true
  | _ => false

/-- The access stands where it lands, its time has come, and its turn among its agent's accesses. -/
def State.landed (s : State) (n : Nat) (f : Flight) : Bool :=
  f.st == .going && decide (f.land ≤ s.clk f.tile) && f.arrived && s.inOrder n f

/-- A literal is read from its instruction line, which is not resident (spec/04 R71, R86). -/
def State.lacksLine (s : State) (f : Flight) : Bool :=
  match f.req with
  | .read _ (.code _) => !s.lineIn f.tile f.ptr
  | _ => false

/-- Some line of an access has its turn now, or it touches none. -/
def State.hasTurn (s : State) (f : Flight) : Bool := f.linesLeft.isEmpty || f.linesLeft.any s.lineFree

/-- The router of the issuing tile sends an access again, to the unit that it was for, in a packet that is injected anew
(spec/06 R94; spec/07 R120; spec/18 R293). -/
def Flight.again (f : Flight) : Flight :=
  { f with
    st := .going
    pkt := { f.sent with
      at_ := f.tile, via := f.tile, esc := false, lane := none, plot := f.plot, unit := f.pkt.unit, src := f.tile * 8 + f.pkt.unit } }

def execBankAccess (s : State) : Out :=
  onFlight (fun n f s =>
    .next (if !f.req.atBank || !s.landed n f then s
      else if !s.present f then s.retry n f
      else if s.lacksLine f || !s.hasTurn f then s
      else
        let f := f.met (s.clk f.tile)
        let (ls, s) := s.serveLines f.linesLeft
        (s.setFlight n f).applyAccess n f ls)) s

def execAccessRetry (s : State) : Out :=
  onFlight (fun n f s => .next (if f.st = .retry ∧ f.arrived then s.setFlight n f.again else s)) s

/-- The tile of a scratchpad place holds the plot; other places always do. -/
def State.placeHeld (s : State) (p : Place) (plot : Nat) : Bool :=
  match p.sp with
  | .spad t => s.holds t plot
  | _ => true

/-- The home device of a system-scope atomic, where it is another one (spec/19 R324). -/
def State.elsewhere (s : State) (f : Flight) (sc : AccScope) : Option Nat :=
  if sc = .system then
    (s.wafer.sysRanges.find? fun r =>
      r.asid == s.asidOf f && decide (r.va ≤ bits f.ptr 56 0 ∧ bits f.ptr 56 0 < r.va + r.len)
        && r.home != s.wafer.deviceId).map SysRange.home
  else none

/-- The step of an atomic applied at its word: the old value and the flags, with the machine. One whose word another device
holds is sent to that device's Trellis port. The memory of another device is not this machine's: the old value is free there
(log 6). -/
def State.applyAmo (s : State) (f : Flight) (op : AmoOp) (ty : AmoTy) (sc : AccScope) (p : Place) (x cmp : Word) :
    Nat × Nat × State :=
  let k := 2 ^ (8 * ty.size)
  match s.elsewhere f sc with
  | some dev =>
    let old := (Config.freeValue s.free).toNat % k
    (old, (amoStep op ty old (x.toNat % k) (cmp.toNat % k)).2,
      ({ s with free := s.free + 1 } : State).report (.atomic dev op ty (s.asidOf f) (bits f.ptr 56 0) x cmp))
  | none =>
    let (bs, s) := s.readAt p ty.size
    let old := leNat bs
    let (m, flags) := amoStep op ty old (x.toNat % k) (cmp.toNat % k)
    let new := leBytes ty.size m
    let l := s.runner f
    let s := s.writeAt p new
    (old, flags, match l with
      | some l => s.onSlot l fun y => y.ownWrite p (s.kept p new)
      | none => s)

/-- A plot unit that executes an atomic at a bank of another tile sends it there in a FWD packet of its own, which locks the
word for the read-modify-write (spec/07 R128; spec/18 R290, R291). -/
def State.forward (s : State) (f : Flight) (t : Nat) : Flight :=
  { f with pkt := { s.packet f.pkt.at_ t 2 1 4 with unit := f.pkt.unit } }

/-- An atomic whose read-modify-write has been made answers from where it executes: the plot unit for one that it had
sent on. -/
def Flight.backAtUnit (f : Flight) : Flight :=
  if f.pkt.rank = 2 then { f with pkt := { f.pkt with to_ := f.pkt.src / 8 } } else f

/-- An access of a peer device translated through the cache of the network port, whose fault record names unit 4; the
cellar of die 0 serves the port (spec/06 R110, R113; spec/19 R324; log 30). -/
def State.peerPlace (s : State) (r : PeerRequest) : Option Place × State :=
  let tlb := ((s.wafer.netTlb.find? fun x => x.1 == r.port).map Prod.snd).getD []
  let (o, tlb, s) := s.viaCache tlb r.asid r.va .write
  let s := { s with wafer := { s.wafer with netTlb := (r.port, tlb) :: s.wafer.netTlb.filter fun x => x.1 != r.port } }
  match o with
  | .ok e => if e.kind = 0 then (some (e.place r.va), s) else (none, s.report (.trellis none))
  | o =>
    match o.fault? 4 true r.va with
    | some f =>
      let (b, s) := s.sendBatch 0 r.asid (BitVec.ofNat 64 r.port) [f]
      (none, { s with wafer := { s.wafer with heldPeer := s.wafer.heldPeer ++ [(⟨b, 0, r, none⟩ : HeldPeer)] } })
    | none => (none, s.report (.trellis none))

/-- The access of a peer device is an atomic. -/
def peerAmo (r : PeerRequest) : Bool :=
  match r.op with
  | .amo .. => true
  | .store _ => false

/-- An atomic of a peer device is held at a port, or at any: the atomics that arrive after it wait behind it, the module's own
included (spec/07 R128; spec/19 R324). -/
def State.portHeld (s : State) (port : Option Nat) : Bool :=
  s.wafer.heldPeer.any fun h => peerAmo h.req && port.all fun p => p == h.req.port

/-- An access of a peer device, applied at its home in the order in which accesses arrive at the port (spec/19 R324). An atomic
on bytes that cannot be read does nothing and answers no value (spec/18 R305; log 55). -/
def State.peerAccess (s : State) (r : PeerRequest) : State :=
  match s.peerPlace r with
  | (none, s) => s
  | (some p, s) =>
    match r.op with
    | .store x => (s.writeAt p (leBytes 8 x.toNat)).report (.trellis (some 0))
    | .amo op ty x cmp =>
      let k := 2 ^ (8 * ty.size)
      if s.unreadable [(p, ty.size)] then s.report (.trellis none) else
      let (bs, s) := s.readAt p ty.size
      let m := (amoStep op ty (leNat bs) (x.toNat % k) (cmp.toNat % k)).1
      (s.writeAt p (leBytes ty.size m)).report (.trellis (some (BitVec.ofNat 64 (amoExtend ty (leNat bs)))))

/-- A held access of a port whose answer has come: made again, or answered without effect. -/
def State.peerAnswered (s : State) (port : Nat) : State :=
  match s.wafer.heldPeer.findIdx? fun h => h.req.port == port && h.answer.isSome with
  | some i =>
    match s.wafer.heldPeer[i]? with
    | some h =>
      let s := { s with wafer := { s.wafer with heldPeer := s.wafer.heldPeer.eraseIdx i } }
      if h.answer = some true then s.peerAccess h.req else s.report (.trellis none)
    | none => s
  | none => s

/-- A system-scope atomic that this module applies waits behind one that is held at a Trellis port. -/
def State.waitsAtPort (s : State) (f : Flight) (sc : AccScope) : Bool :=
  sc == .system && (s.elsewhere f sc).isNone && s.portHeld none

/-- An atomic reaches the bank, the plot unit or the home slice that executes it; or a peer device's access reaches its
Trellis port. -/
def execAtomicAtHome (s : State) : Out :=
  match s.arg with
  | .peer r => .next (if r.port < 64 then s.peerAccess r else s)
  | .port p => .next (s.peerAnswered p)
  | _ => onFlight (fun n f s =>
    match f.req with
    | .amo op ty sc p x cmp =>
      .next (if !s.landed n f then s
        else if s.present f && sc == .plot && p.tile f.tile != f.pkt.to_ then s.setFlight n (s.forward f (p.tile f.tile))
        else if !s.present f || !s.placeHeld p f.plot || s.heldOff f p ty.size then s.retry n f.backAtUnit
        else if !s.banksFree [(p, ty.size)] || s.waitsAtPort f sc then s
        else if (s.elsewhere f sc).isNone && s.unreadable [(p, ty.size)] then s.setFlight n (s.serveBad f.backAtUnit)
        else
          let (old, flags, s) := (s.takeBanks [(p, ty.size)]).applyAmo f op ty sc p x cmp
          s.setFlight n (s.serve f.backAtUnit (amoExtend ty old) flags))
    | _ => .next s) s

/-- A contribution reaches its bank. It is a write to the hidden entry of its core, and the issuer's snapshot does not take
it up (DESIGN CHOICE: log 61). -/
def execReductionContribution (s : State) : Out :=
  onFlight (fun n f s =>
    match f.req with
    | .red op ty p x =>
      .next (if !s.landed n f then s
        else if !s.present f || s.heldOff f p ty.size then s.retry n f
        else if !s.banksFree [(p, ty.size)] then s
        else
          let s := (s.takeBanks [(p, ty.size)]).contribute (p.tile f.tile) f.core op ty p.off (x.toNat % 2 ^ (8 * ty.size))
          s.setFlight n (s.serve f 0 0))
    | _ => .next s) s

/-! ### Back at the issuer (spec/03 R44; spec/07 R135; spec/18 R305) -/

/-- The issuing tile holds the plot that issued the access; a swapped-out one waits (spec/18 R308). -/
def State.home (s : State) (f : Flight) : Bool := (s.getTile f.tile).ctx.plot == some f.plot

/-- The access is posted: only an acknowledgement comes back. -/
def Flight.posted (f : Flight) : Bool :=
  match f.req with
  | .write .. | .member .. | .red .. | .chunk .. | .away .. => true
  | .fe op .. => op == .ste || op == .stf
  | _ => false

/-- A command takes its steps, or waits for the answer to a fault batch. -/
def EngSt.live : EngSt → Bool
  | .ready | .fault .. => true
  | _ => false

/-- An engine's command whose chunk has come back: it stands in another way, whatever it waits for, and a chunk that it had
counted as written is not (spec/07 R150; spec/12 R226; spec/13 R247; spec/18 R297, R305). -/
def Ctx.chunkBack (c : Ctx) (f : Flight) (st : EngSt) : Ctx :=
  let lost := match f.req with
    | .chunk .. => extent f.req.ranges
    | _ => 0
  match f.pkt.unit with
  | 1 => { c with ceq := c.ceq.map fun h => if h.seq = f.seq ∧ h.st.live then { h with st := st, done := h.done - lost } else h }
  | 3 => { c with deq := c.deq.map fun h => if h.seq = f.seq ∧ h.st.live then { h with st := st, done := h.done - lost } else h }
  | _ => { c with mq := vset c.mq f.core ((vget c.mq f.core []).map fun h =>
      if h.seq = f.seq ∧ h.st.live then { h with st := st, bytes := h.bytes - lost } else h) }

/-- The home's acknowledgement ends a write; that of a failed write is kept for a fence, once its plot is on the issuing tile, and
ends an engine's command in error (spec/18 R305, R308). -/
def execAccessAcknowledge (s : State) : Out :=
  onFlight (fun n f s =>
    if !f.posted || !f.arrived then .next s
    else
      match f.st with
      | .served _ _ => .next (s.dropFlight n)
      | .bad =>
        .next (if f.pkt.unit = 0 ∧ !s.home f then s
          else if f.pkt.unit ≠ 0 then (s.dropFlight n).onCtxOf f.tile f.plot fun c => c.chunkBack f (.failed Cause.ecc.code)
          else
            match s.runner f with
            | some l => (s.dropFlight n).onSlot l fun x => { x with badWrite := some f.ptr }
            | none => s.dropFlight n)
      | _ => .next s) s

/-- A value comes back by a late delivery; that of a call comes as a reply. -/
def Flight.delivers (f : Flight) : Bool :=
  match f.req with
  | .read .. | .amo .. | .spawn .. | .wake .. | .rack .. | .vbind | .btst .. | .deposit .. | .reply => true
  | .fe op .. => op != .ste && op != .stf
  | .arrive _ _ _ engine => !engine
  | _ => false

/-- The delivery is an acquire that took effect: of a barrier's status only one with DONE (spec/07 R140), of `lees.pop`
only one that took a deposit (spec/07 R144, spec/08 R160). -/
def Flight.refreshes (f : Flight) (val : Nat) : Bool :=
  f.acq && (match f.req with
    | .arrive .. | .btst .. => decide (2 ^ 63 ≤ val)
    | .reply => f.cls != .msg || decide (val ≠ 0)
    | _ => true)

/-- The carried word of a record that a destination names. -/
def carriedWord (off : Nat) : Dest → Option Nat
  | .s r => if 1 ≤ r.toNat ∧ r.toNat ≤ 6 then some (off + 8 + 8 * r.toNat) else none
  | _ => none

/-- A value that has come back: into the register of the slot that runs the record, or into the carried word of a
record that is ready or waits; else it is discarded. -/
def State.arriveValue (s : State) (n : Nat) (f : Flight) (val flags : Nat) : State :=
  let s := s.dropFlight n
  match s.runner f with
  | some l =>
    s.onSlot l fun x =>
      let x := (x.raise flags).deliver f.dest val
      if f.refreshes val then { x with snap := [] } else x
  | none =>
    let st := (s.getTile f.tile).ctx.recState f.owner
    match carriedWord f.owner f.dest with
    | some w =>
      if st = 1 ∨ st = 3 then (s.storePlace ⟨.spad f.tile, w⟩ (leBytes 8 val)).onCtx f.tile fun c => c.setFull w true else s
    | none => s

/-- A load whose data could not be read: its register stays empty, and whoever meets it traps. Where a write has no
register, a fence reports it. -/
def State.arriveBad (s : State) (n : Nat) (f : Flight) : State :=
  let s := s.dropFlight n
  match s.runner f with
  | some l =>
    if f.dest ≠ .none then s.onSlot l fun x => { x with badReg := x.badReg ++ [(f.dest.num, f.ptr)] }
    else if f.isWrite then s.onSlot l fun x => { x with badWrite := some f.ptr }
    else s
  | none => s

/-- `rack` at the plot unit (spec/19 R334): its result, with the plot. -/
def Plot.rack (p : Plot) (h : Nat) (v : Vintage) : Nat × Plot :=
  if v.errs ≠ 0 then (1, p)
  else if v.state = 3 then (0, p)
  else
    let p := match p.current with
      | some (k, w) => p.put k (.vintage { w with state := if 0 < w.count then 4 else 2 })
      | none => p
    (0, p.put h (.vintage { v with state := 3 }))

/-- The status of a `rack`, or the token of a `vntq.bind`, comes back: at once, or when its plot is on the issuing tile again. -/
def State.rackAnswer (s : State) (n : Nat) (f : Flight) (r : Nat) : State :=
  if s.home f then s.arriveValue n f r 0 else s.setFlight n (s.serve f r 0)

/-- A `rack` whose wait has ended is applied, whether or not its plot is on the issuing tile. A vintage freed meanwhile leaves
the status open (log 6). -/
def State.rackEnds (s : State) (n : Nat) (f : Flight) (h : Nat) : State :=
  match s.plot f.plot with
  | none => s
  | some p =>
    match (p.find h).bind Obj.vintage? with
    | some v =>
      if v.pend ≠ 0 then s
      else
        let (r, p) := p.rack h v
        (s.setPlot p).rackAnswer n f r
    | none => ({ s with free := s.free + 1 }).rackAnswer n f (Config.freeValue s.free).toNat

/-- The batch of an access is bound to the current vintage of its plot as one step: its token, or none while COUNT is full
(spec/19 R335). -/
def State.bindAt (s : State) (f : Flight) : Option (Nat × State) :=
  match s.plot f.plot with
  | none => some (0, s)
  | some p =>
    match p.current with
    | none => some (0, s)
    | some (h, v) =>
      if 65535 ≤ v.count then none
      else some (token h v, s.setPlot (p.put h (.vintage { v with count := v.count + 1 })))

/-- A `vntq.bind` that was answered RETRY comes to its plot unit again. -/
def State.bindEnds (s : State) (n : Nat) (f : Flight) : State :=
  match s.bindAt f with
  | none => s.retry n f
  | some (r, s) => s.rackAnswer n f r

def execLateDelivery (s : State) : Out :=
  onFlight (fun n f s =>
    match f.st, f.req with
    | .going, .rack h => .next (if f.arrived && s.inOrder n f then s.rackEnds n f h else s)
    | .going, .vbind => .next (if f.arrived then s.bindEnds n f else s)
    | st, _ =>
      if !f.delivers || !f.arrived || !s.home f || decide (s.clk f.tile < f.due) then .next s
      else
        match st with
        | .served val flags => .next (s.arriveValue n f val flags)
        | .bad => .next (s.arriveBad n f)
        | _ => .next s) s

/-! ### Refresh windows (spec/06 R103) -/

/-- Bank b of every cask is in its window at a time. -/
def inWindow (b now : Nat) : Bool := decide (4096 * b ≤ now % 32768 ∧ now % 32768 < 4096 * b + 256)

def execRefreshWindowStart (s : State) : Out :=
  match s.arg with
  | .refresh b =>
    .next (if b < 8 ∧ inWindow b s.wafer.time then { s with wafer := { s.wafer with refresh := setBit s.wafer.refresh b true } } else s)
  | _ => .next s

def execRefreshWindowEnd (s : State) : Out :=
  match s.arg with
  | .refresh b =>
    .next (if b < 8 ∧ !inWindow b s.wafer.time then { s with wafer := { s.wafer with refresh := setBit s.wafer.refresh b false } } else s)
  | _ => .next s

end Sys2Proof.Machine
end

