-- ==== Sys2Proof/Machine/Halt.lean ====
section
/-!
DEFINITION. Sys2Proof/Machine/Halt.lean: freezes and thaws, the halt of a slot at its boundary, and tiles whose engines
and injection stand still (spec/16 R271, R283; spec/18 R300, R301).
-/
namespace Sys2Proof.Machine

/-- An operation made with another slot at hand. -/
def State.at (s : State) (l : SlotLoc) (f : State → State) : State := (f (s.focus l)).focus s.cur

/-! ### Standing still -/

/-- The elastic count of a context (spec/16 R271). -/
def Tile.elastic (x : Tile) : Nat := if x.quiet then x.ctx.cyc else x.ctx.cyc + (x.clk - x.ctx.cycFrom)

/-- A tile whose engines and injection stop: its count of cycles stops with them. -/
def Tile.stop (x : Tile) : Tile := { x with quiet := true, ctx := { x.ctx with cyc := x.elastic } }

/-- An array path that stands at a step boundary has been halted: its first step ramps from 0 (spec/15 R265). Its tail
runs on. -/
def Tile.chill (x : Tile) : Tile :=
  if x.ctx.arrayArb.running.isNone then { x with ctx := { x.ctx with ramp := { x.ctx.ramp with cold := true } } } else x

/-- A tile whose engines and injection go on. -/
def Tile.go (x : Tile) : Tile :=
  if x.quiet then ({ x with quiet := false, ctx := { x.ctx with cycFrom := x.clk } } : Tile).chill else x

/-- A plot stands still: frozen, halted by a margin event or being killed (spec/16 R268; spec/18 R301, R306). -/
def Plot.still (p : Plot) : Bool := p.frozen || p.margin.isSome || p.killing.isSome

/-- Something holds a tile's engines and injection still: a freeze of the tile, or its plot. -/
def State.standsStill (s : State) (t : Nat) : Bool := (s.getTile t).frozen || (s.plotOf t).any Plot.still

/-- Tiles stop while something holds them still, and go on otherwise. -/
def State.settle (s : State) (ts : List Nat) : State :=
  ts.foldl (fun s t =>
    let still := s.standsStill t
    s.onTile t fun x => if still then (if x.quiet then x else x.stop) else x.go) s

/-! ### Scopes (spec/18 R301) -/

/-- The tiles of a plot, by number. -/
def State.plotTiles (s : State) (n : Nat) : List Nat := ((s.plot n).map Plot.tiles).getD []

/-- The tiles on which a plot's context stands: the others of its tiles have been taken by a swap (spec/18 R308). -/
def State.resident (s : State) (p : Plot) : List Nat := p.tiles.filter fun t => (s.getTile t).ctx.ofPlot p.num

/-- The slots of a plot, on the tiles where it stands. -/
def State.plotSlots (s : State) (n : Nat) : List SlotLoc :=
  (((s.plot n).map s.resident).getD []).flatMap slotLocs

/-- The slots that a scope holds. -/
def State.scopeSlots (s : State) : FreezeScope → List SlotLoc
  | .slot l => [l]
  | .tile t => slotLocs t
  | .stage p st =>
    (s.plotSlots p).filter fun l =>
      (s.getSlot l).mode != .free && s.stageOf l.tile (s.getSlot l).run.queue == st
  | .plot p => s.plotSlots p

/-- Dispatch, engines and injection stopped for a scope, or restarted where nothing else holds them still. -/
def State.holdScope (s : State) (b : Bool) : FreezeScope → State
  | .slot l => s.onSlot l fun x => { x with frozen := b }
  | .tile t => (s.onTile t fun x => { x with frozen := b }).settle [t]
  | .stage p st =>
    match s.plot p with
    | some q => s.setPlot { q with frozenStages := if b then st :: q.frozenStages else q.frozenStages.filter fun x => x != st }
    | none => s
  | .plot p =>
    match s.plot p with
    | some q => (s.setPlot { q with frozen := b }).settle (s.resident q)
    | none => s

/-! ### Halting and resuming -/

/-- The slot at hand halts for the freeze of a scope: a BREAKPOINT trap with TRAPV 0 and the word at its PC. -/
def State.freezeHere (sc : FreezeScope) (s : State) : State :=
  let w := s.peekWord s.cur.tile s.slot.pc
  let keep := match s.slot.mode with
    | .faultWait b va fetch => some (b, va, fetch, none)
    | _ => none
  let s := s.takeTrapWith .breakpoint 0 w false
  { s with slot := { s.slot with byFreeze := some sc, fwait := keep } }

/-- A slot of a frozen scope: it halts at once, or when the answer to its send has come. Whether the freeze halts it. -/
def State.freezeSlot (s : State) (sc : FreezeScope) (l : SlotLoc) : Bool × State :=
  match (s.getSlot l).mode with
  | .running | .faultWait .. => (true, s.at l (State.freezeHere sc))
  | .sendWait =>
    if (s.getSlot l).haltReq.isSome then (false, s)
    else (true, s.onSlot l fun x => { x with haltReq := some (.freeze sc) })
  | _ => (false, s)

/-- Every slot of a list frozen, with how many the freeze halts. -/
def State.freezeSlots (s : State) (sc : FreezeScope) : List SlotLoc → Nat × State
  | [] => (0, s)
  | l :: ls =>
    let (b, s) := s.freezeSlot sc l
    let (n, s) := State.freezeSlots s sc ls
    (n + b.toNat, s)

/-- The freeze in force that holds a slot: of its plot, of its tile or of its record's stage (spec/18 R301). -/
def State.frozenBy (s : State) (l : SlotLoc) : Option FreezeScope :=
  match s.plotOf l.tile with
  | none => none
  | some p =>
    if p.frozen then some (.plot p.num)
    else if (s.getTile l.tile).frozen then some (.tile l.tile)
    else if p.frozenStages.contains (s.stageOf l.tile (s.getSlot l).run.queue) then
      some (.stage p.num (s.stageOf l.tile (s.getSlot l).run.queue))
    else none

/-- Slots of a tile whose records come back into a frozen scope halt there. -/
def State.freezeReturned (s : State) (t : Nat) : State :=
  (slotLocs t).foldl (fun s l =>
    match s.frozenBy l with
    | some sc => (s.freezeSlot sc l).2
    | none => s) s

/-- No slot of a scope still waits for the answer to a send. -/
def State.freezeDone (s : State) (sc : FreezeScope) : Bool :=
  (s.scopeSlots sc).all fun l => !((s.getSlot l).mode == .sendWait && (s.getSlot l).haltReq.isSome)

/-- The end of a freeze: its report, or the number in the register of the slot that executes it. -/
def State.freezeEnd (s : State) (f : Freezing) : State :=
  match f.dest with
  | none => s.report (.freeze f.count)
  | some (l, d) => s.putReg l d (BitVec.ofNat 64 f.count)

/-- Freezes that are complete end. -/
def State.endFreezes (s : State) : State :=
  let ready := s.wafer.freezes.filter fun f => s.freezeDone f.sc
  ready.foldl State.freezeEnd
    { s with wafer := { s.wafer with freezes := s.wafer.freezes.filter fun f => !s.freezeDone f.sc } }

/-- A FREEZE of a scope (spec/18 R301). -/
def State.freeze (s : State) (sc : FreezeScope) (dest : Option (SlotLoc × Reg)) : State :=
  let slots := s.scopeSlots sc
  let (n, s) := (s.holdScope true sc).freezeSlots sc slots
  ({ s with wafer := { s.wafer with freezes := s.wafer.freezes ++ [(⟨sc, n, dest⟩ : Freezing)] } }).endFreezes

/-- Every context of a plot changed, resident or waiting. -/
def State.onPlotCtx (s : State) (p : Plot) (f : Ctx → Ctx) : State :=
  let g : Ctx → Ctx := fun c => if c.plot = some p.num then f c else c
  p.tiles.foldl (fun s t => (s.onCtx t g).onWaiting t g) s

/-- A plumb plot turns elastic: each count of cycles goes on from its plumb value (spec/16 R271). -/
def State.toElastic (s : State) (p : Plot) : State :=
  let now := s.wafer.time
  (s.resident p).foldl (fun s t => s.onTile t fun x => { x with ctx := { x.ctx with cycFrom := x.clk } })
    ((s.setPlot { p with plumb := false }).onPlotCtx p fun c => { c with cyc := now - p.epoch })

/-- A plot whose barriers keep no cycle of the clock that they ran by. -/
def Plot.unclocked (p : Plot) : Plot :=
  { p with handles := p.handles.map fun e => match e.obj with
      | some (.barrier b) => { e with obj := some (.barrier { b with doneAt := [] }) }
      | _ => e }

/-- The ready times of a context in another count of cycles: each record keeps its age (spec/02 R20, R30; DEDUCED: log 74). -/
def Ctx.recount (c : Ctx) (old new : Nat) : Ctx := { c with ready := c.ready.map fun r => { r with since := r.since + new - old } }

/-- The ready times of a plot's contexts in the count of a plot that turns plumb. -/
def State.recount (s : State) (p : Plot) : State :=
  let new := s.wafer.time - p.epoch
  p.tiles.foldl (fun s t =>
    (s.onTile t fun x => if x.ctx.ofPlot p.num then { x with ctx := x.ctx.recount x.elastic new } else x).onWaiting t fun c =>
      if c.ofPlot p.num then c.recount c.cyc new else c) s

/-- An elastic plot turns plumb: the cycle of each of its tiles becomes the wafer time, and boost and reverse bias end
(spec/16 R267, R271). -/
def State.toPlumb (s : State) (p : Plot) : State :=
  let now := s.wafer.time
  let s := ((s.recount p).setPlot { p.unclocked with plumb := true }).onPlotCtx p fun c => c.unpaced now
  let s := if (s.resident p).contains s.cur.tile then s.onCur Slot.unpaced else s
  (s.resident p).foldl (fun s t =>
    (s.onTile t fun x => (x.clocked true now s.wafer.fine).unbiased).unpaceFlights t) s

/-- The clock mode that a plot takes at its thaw (spec/16 R271, R283). -/
def State.thawClock (s : State) (p : Nat) : State :=
  match s.plot p with
  | some q =>
    match q.clock with
    | some b =>
      let q := { q with clock := none }
      if q.plumb ∧ !b then s.toElastic q else if !q.plumb ∧ b then s.toPlumb q else s.setPlot q
    | none => s
  | none => s

/-- The plot whose clock mode a thaw of a scope applies: that of a plot, or of a tile, whose tiles may have been frozen
one by one. The first of their thaws applies it, unless a freeze of the whole plot still holds it (DEDUCED: log 53). -/
def State.thawPlot (s : State) : FreezeScope → Option Nat
  | .plot p => some p
  | .tile t => (s.plotOf t).bind fun p => if p.frozen then none else some p.num
  | _ => none

/-- The slot's trap record waits for space in its ring: it stays halted (spec/18 R299). -/
def State.recordHeld (s : State) (l : SlotLoc) : Bool :=
  match s.plotOf l.tile with
  | some p => (s.die p.die).heldTrap.any fun h => h.2.1 == .slot l
  | none => false

/-- The slots that the freeze of a scope halted and nothing has resumed. -/
def State.thawSlots (s : State) (sc : FreezeScope) : List SlotLoc :=
  (s.scopeSlots sc).filter fun l => (s.getSlot l).mode == .halted && (s.getSlot l).byFreeze == some sc

/-- A thaw can be made: the trap records of the slots that it resumes have entered their ring. -/
def State.thawReady (s : State) (sc : FreezeScope) : Bool := (s.thawSlots sc).all fun l => !s.recordHeld l

/-- A slot of a waiting context resumed: a page-fault wait goes on, and its answer is acted on when the context returns
(spec/06 R115; spec/18 R300, R301). -/
def Slot.thawAway (x : Slot) : Slot :=
  match x.fwait with
  | some (b, va, fetch, _) => { x with mode := .faultWait b va fetch, byFreeze := none, stallFrom := none, snap := [] }
  | none => { x with mode := .running, byFreeze := none, stallFrom := none, snap := [] }

/-- The slots of a waiting context that the freeze of a scope halted resumed (spec/18 R301). Their records do not change before
the context returns (spec/02 R39). -/
def Ctx.thawAway (c : Ctx) (sc : FreezeScope) : Ctx :=
  let mine : Slot → Bool := fun x => x.mode == .halted && x.byFreeze == some sc
  { c with slots := c.slots.map fun x => if mine x then x.thawAway else x }

/-- The records of the slots that were resumed while a context waited go to state 2 as it returns (spec/02 R20, R39). -/
def Ctx.rejoin (c : Ctx) : Ctx :=
  c.slots.toList.foldl (fun c x =>
    if x.mode ≠ .free ∧ x.mode ≠ .halted ∧ c.recState x.run.off = 4 then c.setState x.run.off 2 else c) c

/-- The contexts that wait while a scope that holds them thaws. -/
def State.thawWaiting (s : State) (sc : FreezeScope) : State :=
  match sc with
  | .plot p | .stage p _ =>
    match s.plot p with
    | some q => q.tiles.foldl (fun s t => s.onWaiting t fun c => if c.ofPlot p then c.thawAway sc else c) s
    | none => s
  | .tile t => s.onWaiting t fun c => c.thawAway sc
  | .slot l => s.onWaiting l.tile fun c => c.thawAway sc

/-- A THAW of a scope, but for a slot that stays halted: how many slots it resumes (spec/18 R301, R316). -/
def State.thaw (s : State) (sc : FreezeScope) (but : Option SlotLoc) : Nat × State :=
  let ls := (s.thawSlots sc).filter fun l => but != some l && !s.recordHeld l
  let s := s.holdScope false sc
  let s := match s.thawPlot sc with
    | some p => s.thawClock p
    | none => s
  (ls.length, ls.foldl (fun s l => s.at l State.resume) (s.thawWaiting sc))

end Sys2Proof.Machine
end

