-- ==== Sys2Proof/Machine/EventsTask.lean ====
section
/-!
DEFINITION. Sys2Proof/Machine/EventsTask.lean: the dispatcher, waiting records, spawns and wakes at their targets, the
message unit, barriers, and the answers that reach a slot (spec/02 R20 to R37; spec/07 R138, R142, R143, R341; spec/18
R315).
-/
namespace Sys2Proof.Machine

/-! ### Dispatch (spec/02 R27 to R31) -/

/-- A record is older than another: earlier ready time, then lower index (spec/02 R20). -/
def Ready.older (a b : Ready) : Bool := decide (a.since < b.since) || (a.since == b.since && decide (a.index < b.index))

/-- The oldest ready record of a queue. -/
def Ctx.oldestReady (c : Ctx) (q : Nat) : Option Ready :=
  (c.ready.filter fun r => r.queue == q).foldl (fun b r =>
    match b with
    | some x => if r.older x then some r else some x
    | none => some r) none

/-- The effective priority of a ready record (spec/02 R30). -/
def Ctx.effective (c : Ctx) (r : Ready) : Nat := min 3 ((c.bind r.queue).prio + if (c.bind r.queue).age then r.level else 0)

/-- Slot 3 of a core is reserved for priority 3 (spec/02 R31). -/
def Ctx.reserved (c : Ctx) (core : Nat) : Bool :=
  (List.range 16).any fun q => (c.bind q).valid && (c.bind q).prio == 3 && (c.bind q).mask / 2 ^ core % 2 == 1

/-- The candidate queues of a slot, each with its oldest ready record; `frozen` lists stages that do not dispatch. -/
def Ctx.candidates (c : Ctx) (frozen : List Nat) (core slot : Nat) : List (Nat × Ready) :=
  (List.range 16).filterMap fun q =>
    let b := c.bind q
    if b.valid && b.mask / 2 ^ core % 2 == 1 && !(slot == 3 && c.reserved core && b.prio != 3)
        && !frozen.contains (vget c.stages q 0).toNat then
      (c.oldestReady q).map fun r => (q, r)
    else none

/-- How far a queue stands after the rotation point of a key. -/
def afterRot (rot q : Nat) : Nat := (q + 15 - rot % 16) % 16

/-- The queue that the dispatcher takes next: the highest key, then the first after the rotation point. -/
def Ctx.pick (c : Ctx) (cs : List (Nat × Ready)) : Option (Nat × Ready) :=
  cs.foldl (fun b x =>
    match b with
    | none => some x
    | some y =>
      let kx := c.effective x.2
      let ky := c.effective y.2
      if ky < kx ∨ (kx = ky ∧ afterRot (vget c.rot kx 15) x.1 < afterRot (vget c.rot ky 15) y.1) then some x else some y) none

/-- Some slot of the tile holds a record. -/
def State.anyRecord (s : State) (t : Nat) : Bool := (slotLocs t).any fun l => (s.getSlot l).mode != .free

/-- ADMISSION of a header (spec/02 R28, R29). -/
def State.admits (s : State) (t : Nat) (b : Bind) : Bool :=
  let x := s.getTile t
  (if x.e < b.energy then !x.dispatched else decide (b.energy ≤ vget x.pools b.cls 0 + x.common))
    && (if x.i < b.current then !s.anyRecord t else decide ((b.current : Int) ≤ x.irem))

/-- What admission takes. -/
def Tile.spend (x : Tile) (b : Bind) : Tile :=
  let pool := vget x.pools b.cls 0
  let fromPool := min b.energy pool
  { x with
    pools := vset x.pools b.cls (if x.e < b.energy then 0 else pool - fromPool)
    common := if x.e < b.energy then 0 else x.common - (b.energy - fromPool)
    irem := x.irem - b.current
    dispatched := true }

/-- The first admitted candidate of a slot; the fuel is the number of candidates. -/
def State.choose (s : State) (t : Nat) : Nat → List (Nat × Ready) → Option (Nat × Ready)
  | 0, _ => none
  | k + 1, cs =>
    match (s.getTile t).ctx.pick cs with
    | none => none
    | some (q, r) =>
      if s.admits t ((s.getTile t).ctx.bind q) then some (q, r)
      else State.choose s t k (cs.filter fun x => x.1 != q)

/-- Dispatch goes on on a tile (spec/18 R301, R306, R308). -/
def State.dispatches (s : State) (t : Nat) : Bool :=
  let x := s.getTile t
  !x.frozen && !x.quiet && !x.swapping && !x.inReset && !x.lost &&
    match s.plotOf t with
    | some p => !p.frozen && p.killing.isNone
    | none => false

/-- The slot that a tile would dispatch into next, with the queue and the record; at most one record every 2 cycles. -/
def State.wouldDispatch (s : State) (t : Nat) : Option (SlotLoc × Nat × Ready) :=
  if s.dispatches t && decide ((s.getTile t).ctx.dispAt ≤ s.clk t) then
    let stages := ((s.plotOf t).map Plot.frozenStages).getD []
    (slotLocs t).findSome? fun l =>
      if (s.getSlot l).mode == .free && !(s.getSlot l).frozen && decide (l.core < s.wafer.grade.cores) then
        let cs := (s.getTile t).ctx.candidates stages l.core l.slot
        (s.choose t cs.length cs).map fun x => (l, x.1, x.2)
      else none
  else none

/-- The registers of a slot as dispatch sets them (spec/02 R27). -/
def Slot.dispatched (frozen : Bool) (c : Ctx) (r : Ready) (notBefore : Nat) : Slot :=
  let x := (List.range 6).foldl (fun (x : Slot) i =>
    let w := r.off + 16 + 8 * i
    { x with
      sreg := vset x.sreg (i + 1) (BitVec.ofNat 64 (Memory.word c.spad w))
      sfull := setBit x.sfull (i + 1) (c.full w) }) Slot.reset
  { x with
    mode := .running, run := ⟨r.queue, r.index, r.off⟩, frozen := frozen, notBefore := notBefore
    pc := BitVec.ofNat 64 (bits (BitVec.ofNat 64 (Memory.word c.spad r.off)) 56 2 * 4) }

/-- The first dispatch of the plot of a tile is made (spec/16 R281). -/
def State.plotStarts (s : State) (t : Nat) : State :=
  match s.plotOf t with
  | some p => if p.started then s else s.setPlot { p with started := true }
  | none => s

/-- A ready record takes a slot. The first instruction issues 8 cycles later, and 96 ns of wafer time later still where the tile
has reverse bias, which it loses (spec/16 R269). -/
def State.dispatchInto (s : State) (l : SlotLoc) (q : Nat) (r : Ready) : State :=
  let x := s.getTile l.tile
  let key := x.ctx.effective r
  let slot := Slot.dispatched (s.getSlot l).frozen x.ctx r (x.clk + 8)
  let gone := s.instant + 96 * 968
  let s := s.onTile l.tile fun x =>
    let x := x.spend (x.ctx.bind q)
    { x with
      reverse := false
      lifting := if x.reverse then some (slotIx l, gone) else x.lifting.filter fun y => y.1 != slotIx l
      idle := 0
      ctx := { x.ctx.setState r.off 2 with
        dispAt := x.clk + 2
        ready := x.ctx.ready.filter fun y => y.off != r.off
        rot := vset x.ctx.rot key q } }
  (s.setSlot l slot).plotStarts l.tile

/-- The first dispatch of the plot of a tile waits for a slot time (spec/16 R281). -/
def State.startHeld (s : State) (t : Nat) : Bool := s.wafer.staggerP != 0 && (s.plotOf t).any fun p => !p.started

/-- The dispatch that a tile makes next: its plot's first one may wait for a slot time. -/
def State.nextDispatch (s : State) (t : Nat) : Option (SlotLoc × Nat × Ready) :=
  if s.startHeld t then none else s.wouldDispatch t

def execDispatch (s : State) : Out :=
  match s.arg with
  | .tile t =>
    .next (match s.nextDispatch t with
      | some (l, q, r) => s.dispatchInto l q r
      | none => s)
  | _ => .next s

/-- A ready record has earned the next level (spec/02 R30). -/
def State.mayAge (s : State) (t : Nat) (r : Ready) : Bool :=
  ((s.getTile t).ctx.bind r.queue).age && decide (r.level < 3 ∧ ((r.level + 1) * 4096 : Int) ≤ s.cycles t - r.since)

def execAgeingPromotion (s : State) : Out :=
  match s.arg with
  | .record t off =>
    .next (s.onCtx t fun c => { c with ready := c.ready.map fun r =>
      if r.off == off && (s.mayAge t r) then { r with level := r.level + 1 } else r })
  | _ => .next s

/-! ### Waiting records (spec/02 R22) -/

/-- The parameters of a waiting record. -/
def Ctx.waitKind (c : Ctx) (off : Nat) : Nat × Nat :=
  let h := Memory.word c.spad (off + 8)
  (h / 2 ^ 60, h % 2 ^ 60)

/-- A wait of kind 2 to 6 holds. A freed barrier releases its waiters (spec/07 R342). A completion makes a waiting record ready at
once, in plumb mode too (DEDUCED: log 75). A test of a word's bit folds no hidden entry of it (DESIGN CHOICE: log 66). -/
def State.waitHolds (s : State) (t : Nat) (w : Wait) : Bool :=
  let c := (s.getTile t).ctx
  let (kind, param) := c.waitKind w.off
  match kind with
  | 2 => w.met || c.full (param % 2 ^ 20)
  | 3 => w.met
  | 4 =>
    match ((s.plotOf t).bind fun p => p.find (param % 2 ^ 32)).bind Obj.barrier? with
    | some b => b.phase % 65536 != param / 2 ^ 32 % 65536
    | none => true
  | 5 => c.engineOps w.off (param % 8) == 0
  | 6 => (List.range 6).all fun i => c.full (w.off + 16 + 8 * i)
  | _ => false

/-- A wait of kind 1 takes the record's oldest notice with its tag. -/
def State.takesNotice (s : State) (t : Nat) (w : Wait) : Option State :=
  let c := (s.getTile t).ctx
  let (kind, param) := c.waitKind w.off
  if kind = 1 then
    (takeNotice w.off (param % 65536) c.mu).map fun ((len, src), mu) =>
      (s.onCtx t fun c => { c with mu := mu }).notify t w.off src (param % 65536) len mu
  else none

/-- The waiting record at an offset. -/
def State.waiting (s : State) (t off : Nat) : Option Wait := (s.getTile t).ctx.waits.find? fun w => w.off == off

def execWaitConditionMet (s : State) : Out :=
  match s.arg with
  | .record t off =>
    .next (match s.waiting t off with
      | some w => if s.waitHolds t w then s.makeReady t w.queue w.index off else (s.takesNotice t w).getD s
      | none => s)
  | _ => .next s

/-- A wait of kind 7 has ended. -/
def State.timeHolds (s : State) (t : Nat) (w : Wait) : Bool :=
  let (kind, param) := (s.getTile t).ctx.waitKind w.off
  kind == 7 && decide (param ≤ s.wafer.time)

def execTimeWaitExpiry (s : State) : Out :=
  match s.arg with
  | .record t off =>
    .next (match s.waiting t off with
      | some w => if s.timeHolds t w then s.makeReady t w.queue w.index off else s
      | none => s)
  | _ => .next s

/-! ### Spawns and wakes at their targets (spec/02 R36, R37) -/

/-- The lowest record of a queue in state 0 or 5. -/
def Ctx.spare (c : Ctx) (q : Nat) : Option Nat :=
  let b := c.bind q
  (List.range b.depth).find? fun i => c.recState (b.base + 64 * i) == 0 || c.recState (b.base + 64 * i) == 5

/-- A record written ready with carried registers (spec/02 R20). -/
def Ctx.fresh (c : Ctx) (q i off : Nat) (pc : Word) (regs : List (Word × Bool)) (now : Nat) : Ctx :=
  let c := ((c.setHead off 1 pc).setWait off 0 0).setCarried off regs
  { c with ready := c.ready ++ [⟨q, i, off, now, 0⟩] }

/-- A spawn applied: its status and the machine. -/
def State.spawnAt (s : State) (t q : Nat) (pc : Word) (regs : List (Word × Bool)) : Nat × State :=
  let c := (s.getTile t).ctx
  if !(c.bind q).valid then (2, s)
  else
    match c.spare q with
    | none => (1, s)
    | some i =>
      let now := s.cycles t
      (0, s.onCtx t fun c => c.fresh q i ((c.bind q).base + 64 * i) pc regs now)

/-- The line of the record that a spawn or a wake reads and writes at its bank, if it meets one (spec/06 R96). The update of a
record is none of the writes that a lease refuses (spec/07 R120; DEDUCED: log 82). -/
def State.recordLine (s : State) (f : Flight) : List (Place × Nat) :=
  let u := f.pkt.to_
  let c := (s.getTile u).ctx
  match f.req with
  | .spawn q _ _ =>
    if (c.bind q).valid then ((c.spare q).map fun i => ((⟨.spad u, (c.bind q).base + 64 * i⟩ : Place), 64)).toList else []
  | .wake off => if ((c.recordAt off).any fun x => (c.bind x.1).base + 64 * x.2 == off) then [(⟨.spad u, off⟩, 64)] else []
  | _ => []

def execSpawnRequest (s : State) : Out :=
  onFlight (fun n f s =>
    match f.req with
    | .spawn q pc regs =>
      .next (if !s.landed n f then s
        else if !s.present f then s.retry n f
        else if !s.banksFree (s.recordLine f) then s
        else
          let (st, s) := (s.takeBanks (s.recordLine f)).spawnAt f.pkt.to_ q pc regs
          s.setFlight n (s.serve f st 0))
    | _ => .next s) s

/-- A wake applied: the old state and the machine. -/
def State.wakeAt (s : State) (t off : Nat) : Nat × State :=
  let c := (s.getTile t).ctx
  match c.recordAt off with
  | some (q, i) =>
    if (c.bind q).base + 64 * i ≠ off then (15, s)
    else if c.recState off = 3 then (3, s.makeReady t q i off)
    else (c.recState off, s)
  | none => (15, s)

def execWakeRequest (s : State) : Out :=
  onFlight (fun n f s =>
    match f.req with
    | .wake off =>
      .next (if !s.landed n f then s
        else if !s.present f then s.retry n f
        else if !s.banksFree (s.recordLine f) then s
        else
          let (st, s) := (s.takeBanks (s.recordLine f)).wakeAt f.pkt.to_ off
          s.setFlight n (s.serve f st 0))
    | _ => .next s) s

/-! ### Messages (spec/07 R142, R143) -/

/-- A complete message acted on by the message unit of a tile, where no lease holds its deposit off: the answer and the
machine. -/
def State.receive (s : State) (t src tag : Nat) (data : List Byte) : FlSt × State :=
  let c := (s.getTile t).ctx
  match findPosted src tag c.mu with
  | some (i, owner, buf) => (.served 0 0, (s.deposit t buf data).notify t owner src tag data.length (c.mu.eraseIdx i))
  | none =>
    if c.lees.length < 64 then (.served 0 0, s.onCtx t fun c => { c with lees := c.lees ++ [⟨src, tag, data⟩] })
    else
      let now := s.clk t
      (.leesFull, s.onCtx t fun c => { c with leesFull := true, leesFullAt := some now })

/-- The buffer of the posted receive that a message meets. -/
def State.msgBuffer (s : State) (f : Flight) : List (Place × Nat) :=
  match f.req with
  | .msg src _ tag data =>
    match findPosted src tag (s.getTile f.goal).ctx.mu with
    | some (_, _, buf) => [(⟨.spad f.goal, buf⟩, data.length)]
    | none => []
  | _ => []

/-- A lease holds the deposit of a message off (spec/07 R120). -/
def State.bufferHeld (s : State) (f : Flight) : Bool := (s.msgBuffer f).any fun a => s.leased a.1 a.2

/-- The lines of that buffer that have not had their turn at their banks: the deposit is made, as one step, with the last of
them (spec/06 R96; spec/07 R143; log 14). -/
def State.msgLines (s : State) (f : Flight) : List Place := (linesIn (s.msgBuffer f)).filter fun l => !f.lines.contains l

def execMessageArrival (s : State) : Out :=
  onFlight (fun n f s =>
    match f.req with
    | .msg src _ tag data =>
      .next (if !s.landed n f then s
        else if !s.present f || s.bufferHeld f then s.retry n f
        else
          let left := s.msgLines f
          let (ls, s) := s.serveLines left
          if ls.length < left.length then s.setFlight n { f with lines := f.lines ++ ls }
          else
            let (st, s) := s.receive f.pkt.to_ src tag data
            s.setFlight n { s.serve f 0 0 with st := st })
    | _ => .next s) s

/-- A slot stands where a trap that is no instruction's own may halt it (spec/18 R300). -/
def Slot.atBoundary (x : Slot) : Bool :=
  match x.mode with
  | .running | .faultWait .. => true
  | _ => false

/-- A trap at the halt boundary of the slot at hand: the PC and the word are those at which it stands, and a page-fault
wait is kept (spec/07 R341; spec/18 R300). -/
def State.trapHere (s : State) (c : Cause) (value : Word) : State :=
  let w := s.peekWord s.cur.tile s.slot.pc
  let keep := match s.slot.mode with
    | .faultWait b va fetch => some (b, va, fetch, none)
    | _ => none
  let s := s.takeTrapWith c value w false
  { s with slot := { s.slot with fwait := keep } }

/-- A halt that waited for the answer halts the slot at hand (spec/18 R300, R301, R310). -/
def State.haltIfAsked (s : State) : State :=
  let s' := { s with slot := { s.slot with haltReq := none } }
  match s.slot.haltReq with
  | none => s
  | some r =>
    if s.slot.mode ≠ .running then s'
    else
      match r with
      | .freeze sc => s'.freezeHere sc
      | .coreLost => s'.trapHere .coreLost 0

/-- What the answer of a send does to the slot at hand. -/
def State.answered (s : State) (st : FlSt) : State :=
  match st with
  | .leesFull => s.takeTrap .leesFull 0
  | .refused v => s.takeTrap .protection v
  | _ => ({ s with slot := { s.slot with mode := .running } }).advance.haltIfAsked

/-- The answer to a send reaches its slot, which completes the send or traps. -/
def execSendAnswer (s : State) : Out :=
  onFlight (fun n f s =>
    match f.req, f.st with
    | .msg .., .served _ _ | .msg .., .leesFull | .msg .., .refused _ =>
      if !f.arrived || !s.home f then .next s
      else
        let s := s.dropFlight n
        .next (match s.runner f with
          | some l => (s.at l fun s => s.answered f.st).endFreezes
          | none => s)
    | _, _ => .next s) s

/-! ### Barriers (spec/07 R138, R341) -/

/-- An arrival applied at its barrier: its answer and the machine. -/
def State.arriveAt (s : State) (f : Flight) (h : Nat) (drop fault : Bool) : FlSt × State :=
  match s.plot f.plot with
  | none => (.refused (BitVec.ofNat 64 h), s)
  | some p =>
    match (p.find h).bind Obj.barrier? with
    | none => (.refused (BitVec.ofNat 64 h), s)
    | some b =>
      match b.arrive (s.clk (if b.plotWide then p.at 0 else p.at b.tile)) drop fault with
      | none => (.refused (BitVec.ofNat 64 h), s)
      | some (st, b) => (.served st 0, s.setPlot (p.put h (.barrier b)))

/-- A count reaches its barrier; one whose barrier has been freed on its way goes (DESIGN CHOICE: log 54). -/
def State.biniAt (s : State) (f : Flight) (h n : Nat) : State :=
  match s.plot f.plot with
  | none => s
  | some p =>
    match (p.find h).bind Obj.barrier? with
    | none => s
    | some b => s.setPlot (p.put h (.barrier (b.set n)))

/-- A read reaches its barrier; the status of one freed meanwhile is free (log 6). -/
def State.btstAt (s : State) (f : Flight) (h phase : Nat) : Nat × State :=
  match ((s.plot f.plot).bind fun p => p.find h).bind Obj.barrier? with
  | none => ((Config.freeValue s.free).toNat, { s with free := s.free + 1 })
  | some b => (barStatus (b.completed phase) b.fault b.arrived phase, s)

/-- An arrival, a count or a read reaches its barrier; that of an engine, the tile whose plot unit keeps it. A refused engine arrival only sends a trap record. -/
def execBarrierArrival (s : State) : Out :=
  onFlight (fun n f s =>
    match f.req with
    | .bini h k => .next (if s.landed n f then (s.biniAt f h k).dropFlight n else s)
    | .btst h phase =>
      if !s.landed n f then .next s
      else
        let f := f.met (s.clk f.tile)
        let (st, s) := s.btstAt f h phase
        .next (s.setFlight n (s.serve f st 0))
    | .arrive h drop fault engine =>
      if !s.landed n f || (engine && !s.present f) then .next s
      else
        let f := f.met (s.clk f.tile)
        let (st, s) := s.arriveAt f h drop fault
        .next (if engine then
            let s := s.dropFlight n
            match st with
            | .refused v => ((s.plot f.plot).map fun p =>
                s.plotTrap p f.tile f.core f.slot f.owner (.engine f.tile .ce) .staleHandle v).getD s
            | _ => s
          else s.setFlight n { s.serve f 0 0 with st := st })
    | _ => .next s) s

/-- The refusal of an arrival reaches its slot. -/
def execBarrierRefusal (s : State) : Out :=
  onFlight (fun n f s =>
    match f.req, f.st with
    | .arrive _ _ _ false, .refused v =>
      if !f.arrived || !s.home f then .next s
      else
        match s.runner f with
        | some l => .next (if (s.getSlot l).atBoundary then (s.dropFlight n).at l fun s => s.trapHere .staleHandle v else s)
        | none => .next (s.dropFlight n)
    | _, _ => .next s) s

/-! ### Ends of stalls (spec/03 R43, spec/18 R315) -/

/-- The register of an EMPTY_READ number is empty. -/
def Slot.numEmpty (x : Slot) (n : Nat) : Bool :=
  if n < 32 then n != 0 && !x.sfull.getLsbD n else !x.vfull.getLsbD (n - 32)

/-- A slot has stalled on empty sources for its limit. -/
def Slot.overStalled (x : Slot) (now : Nat) : Bool :=
  x.mode == .running && bits x.fecfg 31 0 != 0 && (x.stallFrom.any fun t => decide (t + bits x.fecfg 31 0 ≤ now)) && x.numEmpty x.stallReg

def execStallLimitExpiry (s : State) : Out :=
  match s.arg with
  | .slot l =>
    .next (if (s.getSlot l).overStalled (s.clk l.tile) then
      s.at l fun s => s.takeTrap .emptyRead (BitVec.ofNat 64 s.slot.stallReg) else s)
  | _ => .next s

/-- An `idle` whose time has come completes. -/
def execIdleTimeReached (s : State) : Out :=
  match s.arg with
  | .slot l =>
    .next (if (s.getSlot l).idleTo.any (fun t => decide (t ≤ s.wafer.time)) then
      s.at l State.advance else s)
  | _ => .next s

/-! ### Retiring and killing records (spec/02 R20) -/

/-- The record of a slot sent to state 5 with the slot's PC and registers, and the slot freed. -/
def State.retireHere (s : State) : State :=
  let r := s.slot.run.off
  let s := ((s.writeBack ⟨5, 0, 0, false⟩ s.slot.pc).dropLate.freeSlot).forgetMiss s.cur
  s.forget s.cur.tile r

/-- The cellar retires the record of a halted slot. -/
def execCellarRetireRecord (s : State) : Out :=
  match s.arg with
  | .slot l => .next (if (s.getSlot l).mode = .halted then s.at l State.retireHere else s)
  | _ => .next s

/-- The slot that runs a record of a tile. -/
def State.slotOf (s : State) (t off : Nat) : Option SlotLoc :=
  (slotLocs t).find? fun l => (s.getSlot l).mode != .free && (s.getSlot l).run.off == off

/-- A record in state 1 to 4 goes to state 5; one in a slot leaves it at its halt boundary. -/
def State.killRecord (s : State) (t off : Nat) : State :=
  let st := (s.getTile t).ctx.recState off
  if 1 ≤ st ∧ st ≤ 4 then
    match s.slotOf t off with
    | some l => s.at l State.retireHere
    | none =>
      (s.onCtx t fun c =>
        { (c.setState off 5).setWait off 0 0 with
          ready := c.ready.filter fun r => r.off != off
          waits := c.waits.filter fun w => w.off != off }).forget t off
  else s

/-- The records of a queue. -/
def Ctx.records (c : Ctx) (q : Nat) : List Nat :=
  let b := c.bind q
  if b.valid then (List.range b.depth).map fun i => b.base + 64 * i else []

/-- A task is killed: every record of its queue. -/
def execTaskKill (s : State) : Out :=
  match s.arg with
  | .queue t q => .next (((s.getTile t).ctx.records q).foldl (fun s off => s.killRecord t off) s)
  | _ => .next s

end Sys2Proof.Machine
end

