-- ==== Sys2Proof/Machine/CopyEngine.lean ====
section
/-!
DEFINITION. Sys2Proof/Machine/CopyEngine.lean: the chunks and the completions of the copy engine and of the decant
engine, and engines frozen by a boundary refusal (spec/07 R149, R150; spec/18 R296, R297; spec/19 R333).
-/
namespace Sys2Proof.Machine

/-! ### What the engines share -/

/-- The number of a core of a tile as seen by whoever waits for a chunk: an address that is not translated yet, a
refusal, a failure with its cause, nothing for now, or the places to read and to write. -/
inductive Plan where
  | fail (cause : Cause)
  | miss (va : Nat) (use : XUse)
  | refused
  | wait
  | go (src dst : List (Place × Nat))
  deriving DecidableEq, Repr

/-- The places of n bytes from a pointer for an engine of a tile, or why there are none; `xl` lists translations that its
command has been given already. -/
def State.enginePlaces (s : State) (t : Nat) (xl : List Tlb) (p : Word) (n : Nat) (use : XUse) :
    Except Plan (List (Place × Nat)) :=
  if win p = 0 then
    match translateIn ((s.getTile t).tlb ++ xl) (s.asid t) (bits p 56 0) n use with
    | .places ps => .ok ps
    | .miss va => .error (.miss va use)
    | .denied _ => .error (.fail .protection)
  else .ok [(s.placeAt t p, n)]

/-- The places of several ranges; the first reason stops. -/
def eachPlaces : List (Except Plan (List (Place × Nat))) → Except Plan (List (List (Place × Nat)))
  | [] => .ok []
  | .error e :: _ => .error e
  | .ok ps :: r =>
    match eachPlaces r with
    | .ok qs => .ok (ps :: qs)
    | .error e => .error e

/-- A range lies in record memory of the plot that holds it. -/
def State.guarded (s : State) (plot : Nat) (ps : List (Place × Nat)) : Bool := ps.any fun a => (s.recordHit plot a.1 a.2).isSome

/-- Every scratchpad or cask of a list of ranges holds a plot. -/
def State.allHeld (s : State) (plot : Nat) (ps : List (Place × Nat)) : Bool :=
  ps.all fun a => match a.1.sp with
    | .spad t | .cask t => s.holds t plot
    | _ => true

/-- The bytes of ranges, hidden entries folded first. -/
def State.readRanges (s : State) : List (Place × Nat) → List Byte × State
  | [] => ([], s)
  | (p, n) :: ps =>
    let (bs, s) := s.readAt p n
    let (r, s) := State.readRanges s ps
    (bs ++ r, s)

/-- Bytes written over ranges, in order. -/
def State.writeRanges (s : State) (ps : List (Place × Nat)) (bs : List Byte) : State :=
  (spread ps bs).foldl (fun s x => s.writeAt x.1 x.2) s

/-- Whose command a packet of an engine serves: tile and plot, the unit that numbers the engine (spec/18 R293), core, slot and
record, and the command's place in the order of issue. -/
structure Issuer where
  tile : Nat
  plot : Nat
  unit : Nat
  core : Nat
  slot : Nat
  owner : Nat
  seq : Nat
  deriving DecidableEq, Repr

/-- A packet that an engine sends for a command; the rank is that of a request, of payload or of control traffic (spec/18
R291). It forms no access of the record. -/
def State.engineFlight (s : State) (w : Issuer) (rank flits goal : Nat) (req : Req) : Flight where
  tile := w.tile
  core := w.core
  slot := w.slot
  owner := w.owner
  plot := w.plot
  seq := w.seq
  dest := .none
  cls := .eng
  rel := false
  acq := false
  pub := false
  st := .going
  pkt := s.packet w.tile goal rank flits w.unit
  sent := s.packet w.tile goal rank flits w.unit
  ptr := 0
  req := req
  land := s.clk w.tile
  due := s.clk w.tile
  lines := []
  got := []

/-- A packet of an engine's command is on its way, or a chunk that it has written is not acknowledged yet. -/
def State.engineBusy (s : State) (t unit core seq : Nat) : Bool :=
  s.flights.any fun f => f.tile == t && f.pkt.unit == unit && f.core == core && f.seq == seq

/-- A chunk that the same command has written is still to be applied: the next one comes after it (spec/08 R170). -/
def State.chunkWaits (s : State) (f : Flight) : Bool := s.flights.any fun g => g.sameCommand f && g.req.isChunk && g.waiting

/-- A write that a record of a plot made before a fork is not acknowledged: the completion of the operation, a release that
publishes it, waits for it (spec/08 R159, R160, R165, R169). -/
def State.writesOpen (s : State) (w : Issuer) : Bool :=
  s.flights.any fun f => f.of w.tile w.plot w.owner && decide (f.seq < w.seq) && f.isWrite

/-- The tile that ranges of one operand lie on: the own one for edge and host memory. -/
def homeOf (t : Nat) (ps : List (Place × Nat)) : Nat :=
  match ps with
  | a :: _ => a.1.tile t
  | [] => t

/-- Ranges lie wholly in the scratchpad of a tile. -/
def inSpad (t : Nat) (ps : List (Place × Nat)) : Bool := ps.all fun a => a.1.sp == .spad t

/-- AN ENGINE'S READ of a chunk: a request to the tile where the bytes lie, answered with them (spec/07 R149; spec/13 R245;
spec/18 R290, R291). -/
def State.engineRead (s : State) (w : Issuer) (src dst : Span) : State :=
  { s with flights := s.flights ++ [s.engineFlight w 1 1 (homeOf w.tile src.ps) (.fetch src dst)] }

/-- AN ENGINE'S WRITE of a chunk, posted, to be acknowledged by its home (spec/07 R149, R150; spec/13 R245). -/
def State.chunk (s : State) (w : Issuer) (dst : Span) (bs : List Byte) : Flight :=
  s.engineFlight w 3 (flitsOf bs.length) (homeOf w.tile dst.ps) (.chunk dst.plot dst.grant (spread dst.ps bs))

/-- The chunk that a command of an engine reads, with its place among the accesses in flight. -/
def State.fetchOf (s : State) (t unit core seq : Nat) : Option (Nat × Flight) :=
  s.flights.zipIdx.findSome? fun (f, i) =>
    match f.req with
    | .fetch .. => if f.tile = t ∧ f.pkt.unit = unit ∧ f.core = core ∧ f.seq = seq then some (i, f) else none
    | _ => none

/-- What has come back of a chunk that an engine reads: nothing yet, its bytes, or a failure. -/
inductive EngineRead where
  | wait
  | bytes (bs : List Byte)
  | bad
  deriving DecidableEq, Repr

/-- What an access of an engine brings back. -/
def Flight.fetched (f : Flight) : EngineRead :=
  if !f.arrived then .wait
  else
    match f.st with
    | .served v _ => .bytes (leBytes (extent f.req.ranges) v)
    | .bad => .bad
    | _ => .wait

/-- Whose command an access serves. -/
def Flight.issuer (f : Flight) : Issuer := ⟨f.tile, f.plot, f.pkt.unit, f.core, f.slot, f.owner, f.seq⟩

/-- The bytes of a chunk, once read, go to its destination: the chunk's write takes the place of its read. -/
def State.passOn (s : State) (n : Nat) (f : Flight) (bs : List Byte) : State :=
  match f.req with
  | .fetch _ dst => s.setFlight n (s.chunk f.issuer dst bs)
  | _ => s

/-- The error form of a completion word (spec/07 R150). -/
def errorForm (cause bytes : Nat) : Nat := 2 ^ 63 + cause % 256 * 2 ^ 48 + bytes % 2 ^ 48

/-- One more error of a record's operations on an engine (spec/07 R151). -/
def Ctx.countError (c : Ctx) (owner : Nat) (e : Eng) : Ctx :=
  if c.engErrs.any fun x => x.owner == owner && x.eng == e then
    { c with engErrs := c.engErrs.map fun x => if x.owner = owner ∧ x.eng = e then { x with n := x.n + 1 } else x }
  else { c with engErrs := c.engErrs ++ [⟨owner, e, 1⟩] }

/-- The completion word of a command: none, a place, or record memory. -/
inductive DoneAt where
  | none
  | at_ (p : Place)
  | guarded
  deriving DecidableEq, Repr

/-- Where a completion word goes. -/
def State.doneAt (s : State) (t plot : Nat) (ptr : Word) : DoneAt :=
  if ptr = 0 then .none
  else
    let p := s.placeAt t ptr
    if s.guarded plot [(p, 8)] then .guarded else .at_ p

/-- The cause with which a command ends, if it fails. A completion word in record memory is a failure of its own
(spec/02 R24). -/
def endCause (st : EngSt) (d : DoneAt) : Option Nat :=
  match st, d with
  | .failed c, _ => some c
  | _, .guarded => some Cause.protection.code
  | _, _ => none

/-- What a completion word holds: the command's value, or the error form (spec/07 R150). -/
def doneWord (cause : Option Nat) (val : Word) (bytes : Nat) : Word :=
  match cause with
  | some c => BitVec.ofNat 64 (errorForm c bytes)
  | none => val

/-- How the end of a command stands: it waits; its completion word sets out; or it is over. -/
inductive Closing where
  | wait
  | word (cause : Option Nat) (p : Place)
  | over (cause : Option Nat)
  deriving DecidableEq, Repr

/-- THE END of a command that has delivered everything, or failed: once every destination write, and every write that its
fork publishes to it, has been acknowledged, the completion word is written; once that is acknowledged too, it is over
(spec/07 R150; spec/08 R159, R160, R169, R170). -/
def State.closing (s : State) (w : Issuer) (st : EngSt) (all : Bool) (ptr : Word) : Closing :=
  if s.engineBusy w.tile w.unit w.core w.seq then .wait
  else
    match st with
    | .closing cause => .over cause
    | .failed _ | .ready =>
      if st = .ready ∧ !all ∨ s.writesOpen w then .wait
      else
        let d := s.doneAt w.tile w.plot ptr
        match d with
        | .at_ p => .word (endCause st d) p
        | _ => .over (endCause st d)
    | _ => .wait

/-- A completion word set out. -/
def State.sendWord (s : State) (w : Issuer) (p : Place) (x : Word) : State :=
  { s with flights := s.flights ++ [s.chunk w ⟨w.plot, none, [(p, 8)]⟩ (leBytes 8 x.toNat)] }

/-- The record of a failure sent (spec/07 R150). -/
def State.tellError (s : State) (w : Issuer) (e : Eng) (cause : Option Nat) (bytes : Nat) : State :=
  match cause with
  | some c => s.unitTrap w.tile w.core w.slot w.owner (.engine w.tile e) .engineFault (BitVec.ofNat 64 (errorForm c bytes))
  | none => s

/-- The engines of a tile run: no freeze and no swap halts them (spec/18 R301, R308). -/
def Tile.works (x : Tile) : Bool := !x.quiet && !x.swapping && !x.inReset && !x.lost

/-- An engine's trap record waits for space in its ring: the engine stands still (spec/18 R299). -/
def State.engineHeld (s : State) (t : Nat) (e : Eng) : Bool :=
  (s.plotOf t).any fun p => (s.die p.die).heldTrap.any fun h => h.2.1 == .engine t e

/-- An engine of a tile takes its next step. -/
def State.works (s : State) (t : Nat) (e : Eng) : Bool := (s.getTile t).works && !s.engineHeld t e

/-! ### Copies (spec/07 R149) -/

/-- The bytes that a copy delivers. -/
def CopyCmd.total (c : CopyCmd) : Nat := dstRow c.regs * dstRows c.regs

/-- The next chunk: destination offset, source pieces by offset, and its length. -/
def CopyCmd.chunk (c : CopyCmd) : Nat × List (Nat × Nat) × Nat :=
  let row := c.done / dstRow c.regs
  let off := c.done % dstRow c.regs
  let n := min 256 (dstRow c.regs - off)
  let x := xposeOf c.regs
  let src := if x = 0 then [(row * (vget c.regs 2 0).toNat + off, n)]
    else (List.range (n / x)).map fun k => ((off / x + k) * (vget c.regs 2 0).toNat + row * x, x)
  (row * (vget c.regs 3 0).toNat + off, src, n)

/-- The region that an operand names now. -/
def State.regionOf (s : State) (plot h : Nat) : Option (RegionBase × Nat × Bool) :=
  ((s.plot plot).bind fun p => p.find h).bind Obj.region?

/-- The plot that holds the places of an operand: the own one, or the owner of a granted range. -/
def State.operandPlot (s : State) (plot : Nat) : CopyOp → Nat
  | .ptr _ => plot
  | .region h _ =>
    match s.regionOf plot h with
    | some (.grant _ _ owner _, _, _) => owner
    | _ => plot

/-- The handle by which an operand names a granted range (spec/18 R296). -/
def State.operandGrant (s : State) (plot : Nat) : CopyOp → Option Nat
  | .ptr _ => none
  | .region h _ =>
    match s.regionOf plot h with
    | some (.grant .., _, _) => some h
    | _ => none

/-- The places of an operand's bytes. -/
def State.operandPlaces (s : State) (t plot : Nat) (xl : List Tlb) (o : CopyOp) (use : XUse) (off n : Nat) :
    Except Plan (List (Place × Nat)) :=
  match o with
  | .ptr p => s.enginePlaces t xl (plusOff p off) n use
  | .region h o =>
    match s.regionOf plot h with
    | none => .error (.fail .staleHandle)
    | some (.ptr p, _, w) => if use = .write ∧ !w then .error (.fail .protection) else s.enginePlaces t xl (plusOff p (o + off)) n use
    | some (.grant tile base _ _, _, w) =>
      if use = .write ∧ !w then .error .refused else .ok [(⟨.spad tile, base + o + off⟩, n)]

/-- A handle that an operand names is stale. -/
def State.operandStale (s : State) (plot : Nat) : CopyOp → Bool
  | .ptr _ => false
  | .region h _ => (s.regionOf plot h).isNone

/-- A `cpyb` names a barrier that is gone. -/
def State.barStale (s : State) (plot : Nat) (c : CopyCmd) : Bool :=
  c.bar && (((s.plot plot).bind fun p => p.find (handleOf (vget c.regs 6 0))).bind Obj.barrier?).isNone

/-- What the next chunk of a copy meets: its handles, its translations, then its places. -/
def State.copyPlan (s : State) (t plot : Nat) (c : CopyCmd) : Plan :=
  let (doff, pieces, n) := c.chunk
  if s.operandStale plot c.dst || s.operandStale plot c.src || s.barStale plot c then .fail .staleHandle
  else
    match eachPlaces (pieces.map fun (o, m) => s.operandPlaces t plot c.xl c.src .read o m) with
    | .error e => e
    | .ok srcs =>
      match s.operandPlaces t plot c.xl c.dst .write doff n with
      | .error e => e
      | .ok dst =>
        let src := srcs.flatten
        if s.guarded (s.operandPlot plot c.dst) dst then .fail .protection else .go src dst

/-- The head of the copy queue changed. -/
def State.onCopy (s : State) (t : Nat) (f : CopyCmd → CopyCmd) : State :=
  s.onCtx t fun c => { c with ceq := match c.ceq with
    | h :: r => f h :: r
    | [] => [] }

/-- Whose command a copy is. -/
def CopyCmd.issuer (c : CopyCmd) (t plot : Nat) : Issuer := ⟨t, plot, 1, c.core, c.slot, c.owner, c.seq⟩

/-- The ranges of an operand with the plot that holds them. -/
def State.spanOf (s : State) (plot : Nat) (o : CopyOp) (ps : List (Place × Nat)) : Span :=
  ⟨s.operandPlot plot o, s.operandGrant plot o, ps⟩

/-- The next chunk of a tile's copy engine begins: its source is read. The chunk before it is acknowledged (spec/08 R170). -/
def State.copyBegin (s : State) (t plot : Nat) (c : CopyCmd) : Option State :=
  if !s.works t .ce || c.st != .ready || decide (c.total ≤ c.done) || s.engineBusy t 1 c.core c.seq then none
  else
    match s.copyPlan t plot c with
    | .fail e => some (s.onCopy t fun c => { c with st := .failed e.code })
    | .miss va use =>
      if s.wafer.xlates.any fun y => y.tile == t && y.who == .copy then none else some (s.miss t .copy va use)
    | .refused | .wait => none
    | .go src dst => some (s.engineRead (c.issuer t plot) (s.spanOf plot c.src src) (s.spanOf plot c.dst dst))

/-- The next step of a tile's copy engine: a chunk begins, or its bytes have come and are written. -/
def State.copyStep (s : State) (t : Nat) : Option State :=
  let x := s.getTile t
  match x.ctx.ceq, x.ctx.plot with
  | c :: _, some plot =>
    match s.fetchOf t 1 c.core c.seq with
    | none => s.copyBegin t plot c
    | some (n, f) =>
      if x.inReset || x.lost then none
      else
        match f.fetched with
        | .wait => none
        | .bytes bs => some ((s.passOn n f bs).onCopy t fun c => { c with done := c.done + bs.length, xl := [] })
        | .bad => some ((s.dropFlight n).onCopy t fun c => { c with st := .failed Cause.ecc.code })
  | _, _ => none

/-- A step about a tile; nothing happens where it is not enabled. -/
def onTileStep (k : State → Nat → Option State) (s : State) : Out :=
  match s.arg with
  | .tile t => .next ((k s t).getD s)
  | _ => .next s

def execCopyChunk (s : State) : Out := onTileStep State.copyStep s

/-- An arrival of an engine, as CTL traffic to the tile whose plot unit keeps the barrier: the origin tile for a plot barrier
(spec/07 R136, R150; spec/18 R291). -/
def State.engineArrives (s : State) (t plot : Nat) (c : CopyCmd) (fault : Bool) : State :=
  let h := handleOf (vget c.regs 6 0)
  let goal := match s.plot plot with
    | some p => if ((p.find h).bind Obj.barrier?).any Barrier.plotWide then p.at 0 else t
    | none => t
  let f := { s.engineFlight { c.issuer t plot with seq := s.stamp } 5 1 goal (.arrive h false fault true) with
    cls := .none, ptr := BitVec.ofNat 64 h }
  { s with flights := s.flights ++ [f], stamp := s.stamp + 1 }

/-- A copy that has delivered its last chunk, or failed, ends. -/
def State.copyEnd (s : State) (t : Nat) : Option State :=
  let x := s.getTile t
  match x.ctx.ceq, x.ctx.plot with
  | c :: rest, some plot =>
    let w := c.issuer t plot
    if !s.works t .ce then none
    else
      match s.closing w c.st (decide (c.total ≤ c.done)) (vget c.regs 5 0) with
      | .wait => none
      | .word cause p => some ((s.sendWord w p (doneWord cause c.val c.done)).onCopy t fun c => { c with st := .closing cause })
      | .over cause =>
        let s := (s.tellError w .ce cause c.done).onCtx t fun y =>
          let y := { y with ceq := rest }
          if cause.isSome then y.countError c.owner .ce else y
        some (if c.bar then s.engineArrives t plot c cause.isSome else s)
  | _, _ => none

def execCopyCompletion (s : State) : Out := onTileStep State.copyEnd s

/-! ### Frozen engines (spec/18 R297) -/

/-- The last router inside a plot on the route from a tile, first along x, then along y; the fuel bounds the hops. -/
def Plot.lastInside (p : Plot) (toX toY : Nat) : Nat → Nat → Nat → Nat × Nat
  | 0, x, y => (x, y)
  | k + 1, x, y =>
    let (nx, ny) := if x < toX then (x + 1, y) else if toX < x then (x - 1, y)
      else if y < toY then (x, y + 1) else if toY < y then (x, y - 1) else (x, y)
    if (nx, ny) = (x, y) ∨ nx < p.x0 ∨ p.x0 + p.w ≤ nx ∨ ny < p.y0 ∨ p.y0 + p.h ≤ ny then (x, y)
    else p.lastInside toX toY k nx ny

/-- The logical number of a tile of a plot. -/
def Plot.logical (p : Plot) (t : Nat) : Nat := (p.tiles.findIdx? fun u => u == t).getD 0

/-- The refusal value (spec/17 R285). -/
def refusalValue (cls router dest tag : Nat) : Word :=
  BitVec.ofNat 64 (cls % 256 * 2 ^ 56 + router % 65536 * 2 ^ 32 + dest % 65536 * 2 ^ 16 + tag % 65536)

/-- A packet of a copy that the boundary refuses freezes the engine. The specification gives no destination tile and no
tag for it: both are free (log 6). -/
def State.engineRefused (s : State) (t : Nat) : Option State :=
  let x := s.getTile t
  match x.ctx.ceq, x.ctx.plot.bind s.plot with
  | c :: _, some p =>
    if s.works t .ce && c.st == .ready && decide (c.done < c.total) && s.copyPlan t p.num c == .refused then
      let goal := match c.dst with
        | .region h _ =>
          match s.regionOf p.num h with
          | some (.grant u _ _ _, _, _) => u
          | _ => t
        | .ptr _ => t
      let (rx, ry) := p.lastInside (goal % 176) (goal / 176) 400 (t % 176) (t / 176)
      let v := refusalValue 3 (p.logical (gridIx rx ry)) (bits (Config.freeValue s.free) 31 16) (bits (Config.freeValue s.free) 15 0)
      let s := { s with free := s.free + 1 }
      some ((s.onCopy t fun c => { c with st := .refused }).unitTrap t c.core c.slot c.owner (.engine t .ce) .protection v)
    else none
  | _, _ => none

def execEngineRefusal (s : State) : Out := onTileStep State.engineRefused s

def execEngineResume (s : State) : Out :=
  onTileStep (fun s t => some (s.onCopy t fun c => if c.st = .refused then { c with st := .ready } else c)) s

def execEngineCommandDiscard (s : State) : Out :=
  onTileStep (fun s t => some (s.onCopy t fun c =>
    if c.st = .refused then { c with st := .failed Cause.protection.code } else c)) s

/-! ### Decants (spec/19 R333) -/

def DecantCmd.len (c : DecantCmd) : Nat := (vget c.regs 0 0).toNat

/-- The bytes that a decant moves. -/
def DecantCmd.total (c : DecantCmd) : Nat := c.len * (vget c.regs 3 0).toNat

/-- What the next chunk of a decant meets. -/
def State.decantPlan (s : State) (t plot : Nat) (c : DecantCmd) : Plan :=
  let i := c.done / c.len
  let off := c.done % c.len
  let n := min 256 (c.len - off)
  match s.plot plot with
  | none => .wait
  | some p =>
    match (p.find c.vint).bind Obj.vintage? with
    | none => .fail .staleHandle
    | some v =>
      match s.enginePlaces t [] (plusOff c.src (i * (vget c.regs 4 0).toNat + off)) n .read with
      | .error e => e
      | .ok src =>
        if src.any fun a => a.1.sp == .host then .fail .protection
        else
          let u := p.at ((vget c.regs 2 0).toNat + i)
          let dst : List (Place × Nat) := [(⟨.cask u, v.half.toNat * 2 ^ 21 + (vget c.regs 1 0).toNat + off⟩, n)]
          .go src dst

/-- The head of the decant queue changed. -/
def State.onDecant (s : State) (t : Nat) (f : DecantCmd → DecantCmd) : State :=
  s.onCtx t fun c => { c with deq := match c.deq with
    | h :: r => f h :: r
    | [] => [] }

/-- Whose command a decant is. -/
def DecantCmd.issuer (c : DecantCmd) (t plot : Nat) : Issuer := ⟨t, plot, 3, c.core, c.slot, c.owner, c.seq⟩

/-- The next chunk of a tile's decant engine begins. -/
def State.decantBegin (s : State) (t plot : Nat) (c : DecantCmd) : Option State :=
  if !s.works t .de || c.st != .ready || decide (c.total ≤ c.done) || s.engineBusy t 3 c.core c.seq then none
  else
    match s.decantPlan t plot c with
    | .fail e => some (s.onDecant t fun c => { c with st := .failed e.code })
    | .miss va use =>
      if s.wafer.xlates.any fun y => y.tile == t && y.who == .decant then none else some (s.miss t .decant va use)
    | .refused | .wait => none
    | .go src dst => some (s.engineRead (c.issuer t plot) ⟨plot, none, src⟩ ⟨plot, none, dst⟩)

/-- The next step of a tile's decant engine: a chunk begins, or its bytes have come and are written. -/
def State.decantStep (s : State) (t : Nat) : Option State :=
  let x := s.getTile t
  match x.ctx.deq, x.ctx.plot with
  | c :: _, some plot =>
    match s.fetchOf t 3 c.core c.seq with
    | none => s.decantBegin t plot c
    | some (n, f) =>
      if x.inReset || x.lost then none
      else
        match f.fetched with
        | .wait => none
        | .bytes bs => some ((s.passOn n f bs).onDecant t fun c => { c with done := c.done + bs.length })
        | .bad => some ((s.dropFlight n).onDecant t fun c => { c with st := .failed Cause.ecc.code })
  | _, _ => none

def execDecantChunk (s : State) : Out := onTileStep State.decantStep s

/-- PEND of a vintage lowered, and ERRS raised for a failure. -/
def State.decanted (s : State) (plot h : Nat) (failed : Bool) : State :=
  match s.plot plot with
  | none => s
  | some p =>
    match (p.find h).bind Obj.vintage? with
    | some v =>
      s.setPlot (p.put h (.vintage { v with pend := v.pend - 1, errs := if failed then min 65535 (v.errs + 1) else v.errs }))
    | none => s

/-- A decant ends as a copy does; then its vintage is told. -/
def State.decantEnd (s : State) (t : Nat) : Option State :=
  let x := s.getTile t
  match x.ctx.deq, x.ctx.plot with
  | c :: rest, some plot =>
    let w := c.issuer t plot
    if !s.works t .de then none
    else
      match s.closing w c.st (decide (c.total ≤ c.done)) (vget c.regs 5 0) with
      | .wait => none
      | .word cause p => some ((s.sendWord w p (doneWord cause c.val c.done)).onDecant t fun c => { c with st := .closing cause })
      | .over cause =>
        let s := (s.tellError w .de cause c.done).onCtx t fun y =>
          let y := { y with deq := rest }
          if cause.isSome then y.countError c.owner .de else y
        some (s.decanted plot c.vint cause.isSome)
  | _, _ => none

def execDecantCompletion (s : State) : Out := onTileStep State.decantEnd s

end Sys2Proof.Machine
end

