-- ==== Sys2Proof/Machine/Matrix.lean ====
section
/-!
DEFINITION. Sys2Proof/Machine/Matrix.lean: the issue of matrix commands, majors 0x31 and 0x32, with their operands, their
steps and their leases (spec/12 R224 to R227; spec/13 R228 to R241, R244). The steps run in
Sys2Proof/Machine/MatrixStep.lean.
-/
namespace Sys2Proof.Machine

/-! ### The format context (spec/12 R224, spec/13 R231, R232) -/

/-- The me. registers, as a command's snapshot holds them. -/
abbrev MeRegs := Vector Word 18

def meM (r : MeRegs) : Nat := (vget r 0 0).toNat
def meN (r : MeRegs) : Nat := (vget r 1 0).toNat
def meK (r : MeRegs) : Nat := (vget r 2 0).toNat
/-- The type code in a format register. -/
def fmtCode (x : Word) : Nat := bits x 3 0
/-- The descriptor in a format register. -/
def fmtDesc (x : Word) : Nat := bits x 8 4
def meFa (r : MeRegs) : Word := vget r 3 0
def meFb (r : MeRegs) : Word := vget r 4 0
def meFc (r : MeRegs) : Word := vget r 5 0
def meScale (r : MeRegs) : Word := vget r 6 0
def meSa (r : MeRegs) : Bool := bits (meScale r) 0 0 == 1
def meSb (r : MeRegs) : Bool := bits (meScale r) 1 1 == 1
/-- The block size along k. -/
def meBlk (r : MeRegs) : Nat := if bits (meScale r) 2 2 = 1 then 32 else 256
def mePat (r : MeRegs) : Nat := bits (vget r 7 0) 1 0
def meDrain (r : MeRegs) : Word := vget r 16 0
def meMode (r : MeRegs) : Nat := bits (meDrain r) 2 0
/-- The rounding of the drain. -/
def meRnd (r : MeRegs) : Rnd :=
  match bits (meDrain r) 6 4 with
  | 1 => .rtz
  | 2 => .rup
  | 3 => .rdn
  | 4 => .rto
  | _ => .rne
/-- ROWS of panel row i in the row map. -/
def meRow (r : MeRegs) (i : Nat) : Nat := (vget r (8 + i / 8) 0).toNat / 2 ^ (3 * (i % 8)) % 8

/-- The element type of a format register. -/
def fmtEl (x : Word) : ElemTy :=
  match fmtCode x with
  | 0 => .i4 | 1 => .i8 | 2 => .i16 | 3 => .i32 | 4 => .i64 | 5 => .n8 | 6 => .n16 | 7 => .n32 | 8 => .n64
  | 9 => .f32 | 10 => .bf16 | 11 => .h16 | 12 => .e8s | _ => .b8

/-- The type of a format register. -/
def fmtTy (x : Word) : Ty := Ty.of (fmtEl x) (fmtDesc x)

/-- The form of a panel under a snapshot (spec/13 R229): integer. -/
def intForm (r : MeRegs) : Bool :=
  decide (fmtCode (meFa r) ≤ 1 ∧ fmtCode (meFb r) ≤ 1) && !meSa r && !meSb r

/-- A size register out of its range. -/
def sizeBad (x : Word) (hi : Nat) : Bool := x == 0 || decide (hi < x.toNat)

/-- A format register with a type outside a list, or a descriptor that its type does not take. -/
def fmtBad (types : List Nat) (x : Word) : Bool :=
  bits x 63 9 != 0 || !types.contains (fmtCode x)
    || (if fmtCode x = 13 then decide (fmtDesc x < 4) else fmtDesc x != 0)

/-- The operand formats of `mma` and `mmas`, and the destination types of a drain. -/
def operandTypes : List Nat := [0, 1, 9, 10, 11, 13]
def drainTypes : List Nat := [1, 2, 3, 4, 5, 6, 7, 8, 9, 10, 11, 13]

/-- A pair of formats that R232 lists. -/
def pairOk (a b : Nat) : Bool :=
  (decide (a ≤ 1) && decide (b ≤ 1)) || (a == 9 && b == 9) || (a == 13 && b == 13)
    || ((a == 10 || a == 11) && (b == 10 || b == 11))

/-- A type that may carry block scales. -/
def scalable (a : Nat) : Bool := decide (a ≤ 1) || a == 13

/-- The first register that `mma` and `mmas` refuse (spec/13 R232; log 22). -/
def mmaBad (r : MeRegs) : Option Word :=
  if sizeBad (vget r 0 0) 64 then some (vget r 0 0)
  else if sizeBad (vget r 1 0) 64 then some (vget r 1 0)
  else if sizeBad (vget r 2 0) 4096 then some (vget r 2 0)
  else if fmtBad operandTypes (meFa r) then some (meFa r)
  else if fmtBad operandTypes (meFb r) then some (meFb r)
  else if bits (meScale r) 63 3 ≠ 0 then some (meScale r)
  else if bits (vget r 7 0) 63 2 ≠ 0 ∨ mePat r = 3 then some (vget r 7 0)
  else if !pairOk (fmtCode (meFa r)) (fmtCode (meFb r)) then some (meFb r)
  else if (meSa r && !scalable (fmtCode (meFa r))) || (meSb r && !scalable (fmtCode (meFb r))) then some (meScale r)
  else if (mePat r = 1 ∧ meK r % 4 ≠ 0) ∨ (mePat r = 2 ∧ meK r % 8 ≠ 0) then some (vget r 2 0)
  else none

/-- The drain register is refused. -/
def drainBad (x : Word) : Bool := bits x 63 7 != 0 || bits x 3 3 != 0 || decide (4 < bits x 6 4) || decide (3 < bits x 2 0)

/-- The first register that a transfer command refuses: raw ones read me.m and me.n only (spec/13 R238, R239; log 22). Typed
ones check me.drain whole, an `mld` too, which takes only RND of it; and an `mdrain.rows` checks the row maps that hold a row
i < M and no others (DESIGN CHOICE: log 22). -/
def transferBad (r : MeRegs) (raw rows : Bool) : Option Word :=
  if sizeBad (vget r 0 0) 64 then some (vget r 0 0)
  else if sizeBad (vget r 1 0) 64 then some (vget r 1 0)
  else if raw then none
  else if fmtBad drainTypes (meFc r) then some (meFc r)
  else if drainBad (meDrain r) then some (meDrain r)
  else if rows then
    (((List.range ((meM r + 7) / 8)).map fun j => vget r (8 + j) 0).find? fun x => bits x 63 24 != 0)
  else none

/-! ### Array steps (spec/13 R233) -/

/-- Rows of a step. -/
def stepRows (r : MeRegs) : Nat := if fmtCode (meFa r) = 9 then 32 else 64

/-- k of a step. -/
def stepK (r : MeRegs) : Nat :=
  let dense := match fmtCode (meFa r), fmtCode (meFb r) with
    | 9, _ => 16
    | 10, _ | 11, _ => 32
    | 0, 0 => 128
    | _, _ => 64
  if mePat r = 0 then dense else 2 * dense

/-- k-chunks of a command. -/
def chunksK (r : MeRegs) : Nat := (meK r + stepK r - 1) / stepK r

/-- Steps of `mma` and `mmas`. -/
def mmaSteps (r : MeRegs) : Nat := (meM r + stepRows r - 1) / stepRows r * chunksK r

/-! ### Operands (spec/13 R234, R236, R237) -/

/-- Where an operand lies in the own tile: its elements, scales and masks. The rows of an `mmas` operand are `pitch`
bytes apart and turned by `skew` lines; those of `mma` follow one another with no gap. -/
structure Opnd where
  base : Place
  scales : Place
  mask : Place
  spread : Bool
  per : Nat
  ebits : Nat
  pitch : Nat
  skew : Nat
  deriving DecidableEq, Repr

/-- The byte at which a row of an `mmas` operand begins, from its base. -/
def rowOff (pitch skew r : Nat) : Nat := r * pitch + 64 * (r * skew % 32)

/-- The bit position of stored element k of row r, from the base. -/
def Opnd.bitAt (o : Opnd) (r k : Nat) : Nat :=
  if o.spread then 8 * rowOff o.pitch o.skew r + k * o.ebits else (r * o.per + k) * o.ebits

/-- The bytes of stored elements k to k + n − 1 of a row. -/
def Opnd.range (o : Opnd) (r k n : Nat) : Place × Nat :=
  let lo := o.bitAt r k / 8
  let hi := (o.bitAt r k + n * o.ebits + 7) / 8
  (⟨o.base.sp, o.base.off + lo⟩, hi - lo)

/-- Stored A elements of a row. -/
def storedK (r : MeRegs) : Nat := if mePat r = 0 then meK r else meK r / 2

/-- Scale blocks along k, and mask bytes of a row. -/
def scaleBlocks (r : MeRegs) : Nat := (meK r + meBlk r - 1) / meBlk r
def maskBytes (r : MeRegs) : Nat := if mePat r = 1 then (meK r + 7) / 8 else meK r / 8

/-- Bytes rounded up to a line. -/
def up64 (n : Nat) : Nat := (n + 63) / 64 * 64

/-- Where the parts of `mma`'s A and B start, from their pointers, and where they end (spec/13 R234). -/
def aElems (r : MeRegs) : Nat := (meM r * storedK r * (fmtEl (meFa r)).bits + 7) / 8
def aScalesAt (r : MeRegs) : Nat := up64 (aElems r)
def aScalesEnd (r : MeRegs) : Nat := if meSa r then aScalesAt r + meM r * scaleBlocks r else aElems r
def aMasksAt (r : MeRegs) : Nat := up64 (aScalesEnd r)
def aExtent (r : MeRegs) : Nat := if mePat r = 0 then aScalesEnd r else aMasksAt r + meM r * maskBytes r
def bElems (r : MeRegs) : Nat := (meK r * meN r * (fmtEl (meFb r)).bits + 7) / 8
def bScalesAt (r : MeRegs) : Nat := up64 (bElems r)
def bExtent (r : MeRegs) : Nat := if meSb r then bScalesAt r + scaleBlocks r * meN r else bElems r

/-- A place with bytes added. -/
def Place.plus (p : Place) (n : Nat) : Place := ⟨p.sp, p.off + n⟩

/-- The operands of a queued command, for its tile. -/
def State.opndA (s : State) (t : Nat) (c : MxCmd) : Opnd :=
  let r := c.regs
  let eb := (fmtEl (meFa r)).bits
  if c.op = .mmas then
    ⟨s.placeAt t (vget c.desc 0 0), s.placeAt t (vget c.desc 2 0), s.placeAt t (vget c.desc 3 0), true, storedK r, eb,
      bits (vget c.desc 1 0) 19 0, bits (vget c.desc 1 0) 36 32⟩
  else
    let p := s.placeAt t c.a
    ⟨p, p.plus (aScalesAt r), p.plus (aMasksAt r), false, storedK r, eb, 0, 0⟩

def State.opndB (s : State) (t : Nat) (c : MxCmd) : Opnd :=
  let r := c.regs
  let eb := (fmtEl (meFb r)).bits
  if c.op = .mmas then
    ⟨s.placeAt t (vget c.desc 4 0), s.placeAt t (vget c.desc 6 0), ⟨.edge, 0⟩, true, meN r, eb,
      bits (vget c.desc 5 0) 19 0, bits (vget c.desc 5 0) 36 32⟩
  else
    let p := s.placeAt t c.b
    ⟨p, p.plus (bScalesAt r), ⟨.edge, 0⟩, false, meN r, eb, 0, 0⟩

/-- The numbers from lo to hi − 1. -/
def span (lo hi : Nat) : List Nat := (List.range (hi - lo)).map fun i => lo + i

/-- The rows and the k of an array step. -/
def stepSpan (r : MeRegs) (step : Nat) : (Nat × Nat) × (Nat × Nat) :=
  let rb := step / chunksK r * stepRows r
  let kc := step % chunksK r * stepK r
  ((rb, min (meM r) (rb + stepRows r)), (kc, min (meK r) (kc + stepK r)))

/-- The bytes that an array step of `mma` or `mmas` reads. -/
def State.arrayReads (s : State) (t : Nat) (c : MxCmd) (step : Nat) : List (Place × Nat) :=
  let r := c.regs
  let ((i0, i1), (k0, k1)) := stepSpan r step
  let a := s.opndA t c
  let b := s.opndB t c
  let half := if mePat r = 0 then 1 else 2
  let nb := scaleBlocks r
  let mb := maskBytes r
  let b0 := k0 / meBlk r
  let b1 := (k1 - 1) / meBlk r + 1
  let g0 := k0 / 8
  let g1 := (k1 + 7) / 8
  (span i0 i1).map (fun i => a.range i (k0 / half) ((k1 - k0) / half))
    ++ (span k0 k1).map (fun k => b.range k 0 (meN r))
    ++ (if meSa r then (span i0 i1).map (fun i => (a.scales.plus (i * nb + b0), b1 - b0)) else [])
    ++ (if mePat r = 0 then [] else (span i0 i1).map (fun i => (a.mask.plus (i * mb + g0), g1 - g0)))
    ++ (if meSb r then [(b.scales.plus (b0 * meN r), (b1 - b0) * meN r)] else [])

/-! ### Transfer steps (spec/13 R233, R238, R239) -/

/-- The bytes of an element in memory. -/
def transferSize (op : MxOp) (r : MeRegs) : Nat :=
  match op with
  | .mldRaw | .mdrainRaw => 9
  | .mdrain | .mdrainRows => if meMode r = 2 then 4 else (fmtEl (meFc r)).bits / 8
  | _ => (fmtEl (meFc r)).bits / 8

/-- The command writes memory. -/
def MxOp.drains : MxOp → Bool
  | .mdrain | .mdrainRaw | .mdrainRows => true
  | _ => false

/-- One value for each row. -/
def perRow (op : MxOp) (r : MeRegs) : Bool := (op == .mdrain || op == .mdrainRows) && meMode r == 3

/-- The bytes of the region that is checked. -/
def transferExtent (op : MxOp) (r : MeRegs) : Nat :=
  (if perRow op r then meM r else meM r * meN r) * transferSize op r

/-- The elements that a transfer command covers, with their byte offsets, in address order. -/
def transferElems (c : MxCmd) : List (Nat × Nat × Nat) :=
  let r := c.regs
  let z := transferSize c.op r
  let rows := (List.range (meM r)).filter fun i => c.op != .mdrainRows || meRow r i == c.core
  if perRow c.op r then rows.map fun i => (i, 0, i * z)
  else rows.flatMap fun i => (List.range (meN r)).map fun j => (i, j, (i * meN r + j) * z)

/-- The 256-byte blocks that hold a byte of an element of z bytes, in address order; `off` is the pointer's offset. -/
def transferBlocks (off z : Nat) (es : List (Nat × Nat × Nat)) : List Nat :=
  (es.flatMap fun e => span ((off + e.2.2) / 256) ((off + e.2.2 + z - 1) / 256 + 1)).eraseDups

/-- The elements of a transfer step: those whose first byte lies in its block. -/
def transferStep (c : MxCmd) (step : Nat) : List (Nat × Nat × Nat) :=
  let off := offField c.a
  let es := transferElems c
  match (transferBlocks off (transferSize c.op c.regs) es)[step]? with
  | some b => es.filter fun e => (off + e.2.2) / 256 == b
  | none => []

/-- The steps of a command. -/
def MxCmd.steps (c : MxCmd) : Nat :=
  match c.op with
  | .mma | .mmas => mmaSteps c.regs
  | .mzero | .skim _ _ => 1
  | _ => (transferBlocks (offField c.a) (transferSize c.op c.regs) (transferElems c)).length

/-- The path of a command (spec/13 R242). -/
def MxOp.path : MxOp → MxPath
  | .mma | .mmas | .mzero | .skim _ _ => .array
  | _ => .transfer

/-! ### Leases (spec/13 R244) -/

/-- The bytes that a step of a leasing command reads, outside window 0x0. -/
def State.stepReads (s : State) (t : Nat) (c : MxCmd) (step : Nat) : List (Place × Nat) :=
  match c.op with
  | .mma | .mmas => s.arrayReads t c step
  | .mld | .mldRaw =>
    if win c.a = 0 then []
    else (transferStep c step).map fun e => ((s.placeAt t c.a).plus e.2.2, transferSize c.op c.regs)
  | _ => []

/-- The leases of a command: each line with each step that reads it. -/
def State.leasesOf (s : State) (t : Nat) (c : MxCmd) : List (Nat × Lease) :=
  (List.range c.steps).flatMap fun k => (s.stepReads t c k).flatMap fun (p, n) =>
    match p.sp with
    | .spad u => (linesOf p.off n).map fun l => (u, ⟨l, t, c.core, c.id, k⟩)
    | _ => []

/-- The leases of a command placed, in the context of its plot, which may wait for its tile; what the folds of its words hold is
in the words first, there where the plot stands (log 23; spec/18 R308). -/
def State.placeLeases (s : State) (t : Nat) (c : MxCmd) : State :=
  let plot := (s.getTile t).ctx.plot.getD 0
  (s.leasesOf t c).foldl (fun s (u, l) =>
    (if (s.getTile u).ctx.ofPlot plot then s.foldTouched u l.line 64 else s).onCtxOf u plot fun x =>
      { x with leases := x.leases ++ [l] }) s

/-! ### The queues (spec/13 R230) -/

/-- The panel that a command names (spec/13 R228). -/
def panelOf (core : Nat) (p : BitVec 5) : Nat := if p = 0 then core else p.toNat - 8

/-- A command queued, with its leases; a full queue stalls the slot. -/
def mxPush (op : MxOp) (p : BitVec 5) (a b : Word) (desc : Vector Word 8) (s : State) : Out :=
  let core := s.cur.core
  let q := vget s.tile.ctx.mq core []
  if 16 ≤ q.length then stalled s
  else
    let c : MxCmd := ⟨s.tile.ctx.nextCmd, core, s.cur.slot, s.slot.run.off, s.stamp, op, panelOf core p, a, b, desc,
      vget s.tile.ctx.fctx core (Vector.replicate 18 0), 0, 0, false, 0, .ready, s.now + 4, [], [], 0⟩
    let s := { s with
      tile := { s.tile with ctx := { s.tile.ctx with mq := vset s.tile.ctx.mq core (q ++ [c]), nextCmd := c.id + 1 } }
      stamp := s.stamp + 1 }
    done (s.placeLeases s.cur.tile c)

/-- The me. registers of the slot at hand. -/
def State.me (s : State) : MeRegs := vget s.tile.ctx.fctx s.cur.core (Vector.replicate 18 0)

/-- No descriptors. -/
def noDesc : Vector Word 8 := Vector.replicate 8 0

/-! ### `mma`, `mmas` and `mzero` -/

/-- The window rule of an operand: window 0x8 or 0x9, or window 0xA or 0xB naming the own tile (spec/12 R225). -/
def ownOperand (s : State) (p : Word) : Bool := s.ownSpad p || (win p == 0xB && bits p 47 32 == s.tile.ctx.n)

/-- The checks of a contiguous operand (spec/12 R225). Those of A come before those of B, as the pseudocode has them, which
spec/03 R54 lets order the checks (DEDUCED: log 71). -/
def checkOperand (p : Word) (n : Nat) (k : State → Out) (s : State) : Out :=
  checkEnds p n (fun s =>
    if !ownOperand s p then trap .windowRange p s
    else if p.toNat % 64 ≠ 0 then trap .misaligned p s
    else k s) s

def execMma (a b : Reg) (p : BitVec 5) (s : State) : Out :=
  gateC [.s a false, .s b false] [] (fun s =>
    let r := s.me
    match mmaBad r with
    | some x => trap .windowRange x s
    | none =>
      checkOperand (s.slot.s a) (aExtent r) (fun s =>
        checkOperand (s.slot.s b) (bExtent r) (fun s =>
          mxPush .mma p (s.slot.s a) (s.slot.s b) noDesc s) s) s) s

/-- Why check 1 refuses a descriptor pointer (spec/13 R237). -/
def State.descCause (s : State) (p : Word) : Option Cause :=
  match s.ptrCause p 32 1 false with
  | some c => some c
  | none => if !s.ownSpad p then some .windowRange else if p.toNat % 32 ≠ 0 then some .misaligned else none

/-- The first cause of one check of several pointers, in the order of spec/03 R54 item 6: a WINDOW_RANGE of any of them, then a
FOREIGN_WINDOW, then a MISALIGNED; pointers of one cause in order. -/
def firstCause (xs : List (Word × Option Cause)) : Option (Cause × Word) :=
  [Cause.windowRange, .foreignWindow, .misaligned].findSome? fun c => (xs.find? fun x => x.2 == some c).map fun x => (c, x.1)

/-- A check of several pointers. -/
def checkAll (xs : State → List (Word × Option Cause)) (k : State → Out) (s : State) : Out :=
  match firstCause (xs s) with
  | some (c, p) => trap c p s
  | none => k s

/-- The four words of a descriptor. -/
def State.descWords (s : State) (p : Word) : List Word :=
  let q := s.placeOf p
  (List.range 4).map fun i => BitVec.ofNat 64 (leNat (s.readPlace (q.plus (8 * i)) 8))

/-- A reserved field or a PITCH that check 2 refuses. -/
def descBad (w : Word) : Bool := bits w 63 37 != 0 || bits w 31 20 != 0 || bits w 5 0 != 0

/-- The regions of an `mmas` operand that check 4 looks at, each with the pointer that a trap reports: rows, then scales, then
masks. A row whose start leaves its offset field has no pointer of its own; it is out of range, and is reported by the sum of
BASE and its offset, the offset that the instruction has added (spec/06 R93; DEDUCED: log 71). -/
def descRegions (tiles : Nat) (base pd : Word) (rows bytes : Nat) (sc : Option (Word × Nat)) (mk : Option (Word × Nat)) :
    List (Option Word × Word × Nat) :=
  ((List.range rows).map fun r =>
      let off := rowOff (bits pd 19 0) (bits pd 36 32) r
      (addOff tiles base off, plusOff base off, bytes))
    ++ (sc.toList ++ mk.toList).map fun x => (some x.1, x.1, x.2)

/-- Why R93 or the window rule refuses a region. -/
def State.regionCause (s : State) (x : Option Word × Word × Nat) : Word × Option Cause :=
  match x.1 with
  | none => (x.2.1, some .windowRange)
  | some p =>
    match s.endsCause p x.2.2 with
    | some (c, q) => (q, some c)
    | none => (p, if ownOperand s p then none else some .windowRange)

/-- Check 4 of one operand: its regions, and the alignment of BASE. -/
def State.operandCauses (s : State) (base pd : Word) (rows bytes : Nat) (sc mk : Option (Word × Nat)) :
    List (Word × Option Cause) :=
  (descRegions s.tiles base pd rows bytes sc mk).map s.regionCause
    ++ [(base, if base.toNat % 64 ≠ 0 then some .misaligned else none)]

/-- The descriptors of `mmas` cannot be read yet: an earlier access of the slot to them is on its way, or a bank is not free
(spec/06 R96; spec/07 R119, R122). -/
def State.descWait (s : State) (here : List (Place × Nat)) : Bool :=
  (s.flights.any fun f => s.mine f && f.waiting && f.req.ranges.any fun x => here.any fun y => sameWord x y) || !s.banksFree here

/-- The eight words of two descriptors, hidden entries folded first, with the banks taken for them. -/
def State.takeDescs (s : State) (pa pb : Word) : Vector Word 8 × State :=
  let here : List (Place × Nat) := [(s.placeOf pa, 32), (s.placeOf pb, 32)]
  let s := here.foldl (fun s x => s.foldTouched s.cur.tile x.1.off x.2) (s.takeBanks here)
  ((List.range 8).foldl (fun v i => vset v i ((s.descWords pa ++ s.descWords pb)[i]?.getD 0)) noDesc, s)

/-- `mmas` once its descriptors have been read: checks 2 to 5 of R237 in order, then the queue. -/
def mmasWith (pa pb : Word) (d : Vector Word 8) (p : BitVec 5) (s : State) : Out :=
  let da := vget d 1 0
  let db := vget d 5 0
  let r := s.me
  if descBad da then trap .windowRange pa s
  else if descBad db then trap .windowRange pb s
  else
    match mmaBad r with
    | some x => trap .windowRange x s
    | none =>
      let sa := if meSa r then some (vget d 2 0, meM r * scaleBlocks r) else none
      let ma := if mePat r = 0 then none else some (vget d 3 0, meM r * maskBytes r)
      let sb := if meSb r then some (vget d 6 0, scaleBlocks r * meN r) else none
      let rowA := (storedK r * (fmtEl (meFa r)).bits + 7) / 8
      let rowB := (meN r * (fmtEl (meFb r)).bits + 7) / 8
      checkAll (fun s => s.operandCauses (vget d 0 0) da (meM r) rowA sa ma
          ++ s.operandCauses (vget d 4 0) db (meK r) rowB sb none) (fun s =>
        if vget d 2 0 ≠ 0 ∧ !meSa r then trap .windowRange (vget d 2 0) s
        else if vget d 3 0 ≠ 0 ∧ mePat r = 0 then trap .windowRange (vget d 3 0) s
        else if vget d 6 0 ≠ 0 ∧ !meSb r then trap .windowRange (vget d 6 0) s
        else if vget d 7 0 ≠ 0 then trap .windowRange (vget d 7 0) s
        else mxPush .mmas p pa pb d { s with slot := { s.slot with notBefore := s.now + 6 } }) s

/-- `mmas`: the five checks of R237 in order, both operands in each. It waits for the slot's own earlier accesses to the
descriptors and for their banks; the read takes 6 cycles. Descriptors that cannot be read trap ECC_UNCORRECTABLE at the
instruction (spec/18 R305; log 55). Hidden entries of their words are folded by the read, and stay folded where a later check
traps (DESIGN CHOICE: log 66). -/
def execMmas (a b : Reg) (p : BitVec 5) (s : State) : Out :=
  gateC [.s a false, .s b false] [] (fun s =>
    let pa := s.slot.s a
    let pb := s.slot.s b
    checkAll (fun s => [(pa, s.descCause pa), (pb, s.descCause pb)]) (fun s =>
      let here := [(s.placeOf pa, 32), (s.placeOf pb, 32)]
      if s.descWait here then stalled s
      else if s.unreadable [(s.placeOf pa, 32)] then trap .ecc pa s
      else if s.unreadable [(s.placeOf pb, 32)] then trap .ecc pb s
      else
        let (d, s) := s.takeDescs pa pb
        mmasWith pa pb d p s) s) s

def execMzero (p : BitVec 5) (s : State) : Out := classed (fun s => mxPush .mzero p 0 0 noDesc s) s

/-! ### Loads and drains (spec/13 R238, R239) -/

/-- The issue of a transfer command. -/
def transferIssue (op : MxOp) (a : Reg) (p : BitVec 5) (s : State) : Out :=
  gateC [.s a false] [] (fun s =>
    let r := s.me
    let x := s.slot.s a
    let raw := op == .mldRaw || op == .mdrainRaw
    match transferBad r raw (op == .mdrainRows) with
    | some y => trap .windowRange y s
    | none =>
      checkPtr x (transferExtent op r) (if raw then 8 else transferSize op r) false (fun s =>
        if op.drains ∧ win x = 0xB then trap .caskWrite x s else mxPush op p x 0 noDesc s) s) s

def execMld (a : Reg) (p : BitVec 5) (s : State) : Out := transferIssue .mld a p s
def execMdrain (a : Reg) (p : BitVec 5) (s : State) : Out := transferIssue .mdrain a p s
def execMldRaw (a : Reg) (p : BitVec 5) (s : State) : Out := transferIssue .mldRaw a p s
def execMdrainRaw (a : Reg) (p : BitVec 5) (s : State) : Out := transferIssue .mdrainRaw a p s
def execMdrainRows (a : Reg) (p : BitVec 5) (s : State) : Out := transferIssue .mdrainRows a p s

/-! ### Waiting and querying (spec/13 R240, R241) -/

/-- `mwait` waits for the commands that were queued when it issued; its completion is a join. -/
def execMwait (d : Reg) (s : State) : Out :=
  gate [] [.s d] (fun s =>
    let q := vget s.tile.ctx.mq s.cur.core []
    let (last, errs) := match s.slot.mwait with
      | some x => x
      | none => (s.tile.ctx.nextCmd, 0)
    if q.any fun c => decide (c.id < last) then stalled { s with slot := { s.slot with mwait := some (last, errs) } }
    else writeDone d (BitVec.ofNat 64 (min errs 65535)) { s with slot := { s.slot with snap := [] } }) s

/-- Panel p is locked: a head command that names it has started (spec/13 R243). -/
def Ctx.lockedBy (c : Ctx) (p : Nat) : Option Nat :=
  (List.range 8).find? fun k =>
    match vget c.mq k [] with
    | h :: _ => h.started && h.panel == p && (match h.op with
      | .skim _ _ => false
      | _ => true)
    | [] => false

/-- The snapshot of `mqry`. -/
def mqryWord (c : Ctx) (core : Nat) : Nat :=
  c.ramp.level * 2 ^ 40 + c.queued .me % 256 * 2 ^ 32 + (vget c.mq core []).length * 2 ^ 24
    + ((List.range 8).map fun p => if (c.lockedBy p).isSome then 2 ^ (16 + p) else 0).sum

def execMqry (d : Reg) (s : State) : Out :=
  gate [] [.s d] (fun s => done (s.later (.s d) .none false (mqryWord s.tile.ctx s.cur.core) 3)) s

end Sys2Proof.Machine
end

