-- ==== Sys2Proof/Machine/MatrixStep.lean ====
section
/-!
DEFINITION. Sys2Proof/Machine/MatrixStep.lean: the steps of the matrix unit: grants, panel updates, loads and drains, ends
of commands, and the ramp limiter (spec/10 R194 to R196; spec/12 R225 to R227; spec/13 R233 to R248; spec/15 R263, R264;
spec/16 R278, R280).
-/
namespace Sys2Proof.Machine

/-! ### Elements (spec/10 R194) -/

/-- COUNT of an element. -/
def elCount (e : Elem) : Nat := e.toNat / 2 ^ 56

/-- An element from its count and its 56-bit value. -/
def elOf (count v : Nat) : Elem := BitVec.ofNat 72 (count % 65536 * 2 ^ 56 + v % 2 ^ 56)

/-- The value of an element in integer or float form. -/
def elVal (int : Bool) (e : Elem) : Val :=
  if int then .int (BitVec.ofNat 56 e.toNat).toInt else Ty.decode .a56 (e.toNat % 2 ^ 56)

/-- The place of an element in a tile's panels. -/
def elKey (p i j : Nat) : Nat := 4096 * p + 64 * i + j

/-- An element of a panel. -/
def Ctx.elem (c : Ctx) (p i j : Nat) : Elem := Sparse.get (0 : Elem) c.panels (elKey p i j)

/-- An element of a panel set. -/
def Ctx.setElem (c : Ctx) (p i j : Nat) (e : Elem) : Ctx := { c with panels := Sparse.set (0 : Elem) c.panels (elKey p i j) e }

/-! ### The update of an element (spec/10 R195) -/

/-- The sum of a group's products, with the flags of invalid products. The products are added from the last to the first, so
that infinities of both signs set NV only where they meet before a quiet NaN does: the rule is silent on a group that holds all
three (spec/10 R195; DESIGN CHOICE: log 68). -/
def groupSum : List (Val × Val) → Val × Nat
  | [] => (.absent, 0)
  | (a, b) :: r =>
    let (p, f) := Val.mul a b
    let (s, g) := groupSum r
    match s with
    | .absent => (p, f)
    | _ =>
      let (v, h) := Val.add .rne p s
      (v, f ||| g ||| h)

/-- An integer clamped to the 56 bits of an element, with ISAT. -/
def clamp56 (x : Int) : Nat × Nat :=
  if 2 ^ 55 - 1 < x then (2 ^ 55 - 1, fISAT)
  else if x < -(2 ^ 55) then (2 ^ 55, fISAT)
  else ((x % 2 ^ 56).toNat, 0)

/-- The integer that a finite value of the integer form is. -/
def Val.toInt : Val → Int
  | .fin neg num den e => let (p, q) := inUnits num den e 0; finNum neg (p / q)
  | _ => 0

/-- One group added to an element. -/
def addGroup (int : Bool) (e : Elem) (ps : List (Val × Val)) : Elem × Nat :=
  let ps := ps.filter fun x => x.1 != .absent && x.2 != .absent
  if ps.isEmpty then (e, 0)
  else
    let (s, f) := groupSum ps
    let count := min (elCount e + ps.length) 65535
    if int then
      let (v, g) := clamp56 ((elVal true e).toInt + s.toInt)
      (elOf count v, f ||| g)
    else
      let (v, g) := Val.add .rne (elVal false e) s
      let (c, h) := Ty.round .a56 .rne v
      (elOf count c, f ||| g ||| h)

/-- A list cut into groups of 16; the fuel is its length. -/
def groups16 {α : Type} : Nat → List α → List (List α)
  | 0, _ => []
  | k + 1, xs => if xs.isEmpty then [] else xs.take 16 :: groups16 k (xs.drop 16)

/-- Every group of a step added to an element, in increasing k. -/
def addGroups (int : Bool) (e : Elem) (ps : List (Val × Val)) : Elem × Nat :=
  (groups16 ps.length ps).foldl (fun x g =>
    let (e, f) := addGroup int x.1 g
    (e, x.2 ||| f)) (e, 0)

/-! ### Operands (spec/13 R234 to R236) -/

/-- n bytes at a place as a number. -/
def State.numAt (s : State) (p : Place) (n : Nat) : Nat := leNat (s.readPlace p n)

/-- The code of stored element k of a row. -/
def State.codeAt (s : State) (o : Opnd) (r k : Nat) : Nat :=
  let b := o.bitAt r k
  s.numAt (o.base.plus (b / 8)) ((b % 8 + o.ebits + 7) / 8) / 2 ^ (b % 8) % 2 ^ o.ebits

/-- An element under its block scale: ABSENT under an ABSENT scale, else the product (spec/10 R188). -/
def scaleBy (v : Val) (scale : Option Nat) : Val :=
  match scale with
  | none => v
  | some c =>
    match v, Ty.decode (.el .e8s) c with
    | .absent, _ | _, .absent => .absent
    | v, x => (Val.mul v x).1

/-- The stored position of element k of row i, none where it is pruned. -/
def State.storedAt (s : State) (r : MeRegs) (o : Opnd) (i k : Nat) : Option Nat :=
  if mePat r = 0 then some k
  else
    let g := if mePat r = 1 then 4 else 8
    let n := k / g
    let p := k % g
    let byte := s.numAt (o.mask.plus (i * maskBytes r + if mePat r = 1 then n / 2 else n)) 1
    let m := if mePat r = 1 then byte / 2 ^ (4 * (n % 2)) % 16 else byte
    let below := ((List.range p).filter fun q => m / 2 ^ q % 2 == 1).length
    if m / 2 ^ p % 2 = 1 ∧ below < g / 2 then some (g / 2 * n + below) else none

/-- a(i, k), ABSENT where it is pruned. -/
def State.aVal (s : State) (c : MxCmd) (o : Opnd) (i k : Nat) : Val :=
  let r := c.regs
  match s.storedAt r o i k with
  | none => .absent
  | some q =>
    scaleBy (Ty.decode (fmtTy (meFa r)) (s.codeAt o i q))
      (if meSa r then some (s.numAt (o.scales.plus (i * scaleBlocks r + k / meBlk r)) 1) else none)

/-- b(k, j). -/
def State.bVal (s : State) (c : MxCmd) (o : Opnd) (k j : Nat) : Val :=
  let r := c.regs
  scaleBy (Ty.decode (fmtTy (meFb r)) (s.codeAt o k j))
    (if meSb r then some (s.numAt (o.scales.plus (k / meBlk r * meN r + j)) 1) else none)

/-- An array step of `mma` or `mmas`: the panels and the flags. -/
def State.arrayStep (s : State) (t : Nat) (c : MxCmd) : Ctx × Nat :=
  let ((i0, i1), (k0, k1)) := stepSpan c.regs c.step
  let oa := s.opndA t c
  let ob := s.opndB t c
  let cols := (List.range (meN c.regs)).map fun j => (span k0 k1).map fun k => s.bVal c ob k j
  let int := intForm c.regs
  (span i0 i1).foldl (fun x i =>
    let row := (span k0 k1).map fun k => s.aVal c oa i k
    cols.zipIdx.foldl (fun x (col, j) =>
      let (e, f) := addGroups int (x.1.elem c.panel i j) (row.zip col)
      (x.1.setElem c.panel i j e, x.2 ||| f)) x) ((s.getTile t).ctx, 0)

/-- A panel zeroed. -/
def Ctx.zeroPanel (c : Ctx) (p : Nat) : Ctx := { c with panels := c.panels.filter fun x => x.1 / 4096 != p }

/-! ### Loads and drains (spec/10 R196; spec/13 R238, R239) -/

/-- The element that `mld` makes of a value (spec/13 R238); a signalling NaN raises NV (spec/10 R181). -/
def loadElem (int : Bool) (rnd : Rnd) (q : Val) : Elem × Nat :=
  match q with
  | .absent => (0, 0)
  | .nan signalling => if int then (elOf 1 0, fNV) else (elOf 1 (Ty.nan .a56), if signalling then fNV else 0)
  | .inf neg =>
    if int then (elOf 1 (if neg then 2 ^ 55 else 2 ^ 55 - 1), fISAT) else (elOf 1 ((Ty.inf .a56 neg).getD 0), 0)
  | .fin neg num den e =>
    if int then
      let (p, d) := inUnits num den e 0
      let (v, f) := clamp56 (finNum neg (rintMag rnd neg p d))
      (elOf 1 v, f ||| if p % d = 0 then 0 else fNX)
    else
      let (v, f) := Ty.round .a56 rnd q
      (elOf 1 v, f)

/-- The code that a drain writes for an element without a contributor. -/
def emptyCode (t : Ty) : Nat × Nat :=
  match t.absent with
  | some c => (c, 0)
  | none => (0, fNV)

/-- CNTOV of an element that a drain reads. -/
def cntov (e : Elem) : Nat := if elCount e = 65535 then fCNTOV else 0

/-- What a drain writes for one element in sum, mean or count mode. -/
def drainElem (int : Bool) (mode : Nat) (t : Ty) (rnd : Rnd) (e : Elem) : Nat × Nat :=
  let f := cntov e
  if mode = 2 then (elCount e, f)
  else if elCount e = 0 then emptyCode t
  else
    let v := elVal int e
    let v := if mode = 1 then (Val.div v (.int (elCount e))).1 else v
    let (c, g) := t.round rnd v
    (c, f ||| g)

/-- What a drain in amax mode writes for a row. -/
def amaxRow (int : Bool) (t : Ty) (rnd : Rnd) (es : List Elem) : Nat × Nat :=
  let f := es.foldl (fun f e => f ||| cntov e) 0
  let vs := (es.filter fun e => elCount e != 0).map fun e => (elVal int e).abs
  match vs with
  | [] => let (c, g) := emptyCode t; (c, f ||| g)
  | v :: r =>
    let m := r.foldl (fun m x => if m.isNan || (!x.isNan && !m.below x) then m else x) v
    let (c, g) := t.round rnd m
    (c, f ||| g)

/-- The bytes and the flags of an element of a drain step. -/
def drainBytes (c : MxCmd) (x : Ctx) (i j : Nat) : List Byte × Nat :=
  let r := c.regs
  let z := transferSize c.op r
  if c.op = .mdrainRaw then (leBytes 9 (x.elem c.panel i j).toNat, 0)
  else
    let int := intForm r
    let t := fmtTy (meFc r)
    let (v, f) := if perRow c.op r then amaxRow int t (meRnd r) ((List.range (meN r)).map fun j => x.elem c.panel i j)
      else drainElem int (meMode r) t (meRnd r) (x.elem c.panel i j)
    (leBytes z v, f)

/-- The element that a load step sets from its bytes. -/
def loadBytes (c : MxCmd) (bs : List Byte) : Elem × Nat :=
  if c.op = .mldRaw then (BitVec.ofNat 72 (leNat bs), 0)
  else loadElem (intForm c.regs) (meRnd c.regs) (Ty.decode (fmtTy (meFc c.regs)) (leNat bs))

/-- The places of each element of the next step of a transfer; a drain that would write record memory fails there
(spec/02 R24, spec/12 R226, spec/13 R245). -/
def State.transferPlaces (s : State) (t plot : Nat) (c : MxCmd) : Except Plan (List (List (Place × Nat))) :=
  let z := transferSize c.op c.regs
  let use : XUse := if c.op.drains then .write else .read
  match eachPlaces ((transferStep c c.step).map fun e => s.enginePlaces t [] (plusOff c.a e.2.2) z use) with
  | .error e => .error e
  | .ok ps => if c.op.drains ∧ s.guarded plot ps.flatten then .error (.fail .protection) else .ok ps

/-- The panel's elements set from the bytes of a load step, in the order of its elements, with the flags. -/
def State.loadSet (s : State) (t : Nat) (c : MxCmd) (bs : List Byte) : State × Nat :=
  let r := ((transferStep c c.step).zip c.places).foldl (fun (x : State × Nat × List Byte) (e, ps) =>
    let (v, g) := loadBytes c (x.2.2.take (extent ps))
    (x.1.onCtx t fun y => y.setElem c.panel e.1 e.2.1 v, x.2.1 ||| g, x.2.2.drop (extent ps))) (s, 0, bs)
  (r.1, r.2.1)

/-- What a drain step writes, in address order, with its flags. -/
def drainDo (c : MxCmd) (x : Ctx) : List Byte × Nat :=
  (transferStep c c.step).foldl (fun (y : List Byte × Nat) e =>
    let (bs, g) := drainBytes c x e.1 e.2.1
    (y.1 ++ bs, y.2 ||| g)) ([], 0)

/-- Whose command a matrix command is. -/
def MxCmd.issuer (c : MxCmd) (t plot : Nat) : Issuer := ⟨t, plot, 2, c.core, c.slot, c.owner, c.seq⟩

/-- A drain step performed: the machine, the flags and the bytes written. Writes within the own scratchpad are made in the
step's last cycle, and take their banks before any access that comes to them later; others are posted, and so are those of the
steps behind one that is not applied yet, since writes are made in step order (spec/06 R96; spec/08 R170; spec/13 R245). -/
def State.drainStep (s : State) (t plot : Nat) (c : MxCmd) : State × Nat × Nat :=
  let (bs, fl) := drainDo c (s.getTile t).ctx
  let dst : Span := ⟨plot, none, c.places.flatten⟩
  let f := s.chunk (c.issuer t plot) dst bs
  let s :=
    if bs.isEmpty then s
    else if inSpad t dst.ps && !(dst.ps.any fun a => s.heldOff f a.1 a.2) && !s.forkWaits t plot c.owner c.seq dst.ps
        && !s.chunkWaits f then
      (s.takeBanks dst.ps).writeRanges dst.ps bs
    else { s with flights := s.flights ++ [f] }
  (s, fl, bs.length)

/-- The bytes of a load step whose 4 cycles are over or whose data has come, with the machine. One within the own scratchpad
reads them in its last cycle, once what its fork publishes to it has been written; another has asked for them at its grant
(spec/06 R96, R103; spec/08 R169; spec/13 R245). -/
def State.loaded (s : State) (t plot : Nat) (c : MxCmd) : EngineRead × State :=
  let ps := c.places.flatten
  if inSpad t ps then
    if s.forkWaits t plot c.owner c.seq ps then (.wait, s)
    else if s.unreadable ps then (.bad, s)
    else
      let (bs, s) := (s.takeBanks ps).readRanges ps
      (.bytes bs, s)
  else
    match s.fetchOf t 2 c.core c.seq with
    | some (n, f) => (f.fetched, s.dropFlight n)
    | none => (.wait, s)

/-! ### Grants (spec/13 R242, R243) -/

/-- The head of a core's queue. -/
def Ctx.mxHead (c : Ctx) (core : Nat) : Option MxCmd := (vget c.mq core []).head?

/-- The head of a core's queue changed. -/
def Ctx.onMx (c : Ctx) (core : Nat) (f : MxCmd → MxCmd) : Ctx :=
  { c with mq := vset c.mq core (match vget c.mq core [] with
    | h :: r => f h :: r
    | [] => []) }

/-- The command names a panel. -/
def MxOp.named : MxOp → Bool
  | .skim _ _ => false
  | _ => true

/-- The arbiter of a path. -/
def Ctx.arb (c : Ctx) : MxPath → Arbiter
  | .array => c.arrayArb
  | .transfer => c.transferArb

/-- The arbiter of a path replaced. -/
def Ctx.setArb (c : Ctx) (p : MxPath) (a : Arbiter) : Ctx :=
  match p with
  | .array => { c with arrayArb := a }
  | .transfer => { c with transferArb := a }

/-- A core is eligible on a path: its head waits there for its next step, in the cycle from which it may be granted
(spec/15 R262), and no other core's lock blocks it. A transfer step begins only once its pages are translated
(spec/13 R245): a head that waits for a page is passed over, with no lock and no credit taken (DEDUCED: log 76). -/
def State.eligible (s : State) (t plot : Nat) (p : MxPath) (core : Nat) : Bool :=
  let c := (s.getTile t).ctx
  match c.mxHead core with
  | none => false
  | some h =>
    h.st == .ready && h.op.path == p && decide (h.step < h.steps ∧ h.since ≤ s.clk t)
      && !(h.op.named && (c.lockedBy h.panel).any fun k => k != core)
      && (p == .array || (match s.transferPlaces t plot h with
        | .ok _ => true
        | .error _ => false))

/-- The cores after a holder, the holder last. -/
def coresAfter (h : Nat) : List Nat := (List.range 8).map fun i => (h + 1 + i) % 8

/-- WEIGHT of a core (spec/13 R231). -/
def Ctx.weight (c : Ctx) (core : Nat) : Nat := bits (vget (vget c.fctx core (Vector.replicate 18 0)) 17 0) 3 0 + 1

/-- The choice of an arbiter: the new holder with its credit after the grant. -/
def State.arbiterPick (s : State) (t plot : Nat) (p : MxPath) : Option (Nat × Nat) :=
  let c := (s.getTile t).ctx
  let a := c.arb p
  if s.eligible t plot p a.holder ∧ 0 < a.credit then some (a.holder, a.credit - 1)
  else ((coresAfter a.holder).find? fun k => s.eligible t plot p k).map fun k => (k, c.weight k - 1)

/-- A head whose transfer fails before its step, or asks for a translation. -/
def State.mxPrepare (s : State) (t plot core : Nat) : Option State :=
  match (s.getTile t).ctx.mxHead core with
  | none => none
  | some h =>
    if h.st != .ready || h.op.path != .transfer || decide (h.steps ≤ h.step ∨ s.clk t < h.since) then none
    else
      match s.transferPlaces t plot h with
      | .error (.fail e) => some (s.onCtx t fun c => c.onMx core fun h => { h with st := .failed e.code })
      | .error (.miss va use) =>
        if s.wafer.xlates.any fun y => y.tile == t && y.who == .matrix core then none else some (s.miss t (.matrix core) va use)
      | _ => none

/-- A line put into a list by its offset. -/
def insertLine (l : Place) : List Place → List Place
  | [] => [l]
  | k :: ks => if l.off ≤ k.off then l :: k :: ks else k :: insertLine l ks

/-- The cask lines that an array step needs, in increasing address order: each bank gives one in a cycle, and none in its
refresh window (spec/13 R245, spec/06 R102, R103). -/
def State.caskLines (s : State) (t : Nat) (c : MxCmd) : List Place :=
  ((linesIn (s.arrayReads t c c.step)).filter fun l => match l.sp with
    | .cask _ => true
    | _ => false).foldr insertLine []

/-- The cycle in which every scratchpad line that an array step needs has been read: each bank gives one line every 2 cycles
through its operand port (spec/13 R245). -/
def State.fetchEnd (s : State) (t : Nat) (c : MxCmd) (beg : Nat) : Nat :=
  let lines := (linesIn (s.arrayReads t c c.step)).filter fun l => match l.sp with
    | .cask _ => false
    | _ => true
  ((List.range 32).map fun b =>
    let k := (lines.filter fun l => bankOf l.off == b).length
    if k = 0 then beg else beg + 2 * k - 1).foldl max beg

/-- The cycle in which a step that begins in a cycle can end, its level-cycles apart (spec/13 R245, spec/16 R280). -/
def State.stepTill (s : State) (t : Nat) (c : MxCmd) (beg : Nat) : Nat :=
  match c.op with
  | .mma | .mmas => s.fetchEnd t c beg
  | .skim n _ => beg + 4 * n - 1
  | _ => beg + 3

/-- The ramp at the grant of an array step: its periods run on where the step follows another without a cycle between,
and start at its first cycle otherwise; it ends a tail, whose level stands to the end of the cycle of the grant (spec/15 R263,
R264; spec/16 R280). -/
def Ramp.grant (r : Ramp) (now : Nat) (skim : Bool) : Ramp :=
  { r with
    tail := false, acc := 0, accAt := now + 1, beg := now + 1
    due := if r.ended = now ∧ !skim ∧ !r.cold then r.due else now + 1 }

/-- The level of the next period of a tail: it falls by the down step, and never below a ceiling that it still exceeds
(spec/15 R264; spec/16 R278). -/
def Ramp.tailNext (r : Ramp) : Nat := if r.ceil < r.level then max r.ceil (r.level - r.down) else r.level - r.down

/-- A tail that begins in the next cycle. -/
def Ramp.tailFrom (r : Ramp) (now : Nat) : Ramp := { r with tail := decide (0 < r.level), tailDue := now + 1, ended := now }

/-- The level of a period of a tail that begins in a cycle: the first one, right after the last step, holds the level unless
the ceiling has fallen below it. -/
def Ramp.tailLevel (r : Ramp) (now : Nat) : Nat := if now = r.ended + 1 ∧ r.level ≤ r.ceil then r.level else r.tailNext

/-- The next grant of a free path; before it, what the heads of the transfer path need. The granted step begins in the
next cycle. -/
def State.matrixGrant (s : State) (t : Nat) (p : MxPath) : Option State :=
  let x := s.getTile t
  match x.ctx.plot with
  | none => none
  | some plot =>
    if !s.works t .me || (x.ctx.arb p).running.isSome then none
    else
      match (if p = .transfer then (List.range 8).findSome? fun k => s.mxPrepare t plot k else none) with
      | some s => some s
      | none =>
        match s.arbiterPick t plot p with
        | none => none
        | some (k, credit) =>
          let now := s.clk t
          let (till, skim) := match x.ctx.mxHead k with
            | some h => (s.stepTill t h (now + 1), !h.op.named)
            | none => (now, false)
          let places := match x.ctx.mxHead k, p with
            | some h, .transfer => ((s.transferPlaces t plot h).toOption).getD []
            | _, _ => []
          let reads := match x.ctx.mxHead k, p with
            | some h, .array => if skim || h.op == .mzero then [] else s.caskLines t h
            | _, _ => []
          let s' := match x.ctx.mxHead k, p with
            | some h, .transfer =>
              if h.op.drains || inSpad t places.flatten then s
              else s.engineRead (h.issuer t plot) ⟨plot, none, places.flatten⟩ ⟨plot, none, []⟩
            | _, _ => s
          some (s'.onCtx t fun c =>
            let c := (c.setArb p ⟨k, credit, some k, till⟩).onMx k fun h =>
              { h with started := true, places := places, reads := reads, ts := (s.packet t t 3 1 2).ts }
            if p = .array then { c with ramp := c.ramp.grant now skim } else c)

/-- A step about a path of a tile. -/
def onPath (k : State → Nat → MxPath → Option State) (s : State) : Out :=
  match s.arg with
  | .path t p => .next ((k s t p).getD s)
  | _ => .next s

def execMatrixGrant (s : State) : Out := onPath State.matrixGrant s

/-! ### Ends of steps (spec/13 R244, R245) -/

/-- The leases of a command that a test names end, in the contexts of its plot. -/
def State.endLeases (s : State) (t : Nat) (c : MxCmd) (which : Lease → Bool) : State :=
  let plot := (s.getTile t).ctx.plot.getD 0
  ((s.leasesOf t c).map Prod.fst).eraseDups.foldl (fun s u => s.onCtxOf u plot fun x =>
    { x with leases := x.leases.filter fun l => !(l.tile == t && l.core == c.core && l.cmd == c.id && which l) }) s

/-- The step of an array command has done its work by the end of this cycle. -/
def State.arrayDone (s : State) (t : Nat) (c : MxCmd) : Bool :=
  let x := (s.getTile t).ctx
  decide (x.ramp.beg ≤ s.clk t ∧ x.arrayArb.till ≤ s.clk t) &&
    match c.op with
    | .mma | .mmas =>
      c.reads.isEmpty && decide (1024 ≤ x.ramp.acc + x.ramp.level * (s.clk t + 1 - x.ramp.accAt))
        && !s.forkWaits t (x.plot.getD 0) c.owner c.seq (s.arrayReads t c c.step)
    | _ => true

/-- The effect of an array step: the machine and the flags. What the hidden entries of its operands hold is in their words
first (spec/07 R133). -/
def State.arrayDo (s : State) (t : Nat) (c : MxCmd) : State × Nat :=
  match c.op with
  | .mzero => (s.onCtx t fun x => x.zeroPanel c.panel, 0)
  | .skim _ _ => (s, 0)
  | _ =>
    let (_, s) := s.readRanges (s.arrayReads t c c.step)
    let (x, f) := s.arrayStep t c
    (s.onCtx t fun _ => x, f)

/-- The lines of the running array step that have their turn at their cask banks, with the machine (spec/13 R245). -/
def State.caskTurn (s : State) (t : Nat) (c : MxCmd) : List Place × State :=
  if s.clk t < (s.getTile t).ctx.ramp.beg then ([], s) else s.serveLines c.reads

/-- A path free again; an array path that stays idle runs a tail from its level, which holds for 4 cycles first. -/
def Ctx.freePath (x : Ctx) (p : MxPath) (now : Nat) : Ctx :=
  let x := x.setArb p { x.arb p with running := none }
  if p = .array then { x with ramp := x.ramp.tailFrom now } else x

/-- A step has retired: its command moves on, its leases end and the path is free. -/
def State.retireStep (s : State) (t core : Nat) (p : MxPath) (c : MxCmd) (flags bytes : Nat) : State :=
  let s := s.onCtx t fun x =>
    (x.onMx core fun h => { h with step := h.step + 1, flags := h.flags ||| flags, bytes := h.bytes + bytes }).freePath p (s.clk t)
  s.endLeases t c fun l => decide (l.last ≤ c.step)

/-- The operands of the running array step hold a byte that cannot be read: the step fails (spec/13 R247, spec/18 R305). -/
def State.stepBad (s : State) (t : Nat) (c : MxCmd) : Bool :=
  match c.op with
  | .mma | .mmas => s.unreadable (s.arrayReads t c c.step)
  | _ => false

/-- A command stops before its running step, and its path is free (spec/13 R247). -/
def Ctx.failStep (x : Ctx) (core : Nat) (p : MxPath) (c : Cause) (now : Nat) : Ctx :=
  (x.onMx core fun h => { h with st := .failed c.code }).freePath p now

/-- The running step of a path ends, where its work is done; or the array step reads lines of a cask. -/
def State.matrixStepEnd (s : State) (t : Nat) (p : MxPath) : Option State :=
  let x := s.getTile t
  match (x.ctx.arb p).running with
  | none => none
  | some core =>
    match x.ctx.mxHead core, x.ctx.plot with
    | some c, some plot =>
      if x.inReset || x.lost then none
      else
        match c.st, p with
        | .failed _, _ => some (s.onCtx t fun x => x.freePath p (s.clk t))
        | _, .array =>
          let (ls, s') := s.caskTurn t c
          if !ls.isEmpty then
            some (s'.onCtx t fun x => x.onMx core fun h => { h with reads := h.reads.filter fun l => !ls.contains l })
          else if !s.arrayDone t c then none
          else if s.stepBad t c then some (s.onCtx t fun x => x.failStep core p .ecc (s.clk t))
          else
            let (s, f) := s.arrayDo t c
            some (s.retireStep t core p c f 0)
        | _, .transfer =>
          if s.clk t < x.ctx.transferArb.till then none
          else if c.op.drains then
            let (s, f, n) := s.drainStep t plot c
            some (s.retireStep t core p c f n)
          else
            match s.loaded t plot c with
            | (.wait, _) => none
            | (.bad, s) => some (s.onCtx t fun x => x.failStep core p .ecc (s.clk t))
            | (.bytes bs, s) =>
              let (s, f) := s.loadSet t c bs
              some (s.retireStep t core p c f 0)
    | _, _ => none

def execMatrixStepEnd (s : State) : Out := onPath State.matrixStepEnd s

/-! ### Ends of commands (spec/12 R227; spec/13 R240, R247, R248) -/

/-- The error value of a matrix command. -/
def MxCmd.errorValue (c : MxCmd) (cause : Nat) : Nat := errorForm cause (if c.op.path = .array then c.step else c.bytes)

/-- A failed command counted for the slots of its core that wait in `mwait`. -/
def Ctx.mwaitError (c : Ctx) (core id : Nat) : Ctx :=
  { c with slots := (List.range 4).foldl (fun v i =>
      let x := vget v (4 * core + i) Slot.reset
      match x.mwait with
      | some (last, n) => if id < last then vset v (4 * core + i) { x with mwait := some (last, n + 1) } else v
      | none => v) c.slots }

/-- The flags of a command reach the slot that issued it, if its record runs there: also when it has left the slot meanwhile
and been dispatched into it again, since the hardware could tell it only by slot and record (DESIGN CHOICE: log 69). -/
def State.giveFlags (s : State) (t : Nat) (c : MxCmd) : State :=
  let l : SlotLoc := ⟨t, c.core, c.slot⟩
  let x := s.getSlot l
  if x.mode ≠ .free ∧ x.run.off = c.owner then s.onSlot l fun x => x.raise c.flags else s

/-- A context changed with every slot in its place. -/
def State.onWholeCtx (s : State) (t : Nat) (f : Ctx → Ctx) : State :=
  if t = s.cur.tile then s.onWhole fun s => s.onCtx t f else s.onCtx t f

/-- The head command of a core completes. -/
def State.mxEnd (s : State) (t core : Nat) : Option State :=
  let x := s.getTile t
  match vget x.ctx.mq core [], x.ctx.plot with
  | c :: rest, some plot =>
    let cause := match c.st with
      | .failed e => some e
      | _ => none
    let running := x.ctx.arrayArb.running == some core || x.ctx.transferArb.running == some core
    if running || x.inReset || x.lost || s.engineBusy t 2 core c.seq || s.writesOpen (c.issuer t plot) || !(cause.isSome || (c.st == .ready && decide (c.steps ≤ c.step))) then none
    else
      let s := (s.endLeases t c fun _ => true).giveFlags t c
      let rest := match rest with
        | d :: r => { d with since := max d.since (s.clk t + 1) } :: r
        | [] => []
      let s := s.onWholeCtx t fun y => { y with mq := vset y.mq core rest }
      match cause with
      | none => some s
      | some e =>
        let s := s.onWholeCtx t fun y => (y.countError c.owner .me).mwaitError core c.id
        some (s.unitTrap t c.core c.slot c.owner (.engine t .me) .engineFault (BitVec.ofNat 64 (c.errorValue e)))
  | _, _ => none

/-- A step about a core of a tile. -/
def onCore (k : State → Nat → Nat → Option State) (s : State) : Out :=
  match s.arg with
  | .core t c => .next ((k s t c).getD s)
  | _ => .next s

def execMatrixCommandCompletion (s : State) : Out := onCore State.mxEnd s

/-! ### The ramp limiter (spec/15 R263, R264; spec/16 R278, R280) -/

/-- One table step from a level toward a target. -/
def rampStep (up down level target : Nat) : Nat :=
  if level < target then min target (level + up) else if target < level then max target (level - down) else level

/-- A period begins while an array step runs: what it has accrued so far is kept, and the level moves, from 0 in the first step
after a halt (spec/15 R265). -/
def State.rampPeriod (s : State) (t : Nat) : Option State :=
  let x := s.getTile t
  match x.ctx.arrayArb.running with
  | none => none
  | some core =>
    match x.ctx.mxHead core with
    | none => none
    | some c =>
      if s.clk t < x.ctx.ramp.due || x.inReset || x.lost then none
      else
        some (s.onCtx t fun y =>
          let r := y.ramp
          let target := match c.op with
            | .skim _ g => min g r.ceil
            | _ => r.ceil
          let l := rampStep r.up r.down (if r.cold then 0 else r.level) target
          { y with ramp := { r with
            level := l, cold := false, acc := r.acc + r.level * (s.clk t - r.accAt), accAt := s.clk t, due := s.clk t + 4 } })

def execRampPeriod (s : State) : Out := onTileStep State.rampPeriod s

/-- The next period of a skim tail begins. -/
def State.tailPeriod (s : State) (t : Nat) : Option State :=
  let r := (s.getTile t).ctx.ramp
  if r.tail && decide (r.tailDue ≤ s.clk t) then
    some (s.onCtx t fun y =>
      let l := y.ramp.tailLevel (s.clk t)
      { y with ramp := { y.ramp with level := l, tail := decide (0 < l), tailDue := s.clk t + 4 } })
  else none

def execSkimTailPeriod (s : State) : Out := onTileStep State.tailPeriod s

end Sys2Proof.Machine
end

