-- ==== Sys2Proof/Decode.lean ====
section
/-!
DEFINITION. Sys2Proof/Decode.lean: from words to instructions and back (spec/03 R40 to R52). Fields are read as
natural numbers by division and remainder. A word that names no instruction is refused, and the slot then takes the
step `illegalWord`.
-/
namespace Sys2Proof

/-! ### Codes of the field types -/

/-- The FV type code (spec/03 R49). -/
def ElemTy.code : ElemTy → Nat
  | .i4 => 0 | .i8 => 1 | .i16 => 2 | .i32 => 3 | .i64 => 4 | .n8 => 5 | .n16 => 6 | .n32 => 7 | .n64 => 8
  | .f32 => 9 | .bf16 => 10 | .h16 => 11 | .e8s => 12 | .b8 => 13

/-- Codes 0xE and 0xF are illegal (spec/03 R49). -/
def ElemTy.ofCode : Nat → Option ElemTy
  | 0 => some .i4 | 1 => some .i8 | 2 => some .i16 | 3 => some .i32 | 4 => some .i64 | 5 => some .n8
  | 6 => some .n16 | 7 => some .n32 | 8 => some .n64 | 9 => some .f32 | 10 => some .bf16 | 11 => some .h16
  | 12 => some .e8s | 13 => some .b8 | _ => none

/-- The rnd code (spec/10 R189). -/
def Rnd.code : Rnd → Nat
  | .rne => 0 | .rtz => 1 | .rup => 2 | .rdn => 3 | .rto => 4

/-- Codes 5 to 7 are illegal (spec/10 R189). -/
def Rnd.ofCode : Nat → Option Rnd
  | 0 => some .rne | 1 => some .rtz | 2 => some .rup | 3 => some .rdn | 4 => some .rto | _ => none

/-- The size code of a load (spec/03 R42). -/
def LdSize.code : LdSize → Nat
  | .b => 0 | .bz => 1 | .h => 2 | .hz => 3 | .w => 4 | .wz => 5 | .d => 6

/-- Code 7 is illegal (spec/03 R42). -/
def LdSize.ofCode : Nat → Option LdSize
  | 0 => some .b | 1 => some .bz | 2 => some .h | 3 => some .hz | 4 => some .w | 5 => some .wz | 6 => some .d
  | _ => none

/-- The size code of a store (spec/03 R42). -/
def StSize.code : StSize → Nat
  | .b => 0 | .h => 2 | .w => 4 | .d => 6

/-- The odd codes and code 7 are illegal in a store (spec/03 R42). -/
def StSize.ofCode : Nat → Option StSize
  | 0 => some .b | 2 => some .h | 4 => some .w | 6 => some .d | _ => none

/-- The TYPE code of an atomic (spec/07 R127). -/
def AmoTy.code : AmoTy → Nat
  | .d => 0 | .w => 1 | .f32 => 2 | .bf16 => 3 | .h16 => 4

/-- The other codes are illegal (spec/07 R127). -/
def AmoTy.ofCode : Nat → Option AmoTy
  | 0 => some .d | 1 => some .w | 2 => some .f32 | 3 => some .bf16 | 4 => some .h16 | _ => none

/-- The SCOPE code of an atomic (spec/07 R127). -/
def AccScope.code : AccScope → Nat
  | .tile => 0 | .plot => 1 | .wafer => 2 | .system => 3

/-- Every two-bit code is a scope (spec/07 R127). -/
def AccScope.ofCode : Nat → Option AccScope
  | 0 => some .tile | 1 => some .plot | 2 => some .wafer | 3 => some .system | _ => none

/-- The SCOPE code of a fence (spec/07 R134). -/
def FenceScope.code : FenceScope → Nat
  | .slot => 0 | .core => 1 | .tile => 2 | .plot => 3 | .wafer => 4 | .system => 5

/-- Codes 6 and 7 are illegal (spec/07 R134). -/
def FenceScope.ofCode : Nat → Option FenceScope
  | 0 => some .slot | 1 => some .core | 2 => some .tile | 3 => some .plot | 4 => some .wafer | 5 => some .system
  | _ => none

/-- The control-register number (spec/03 R56). -/
def Csr.code : Csr → Nat
  | .status => 0 | .ctxid => 1 | .slot => 2 | .trapc => 3 | .trapv => 4 | .budget => 5 | .clkmode => 6
  | .loopst => 7 | .leesc => 8 | .fecfg => 9

/-- Every other number is illegal (spec/03 R56). -/
def Csr.ofCode : Nat → Option Csr
  | 0 => some .status | 1 => some .ctxid | 2 => some .slot | 3 => some .trapc | 4 => some .trapv
  | 5 => some .budget | 6 => some .clkmode | 7 => some .loopst | 8 => some .leesc | 9 => some .fecfg | _ => none

/-- The engine number (spec/03 R49). -/
def Eng.code : Eng → Nat
  | .me => 0 | .ce => 1 | .de => 2

/-- Numbers 3 to 7 are illegal (spec/03 R49). -/
def Eng.ofCode : Nat → Option Eng
  | 0 => some .me | 1 => some .ce | 2 => some .de | _ => none

/-! ### Fields of a word -/

/-- The `len` bits of w from bit `lo` upward (spec/00 R3, spec/03 R40). -/
def fld (w lo len : Nat) : Nat := w / 2 ^ lo % 2 ^ len

/-! ### The nine formats as sums of their fields (spec/03 R40) -/

/-- Format FR (spec/03 R40). -/
def encFR (op d a b wa wb func : Nat) : Nat :=
  op * 2 ^ 26 + d * 2 ^ 21 + a * 2 ^ 16 + b * 2 ^ 11 + wa * 2 ^ 10 + wb * 2 ^ 9 + func

/-- Format FI (spec/03 R40). -/
def encFI (op d a wa imm : Nat) : Nat :=
  op * 2 ^ 26 + d * 2 ^ 21 + a * 2 ^ 16 + wa * 2 ^ 15 + imm

/-- Format FB (spec/03 R40). -/
def encFB (op a b cond off : Nat) : Nat :=
  op * 2 ^ 26 + a * 2 ^ 21 + b * 2 ^ 16 + cond * 2 ^ 13 + off

/-- Format FJ (spec/03 R40). -/
def encFJ (op off : Nat) : Nat :=
  op * 2 ^ 26 + off

/-- Format FL (spec/03 R40). -/
def encFL (op d size off : Nat) : Nat :=
  op * 2 ^ 26 + d * 2 ^ 21 + size * 2 ^ 18 + off

/-- Format FM (spec/03 R40). -/
def encFM (op d base wa size off : Nat) : Nat :=
  op * 2 ^ 26 + d * 2 ^ 21 + base * 2 ^ 16 + wa * 2 ^ 15 + size * 2 ^ 12 + off

/-- Format FV (spec/03 R40). -/
def encFV (op vd va vb ty rnd func : Nat) : Nat :=
  op * 2 ^ 26 + vd * 2 ^ 22 + va * 2 ^ 18 + vb * 2 ^ 14 + ty * 2 ^ 10 + rnd * 2 ^ 7 + func

/-- Format FC (spec/03 R40). -/
def encFC (op eng a b d cmd : Nat) : Nat :=
  op * 2 ^ 26 + eng * 2 ^ 23 + a * 2 ^ 18 + b * 2 ^ 13 + d * 2 ^ 8 + cmd

/-- Format FK (spec/03 R40). -/
def encFK (op lvl cnt len func : Nat) : Nat :=
  op * 2 ^ 26 + lvl * 2 ^ 24 + cnt * 2 ^ 19 + len * 2 ^ 10 + func

/-! ### Decoding, major by major (spec/03 R45) -/

/-- Major 0x01, format FR: ADD, SUB, MUL, MULH, MULHN, DIV, DIVN, REM, REMN, AND, OR, XOR, ANDN, ORN, SHL, SHR, SRA, ROL, ROR, CLZ, CTZ, POPC, MIN, MAX, MINN, MAXN, SEXT, ZEXT, SLT, SLTN, SEQ, SNE. -/
def dec01 (d a b wa wb func : Nat) : Option Instr :=
  if func = 0 then some (.add (BitVec.ofNat 5 d) (BitVec.ofNat 5 a) (BitVec.ofNat 5 b) (decide (wa = 1)) (decide (wb = 1)))
  else if func = 1 then some (.sub (BitVec.ofNat 5 d) (BitVec.ofNat 5 a) (BitVec.ofNat 5 b) (decide (wa = 1)) (decide (wb = 1)))
  else if func = 2 then some (.mul (BitVec.ofNat 5 d) (BitVec.ofNat 5 a) (BitVec.ofNat 5 b) (decide (wa = 1)) (decide (wb = 1)))
  else if func = 3 then some (.mulh (BitVec.ofNat 5 d) (BitVec.ofNat 5 a) (BitVec.ofNat 5 b) (decide (wa = 1)) (decide (wb = 1)))
  else if func = 4 then some (.mulhn (BitVec.ofNat 5 d) (BitVec.ofNat 5 a) (BitVec.ofNat 5 b) (decide (wa = 1)) (decide (wb = 1)))
  else if func = 5 then some (.div (BitVec.ofNat 5 d) (BitVec.ofNat 5 a) (BitVec.ofNat 5 b) (decide (wa = 1)) (decide (wb = 1)))
  else if func = 6 then some (.divn (BitVec.ofNat 5 d) (BitVec.ofNat 5 a) (BitVec.ofNat 5 b) (decide (wa = 1)) (decide (wb = 1)))
  else if func = 7 then some (.rem (BitVec.ofNat 5 d) (BitVec.ofNat 5 a) (BitVec.ofNat 5 b) (decide (wa = 1)) (decide (wb = 1)))
  else if func = 8 then some (.remn (BitVec.ofNat 5 d) (BitVec.ofNat 5 a) (BitVec.ofNat 5 b) (decide (wa = 1)) (decide (wb = 1)))
  else if func = 9 then some (.and (BitVec.ofNat 5 d) (BitVec.ofNat 5 a) (BitVec.ofNat 5 b) (decide (wa = 1)) (decide (wb = 1)))
  else if func = 10 then some (.or (BitVec.ofNat 5 d) (BitVec.ofNat 5 a) (BitVec.ofNat 5 b) (decide (wa = 1)) (decide (wb = 1)))
  else if func = 11 then some (.xor (BitVec.ofNat 5 d) (BitVec.ofNat 5 a) (BitVec.ofNat 5 b) (decide (wa = 1)) (decide (wb = 1)))
  else if func = 12 then some (.andn (BitVec.ofNat 5 d) (BitVec.ofNat 5 a) (BitVec.ofNat 5 b) (decide (wa = 1)) (decide (wb = 1)))
  else if func = 13 then some (.orn (BitVec.ofNat 5 d) (BitVec.ofNat 5 a) (BitVec.ofNat 5 b) (decide (wa = 1)) (decide (wb = 1)))
  else if func = 14 then some (.shl (BitVec.ofNat 5 d) (BitVec.ofNat 5 a) (BitVec.ofNat 5 b) (decide (wa = 1)) (decide (wb = 1)))
  else if func = 15 then some (.shr (BitVec.ofNat 5 d) (BitVec.ofNat 5 a) (BitVec.ofNat 5 b) (decide (wa = 1)) (decide (wb = 1)))
  else if func = 16 then some (.sra (BitVec.ofNat 5 d) (BitVec.ofNat 5 a) (BitVec.ofNat 5 b) (decide (wa = 1)) (decide (wb = 1)))
  else if func = 17 then some (.rol (BitVec.ofNat 5 d) (BitVec.ofNat 5 a) (BitVec.ofNat 5 b) (decide (wa = 1)) (decide (wb = 1)))
  else if func = 18 then some (.ror (BitVec.ofNat 5 d) (BitVec.ofNat 5 a) (BitVec.ofNat 5 b) (decide (wa = 1)) (decide (wb = 1)))
  else if func = 19 ∧ b = 0 ∧ wb = 0 then some (.clz (BitVec.ofNat 5 d) (BitVec.ofNat 5 a) (decide (wa = 1)))
  else if func = 20 ∧ b = 0 ∧ wb = 0 then some (.ctz (BitVec.ofNat 5 d) (BitVec.ofNat 5 a) (decide (wa = 1)))
  else if func = 21 ∧ b = 0 ∧ wb = 0 then some (.popc (BitVec.ofNat 5 d) (BitVec.ofNat 5 a) (decide (wa = 1)))
  else if func = 22 then some (.min (BitVec.ofNat 5 d) (BitVec.ofNat 5 a) (BitVec.ofNat 5 b) (decide (wa = 1)) (decide (wb = 1)))
  else if func = 23 then some (.max (BitVec.ofNat 5 d) (BitVec.ofNat 5 a) (BitVec.ofNat 5 b) (decide (wa = 1)) (decide (wb = 1)))
  else if func = 24 then some (.minn (BitVec.ofNat 5 d) (BitVec.ofNat 5 a) (BitVec.ofNat 5 b) (decide (wa = 1)) (decide (wb = 1)))
  else if func = 25 then some (.maxn (BitVec.ofNat 5 d) (BitVec.ofNat 5 a) (BitVec.ofNat 5 b) (decide (wa = 1)) (decide (wb = 1)))
  else if func = 26 then some (.sext (BitVec.ofNat 5 d) (BitVec.ofNat 5 a) (BitVec.ofNat 5 b) (decide (wa = 1)) (decide (wb = 1)))
  else if func = 27 then some (.zext (BitVec.ofNat 5 d) (BitVec.ofNat 5 a) (BitVec.ofNat 5 b) (decide (wa = 1)) (decide (wb = 1)))
  else if func = 28 then some (.slt (BitVec.ofNat 5 d) (BitVec.ofNat 5 a) (BitVec.ofNat 5 b) (decide (wa = 1)) (decide (wb = 1)))
  else if func = 29 then some (.sltn (BitVec.ofNat 5 d) (BitVec.ofNat 5 a) (BitVec.ofNat 5 b) (decide (wa = 1)) (decide (wb = 1)))
  else if func = 30 then some (.seq (BitVec.ofNat 5 d) (BitVec.ofNat 5 a) (BitVec.ofNat 5 b) (decide (wa = 1)) (decide (wb = 1)))
  else if func = 31 then some (.sne (BitVec.ofNat 5 d) (BitVec.ofNat 5 a) (BitVec.ofNat 5 b) (decide (wa = 1)) (decide (wb = 1)))
  else none

/-- Major 0x02, format FI: ADDI. -/
def dec02 (d a wa imm : Nat) : Option Instr :=
  some (.addi (BitVec.ofNat 5 d) (BitVec.ofNat 5 a) (BitVec.ofNat 15 imm) (decide (wa = 1)))

/-- Major 0x03, format FI: ANDI. -/
def dec03 (d a wa imm : Nat) : Option Instr :=
  some (.andi (BitVec.ofNat 5 d) (BitVec.ofNat 5 a) (BitVec.ofNat 15 imm) (decide (wa = 1)))

/-- Major 0x04, format FI: ORI. -/
def dec04 (d a wa imm : Nat) : Option Instr :=
  some (.ori (BitVec.ofNat 5 d) (BitVec.ofNat 5 a) (BitVec.ofNat 15 imm) (decide (wa = 1)))

/-- Major 0x05, format FI: XORI. -/
def dec05 (d a wa imm : Nat) : Option Instr :=
  some (.xori (BitVec.ofNat 5 d) (BitVec.ofNat 5 a) (BitVec.ofNat 15 imm) (decide (wa = 1)))

/-- Major 0x06, format FI: SHLI, SHRI, SRAI. -/
def dec06 (d a wa imm : Nat) : Option Instr :=
  if imm / 64 = 0 then some (.shli (BitVec.ofNat 5 d) (BitVec.ofNat 5 a) (BitVec.ofNat 6 imm) (decide (wa = 1)))
  else if imm / 64 = 128 then some (.shri (BitVec.ofNat 5 d) (BitVec.ofNat 5 a) (BitVec.ofNat 6 imm) (decide (wa = 1)))
  else if imm / 64 = 256 then some (.srai (BitVec.ofNat 5 d) (BitVec.ofNat 5 a) (BitVec.ofNat 6 imm) (decide (wa = 1)))
  else none

/-- Major 0x07, format FI: SLTI, SLTNI. -/
def dec07 (d a wa imm : Nat) : Option Instr :=
  if imm / 16384 = 0 then some (.slti (BitVec.ofNat 5 d) (BitVec.ofNat 5 a) (BitVec.ofNat 14 imm) (decide (wa = 1)))
  else if imm / 16384 = 1 then some (.sltni (BitVec.ofNat 5 d) (BitVec.ofNat 5 a) (BitVec.ofNat 14 imm) (decide (wa = 1)))
  else none

/-- Major 0x08, format FI: LIH. -/
def dec08 (d a wa imm : Nat) : Option Instr :=
  some (.lih (BitVec.ofNat 5 d) (BitVec.ofNat 5 a) (BitVec.ofNat 15 imm) (decide (wa = 1)))

/-- Major 0x09, format FL: LEA. -/
def dec09 (d size off : Nat) : Option Instr :=
  if size / 2 = 0 then some (.lea (BitVec.ofNat 5 d) (decide (size % 2 = 1)) (BitVec.ofNat 18 off))
  else none

/-- Major 0x0A, format FR: WINQ, WINC_LC, WINC_SH, ADDP. -/
def dec0A (d a b wa wb func : Nat) : Option Instr :=
  if func = 0 ∧ b = 0 ∧ wb = 0 then some (.winq (BitVec.ofNat 5 d) (BitVec.ofNat 5 a) (decide (wa = 1)))
  else if func = 1 ∧ b = 9 ∧ wb = 0 then some (.wincLc (BitVec.ofNat 5 d) (BitVec.ofNat 5 a) (decide (wa = 1)))
  else if func = 1 ∧ b = 10 ∧ wb = 0 then some (.wincSh (BitVec.ofNat 5 d) (BitVec.ofNat 5 a) (decide (wa = 1)))
  else if func = 2 then some (.addp (BitVec.ofNat 5 d) (BitVec.ofNat 5 a) (BitVec.ofNat 5 b) (decide (wa = 1)) (decide (wb = 1)))
  else none

/-- Major 0x0B, format FL: LDL. -/
def dec0B (d size off : Nat) : Option Instr :=
  (LdSize.ofCode (size)).bind fun x0 => some (.ldl (BitVec.ofNat 5 d) x0 (BitVec.ofNat 18 off))

/-- Major 0x0C, format FB: BR_EQ, BR_NE, BR_LT, BR_GE, BR_LTN, BR_GEN. -/
def dec0C (a b cond off : Nat) : Option Instr :=
  if cond = 0 then some (.brEq (BitVec.ofNat 5 a) (BitVec.ofNat 5 b) (BitVec.ofNat 13 off))
  else if cond = 1 then some (.brNe (BitVec.ofNat 5 a) (BitVec.ofNat 5 b) (BitVec.ofNat 13 off))
  else if cond = 2 then some (.brLt (BitVec.ofNat 5 a) (BitVec.ofNat 5 b) (BitVec.ofNat 13 off))
  else if cond = 3 then some (.brGe (BitVec.ofNat 5 a) (BitVec.ofNat 5 b) (BitVec.ofNat 13 off))
  else if cond = 4 then some (.brLtn (BitVec.ofNat 5 a) (BitVec.ofNat 5 b) (BitVec.ofNat 13 off))
  else if cond = 5 then some (.brGen (BitVec.ofNat 5 a) (BitVec.ofNat 5 b) (BitVec.ofNat 13 off))
  else none

/-- Major 0x0D, format FJ: JMP. -/
def dec0D (off : Nat) : Option Instr :=
  some (.jmp (BitVec.ofNat 26 off))

/-- Major 0x0E, format FJ: JAL. -/
def dec0E (off : Nat) : Option Instr :=
  some (.jal (BitVec.ofNat 26 off))

/-- Major 0x0F, format FR: JR, JALR. -/
def dec0F (d a b wa wb func : Nat) : Option Instr :=
  if func = 0 ∧ d = 0 ∧ b = 0 ∧ wb = 0 then some (.jr (BitVec.ofNat 5 a) (decide (wa = 1)))
  else if func = 1 ∧ b = 0 ∧ wb = 0 then some (.jalr (BitVec.ofNat 5 d) (BitVec.ofNat 5 a) (decide (wa = 1)))
  else none

/-- Major 0x10, format FK: LOOP, LOOPI, LBRK. -/
def dec10 (lvl cnt len func : Nat) : Option Instr :=
  if func = 0 then some (.loop (BitVec.ofNat 2 lvl) (BitVec.ofNat 5 cnt) (BitVec.ofNat 9 len))
  else if func / 512 = 1 then some (.loopi (BitVec.ofNat 2 lvl) (BitVec.ofNat 14 (func % 512 * 32 + cnt)) (BitVec.ofNat 9 len))
  else if func = 1 ∧ cnt = 0 ∧ len = 0 then some (.lbrk (BitVec.ofNat 2 lvl))
  else none

/-- Major 0x11, format FR: YIELD, SUSP_TAG, SUSP_FULL, SUSP_CHG, SUSP_BAR, SUSP_ENG, SUSP_CALL, SUSP_TIME, RETIRE, SPAWN, WAKE, RECP. -/
def dec11 (d a b wa wb func : Nat) : Option Instr :=
  if func = 0 ∧ d = 0 ∧ a = 0 ∧ b = 0 ∧ wa = 0 ∧ wb = 0 then some .yield
  else if func = 1 ∧ b = 0 ∧ wb = 0 then some (.suspTag (BitVec.ofNat 5 d) (BitVec.ofNat 5 a) (decide (wa = 1)))
  else if func = 2 ∧ d = 0 ∧ b = 0 ∧ wb = 0 then some (.suspFull (BitVec.ofNat 5 a) (decide (wa = 1)))
  else if func = 3 ∧ d = 0 then some (.suspChg (BitVec.ofNat 5 a) (BitVec.ofNat 5 b) (decide (wa = 1)) (decide (wb = 1)))
  else if func = 4 ∧ d = 0 ∧ b = 0 ∧ wb = 0 then some (.suspBar (BitVec.ofNat 5 a) (decide (wa = 1)))
  else if func = 5 ∧ d = 0 ∧ b = 0 ∧ wb = 0 then some (.suspEng (BitVec.ofNat 5 a) (decide (wa = 1)))
  else if func = 6 ∧ d = 0 ∧ a = 0 ∧ b = 0 ∧ wa = 0 ∧ wb = 0 then some .suspCall
  else if func = 7 ∧ d = 0 ∧ b = 0 ∧ wb = 0 then some (.suspTime (BitVec.ofNat 5 a) (decide (wa = 1)))
  else if func = 16 ∧ d = 0 ∧ a = 0 ∧ b = 0 ∧ wa = 0 ∧ wb = 0 then some .retire
  else if func = 32 then some (.spawn (BitVec.ofNat 5 d) (BitVec.ofNat 5 a) (BitVec.ofNat 5 b) (decide (wa = 1)) (decide (wb = 1)))
  else if func = 48 ∧ b = 0 ∧ wb = 0 then some (.wake (BitVec.ofNat 5 d) (BitVec.ofNat 5 a) (decide (wa = 1)))
  else if func = 64 ∧ a = 0 ∧ b = 0 ∧ wa = 0 ∧ wb = 0 then some (.recp (BitVec.ofNat 5 d))
  else none

/-- Major 0x12, format FR: TOPO, CTXID, STAGE, TIME, CYC. -/
def dec12 (d a b wa wb func : Nat) : Option Instr :=
  if func = 0 ∧ a = 0 ∧ b = 0 ∧ wa = 0 ∧ wb = 0 then some (.topo (BitVec.ofNat 5 d))
  else if func = 1 ∧ a = 0 ∧ b = 0 ∧ wa = 0 ∧ wb = 0 then some (.ctxid (BitVec.ofNat 5 d))
  else if func = 2 ∧ a = 0 ∧ b = 0 ∧ wa = 0 ∧ wb = 0 then some (.stage (BitVec.ofNat 5 d))
  else if func = 3 ∧ a = 0 ∧ b = 0 ∧ wa = 0 ∧ wb = 0 then some (.time (BitVec.ofNat 5 d))
  else if func = 4 ∧ a = 0 ∧ b = 0 ∧ wa = 0 ∧ wb = 0 then some (.cyc (BitVec.ofNat 5 d))
  else none

/-- Major 0x13, format FI: CSRRD, CSRWR, CSRSET, CSRCLR. -/
def dec13 (d a wa imm : Nat) : Option Instr :=
  if imm / 4096 = 0 ∧ a = 0 ∧ wa = 0 then (Csr.ofCode (imm % 4096)).bind fun x0 => some (.csrrd (BitVec.ofNat 5 d) x0)
  else if imm / 4096 = 1 then (Csr.ofCode (imm % 4096)).bind fun x0 => some (.csrwr (BitVec.ofNat 5 d) x0 (BitVec.ofNat 5 a) (decide (wa = 1)))
  else if imm / 4096 = 2 then (Csr.ofCode (imm % 4096)).bind fun x0 => some (.csrset (BitVec.ofNat 5 d) x0 (BitVec.ofNat 5 a) (decide (wa = 1)))
  else if imm / 4096 = 3 then (Csr.ofCode (imm % 4096)).bind fun x0 => some (.csrclr (BitVec.ofNat 5 d) x0 (BitVec.ofNat 5 a) (decide (wa = 1)))
  else none

/-- Major 0x14, format FM: LD. -/
def dec14 (d base wa size off : Nat) : Option Instr :=
  (LdSize.ofCode (size)).bind fun x0 => some (.ld (BitVec.ofNat 5 d) (BitVec.ofNat 5 base) (decide (wa = 1)) x0 (BitVec.ofNat 12 off))

/-- Major 0x15, format FM: ST. -/
def dec15 (d base wa size off : Nat) : Option Instr :=
  (StSize.ofCode (size)).bind fun x0 => some (.st (BitVec.ofNat 5 d) (BitVec.ofNat 5 base) (decide (wa = 1)) x0 (BitVec.ofNat 12 off))

/-- Major 0x16, format FM: LDF, LDFE, STE, STF, FE_CLR, FE_TST, WAITA. -/
def dec16 (d base wa size off : Nat) : Option Instr :=
  if size = 0 then some (.ldf (BitVec.ofNat 5 d) (BitVec.ofNat 5 base) (decide (wa = 1)) (BitVec.ofNat 12 off))
  else if size = 1 then some (.ldfe (BitVec.ofNat 5 d) (BitVec.ofNat 5 base) (decide (wa = 1)) (BitVec.ofNat 12 off))
  else if size = 2 then some (.ste (BitVec.ofNat 5 d) (BitVec.ofNat 5 base) (decide (wa = 1)) (BitVec.ofNat 12 off))
  else if size = 3 then some (.stf (BitVec.ofNat 5 d) (BitVec.ofNat 5 base) (decide (wa = 1)) (BitVec.ofNat 12 off))
  else if size = 4 then some (.feClr (BitVec.ofNat 5 d) (BitVec.ofNat 5 base) (decide (wa = 1)) (BitVec.ofNat 12 off))
  else if size = 5 then some (.feTst (BitVec.ofNat 5 d) (BitVec.ofNat 5 base) (decide (wa = 1)) (BitVec.ofNat 12 off))
  else if size = 6 then some (.waita (BitVec.ofNat 5 d) (BitVec.ofNat 5 base) (decide (wa = 1)) (BitVec.ofNat 12 off))
  else none

/-- Major 0x17, format FM: PREF, REFQ. -/
def dec17 (d base wa size off : Nat) : Option Instr :=
  if d = 0 ∧ size = 0 then some (.pref (BitVec.ofNat 5 base) (decide (wa = 1)) (BitVec.ofNat 12 off))
  else if size = 1 then some (.refq (BitVec.ofNat 5 d) (BitVec.ofNat 5 base) (decide (wa = 1)) (BitVec.ofNat 12 off))
  else none

/-- Major 0x18, format FR: AMO_ADD, AMO_AND, AMO_OR, AMO_XOR, AMO_MIN, AMO_MAX, AMO_MINN, AMO_MAXN, AMO_XCHG, AMO_CAS, AMO_FADD, AMO_FMAX, AMO_FMIN, AMO_AMAXX. -/
def dec18 (d a b wa wb func : Nat) : Option Instr :=
  if func / 32 = 0 then (AccScope.ofCode (func / 8 % 4)).bind fun x0 => (AmoTy.ofCode (func % 8)).bind fun x1 => some (.amoAdd (BitVec.ofNat 5 d) (BitVec.ofNat 5 a) (BitVec.ofNat 5 b) (decide (wa = 1)) (decide (wb = 1)) x0 x1)
  else if func / 32 = 1 then (AccScope.ofCode (func / 8 % 4)).bind fun x0 => (AmoTy.ofCode (func % 8)).bind fun x1 => some (.amoAnd (BitVec.ofNat 5 d) (BitVec.ofNat 5 a) (BitVec.ofNat 5 b) (decide (wa = 1)) (decide (wb = 1)) x0 x1)
  else if func / 32 = 2 then (AccScope.ofCode (func / 8 % 4)).bind fun x0 => (AmoTy.ofCode (func % 8)).bind fun x1 => some (.amoOr (BitVec.ofNat 5 d) (BitVec.ofNat 5 a) (BitVec.ofNat 5 b) (decide (wa = 1)) (decide (wb = 1)) x0 x1)
  else if func / 32 = 3 then (AccScope.ofCode (func / 8 % 4)).bind fun x0 => (AmoTy.ofCode (func % 8)).bind fun x1 => some (.amoXor (BitVec.ofNat 5 d) (BitVec.ofNat 5 a) (BitVec.ofNat 5 b) (decide (wa = 1)) (decide (wb = 1)) x0 x1)
  else if func / 32 = 4 then (AccScope.ofCode (func / 8 % 4)).bind fun x0 => (AmoTy.ofCode (func % 8)).bind fun x1 => some (.amoMin (BitVec.ofNat 5 d) (BitVec.ofNat 5 a) (BitVec.ofNat 5 b) (decide (wa = 1)) (decide (wb = 1)) x0 x1)
  else if func / 32 = 5 then (AccScope.ofCode (func / 8 % 4)).bind fun x0 => (AmoTy.ofCode (func % 8)).bind fun x1 => some (.amoMax (BitVec.ofNat 5 d) (BitVec.ofNat 5 a) (BitVec.ofNat 5 b) (decide (wa = 1)) (decide (wb = 1)) x0 x1)
  else if func / 32 = 6 then (AccScope.ofCode (func / 8 % 4)).bind fun x0 => (AmoTy.ofCode (func % 8)).bind fun x1 => some (.amoMinn (BitVec.ofNat 5 d) (BitVec.ofNat 5 a) (BitVec.ofNat 5 b) (decide (wa = 1)) (decide (wb = 1)) x0 x1)
  else if func / 32 = 7 then (AccScope.ofCode (func / 8 % 4)).bind fun x0 => (AmoTy.ofCode (func % 8)).bind fun x1 => some (.amoMaxn (BitVec.ofNat 5 d) (BitVec.ofNat 5 a) (BitVec.ofNat 5 b) (decide (wa = 1)) (decide (wb = 1)) x0 x1)
  else if func / 32 = 8 then (AccScope.ofCode (func / 8 % 4)).bind fun x0 => (AmoTy.ofCode (func % 8)).bind fun x1 => some (.amoXchg (BitVec.ofNat 5 d) (BitVec.ofNat 5 a) (BitVec.ofNat 5 b) (decide (wa = 1)) (decide (wb = 1)) x0 x1)
  else if func / 32 = 9 then (AccScope.ofCode (func / 8 % 4)).bind fun x0 => (AmoTy.ofCode (func % 8)).bind fun x1 => some (.amoCas (BitVec.ofNat 5 d) (BitVec.ofNat 5 a) (BitVec.ofNat 5 b) (decide (wa = 1)) (decide (wb = 1)) x0 x1)
  else if func / 32 = 10 then (AccScope.ofCode (func / 8 % 4)).bind fun x0 => (AmoTy.ofCode (func % 8)).bind fun x1 => some (.amoFadd (BitVec.ofNat 5 d) (BitVec.ofNat 5 a) (BitVec.ofNat 5 b) (decide (wa = 1)) (decide (wb = 1)) x0 x1)
  else if func / 32 = 11 then (AccScope.ofCode (func / 8 % 4)).bind fun x0 => (AmoTy.ofCode (func % 8)).bind fun x1 => some (.amoFmax (BitVec.ofNat 5 d) (BitVec.ofNat 5 a) (BitVec.ofNat 5 b) (decide (wa = 1)) (decide (wb = 1)) x0 x1)
  else if func / 32 = 12 then (AccScope.ofCode (func / 8 % 4)).bind fun x0 => (AmoTy.ofCode (func % 8)).bind fun x1 => some (.amoFmin (BitVec.ofNat 5 d) (BitVec.ofNat 5 a) (BitVec.ofNat 5 b) (decide (wa = 1)) (decide (wb = 1)) x0 x1)
  else if func / 32 = 13 ∧ b = 0 ∧ wb = 0 then (AccScope.ofCode (func / 8 % 4)).bind fun x0 => (AmoTy.ofCode (func % 8)).bind fun x1 => some (.amoAmaxx (BitVec.ofNat 5 d) (BitVec.ofNat 5 a) (decide (wa = 1)) x0 x1)
  else none

/-- Major 0x19, format FR: RED_ADD, RED_FADD, RED_FMAX. -/
def dec19 (d a b wa wb func : Nat) : Option Instr :=
  if func / 8 = 0 ∧ d = 0 then (AmoTy.ofCode (func % 8)).bind fun x0 => some (.redAdd (BitVec.ofNat 5 a) (BitVec.ofNat 5 b) (decide (wa = 1)) (decide (wb = 1)) x0)
  else if func / 8 = 4 ∧ d = 0 then (AmoTy.ofCode (func % 8)).bind fun x0 => some (.redFadd (BitVec.ofNat 5 a) (BitVec.ofNat 5 b) (decide (wa = 1)) (decide (wb = 1)) x0)
  else if func / 8 = 8 ∧ d = 0 then (AmoTy.ofCode (func % 8)).bind fun x0 => some (.redFmax (BitVec.ofNat 5 a) (BitVec.ofNat 5 b) (decide (wa = 1)) (decide (wb = 1)) x0)
  else none

/-- Major 0x1A, format FR: FENCE, FENCE_SC. -/
def dec1A (d a b wa wb func : Nat) : Option Instr :=
  if func / 8 = 0 ∧ d = 0 then (FenceScope.ofCode (func % 8)).bind fun x0 => some (.fence (BitVec.ofNat 5 a) (BitVec.ofNat 5 b) (decide (wa = 1)) (decide (wb = 1)) x0)
  else if func / 8 = 2 ∧ d = 0 ∧ a = 0 ∧ b = 0 ∧ wa = 0 ∧ wb = 0 then (FenceScope.ofCode (func % 8)).bind fun x0 => some (.fenceSc x0)
  else none

/-- Major 0x1B, format FR: BINI, BARV, BARD, BWAIT, BTST, PBARV. -/
def dec1B (d a b wa wb func : Nat) : Option Instr :=
  if func = 0 ∧ d = 0 then some (.bini (BitVec.ofNat 5 a) (BitVec.ofNat 5 b) (decide (wa = 1)) (decide (wb = 1)))
  else if func = 1 ∧ b = 0 ∧ wb = 0 then some (.barv (BitVec.ofNat 5 d) (BitVec.ofNat 5 a) (decide (wa = 1)))
  else if func = 2 ∧ b = 0 ∧ wb = 0 then some (.bard (BitVec.ofNat 5 d) (BitVec.ofNat 5 a) (decide (wa = 1)))
  else if func = 3 then some (.bwait (BitVec.ofNat 5 d) (BitVec.ofNat 5 a) (BitVec.ofNat 5 b) (decide (wa = 1)) (decide (wb = 1)))
  else if func = 4 then some (.btst (BitVec.ofNat 5 d) (BitVec.ofNat 5 a) (BitVec.ofNat 5 b) (decide (wa = 1)) (decide (wb = 1)))
  else if func = 5 ∧ b = 0 ∧ wb = 0 then some (.pbarv (BitVec.ofNat 5 d) (BitVec.ofNat 5 a) (decide (wa = 1)))
  else none

/-- Major 0x1C, format FR: SEND, SENDV, POST, UNPOST, PROBE, LEES_POP, LEES_CNT, MCST. -/
def dec1C (d a b wa wb func : Nat) : Option Instr :=
  if func = 0 then some (.send (BitVec.ofNat 5 d) (BitVec.ofNat 5 a) (BitVec.ofNat 5 b) (decide (wa = 1)) (decide (wb = 1)))
  else if d < 16 ∧ func = 1 then some (.sendv (BitVec.ofNat 4 d) (BitVec.ofNat 5 a) (BitVec.ofNat 5 b) (decide (wa = 1)) (decide (wb = 1)))
  else if func = 2 ∧ d = 0 then some (.post (BitVec.ofNat 5 a) (BitVec.ofNat 5 b) (decide (wa = 1)) (decide (wb = 1)))
  else if func = 3 ∧ b = 0 ∧ wb = 0 then some (.unpost (BitVec.ofNat 5 d) (BitVec.ofNat 5 a) (decide (wa = 1)))
  else if func = 4 ∧ b = 0 ∧ wb = 0 then some (.probe (BitVec.ofNat 5 d) (BitVec.ofNat 5 a) (decide (wa = 1)))
  else if func = 5 ∧ b = 0 ∧ wb = 0 then some (.leesPop (BitVec.ofNat 5 d) (BitVec.ofNat 5 a) (decide (wa = 1)))
  else if func = 6 ∧ a = 0 ∧ b = 0 ∧ wa = 0 ∧ wb = 0 then some (.leesCnt (BitVec.ofNat 5 d))
  else if func = 7 then some (.mcst (BitVec.ofNat 5 d) (BitVec.ofNat 5 a) (BitVec.ofNat 5 b) (decide (wa = 1)) (decide (wb = 1)))
  else none

/-- Major 0x1D, format FR: SYSC, TRAP, BRK, IDLE, HALT, RESUME. -/
def dec1D (d a b wa wb func : Nat) : Option Instr :=
  if func = 0 then some (.sysc (BitVec.ofNat 5 d) (BitVec.ofNat 5 a) (BitVec.ofNat 5 b) (decide (wa = 1)) (decide (wb = 1)))
  else if func = 1 ∧ d = 0 ∧ b = 0 ∧ wb = 0 then some (.trap (BitVec.ofNat 5 a) (decide (wa = 1)))
  else if func = 2 ∧ b = 0 ∧ wa = 0 ∧ wb = 0 then some (.brk (BitVec.ofNat 10 (d * 32 + a)))
  else if func = 3 ∧ d = 0 ∧ b = 0 ∧ wb = 0 then some (.idle (BitVec.ofNat 5 a) (decide (wa = 1)))
  else if func = 4 ∧ b = 0 ∧ wb = 0 then some (.halt (BitVec.ofNat 5 d) (BitVec.ofNat 5 a) (decide (wa = 1)))
  else if func = 5 ∧ b = 0 ∧ wb = 0 then some (.resume (BitVec.ofNat 5 d) (BitVec.ofNat 5 a) (decide (wa = 1)))
  else none

/-- Major 0x1E, format FR: PWRQ_F, RAMPQ, SKIM, CLKM, PWRQ_N. -/
def dec1E (d a b wa wb func : Nat) : Option Instr :=
  if func = 0 ∧ a = 0 ∧ b = 0 ∧ wa = 0 ∧ wb = 0 then some (.pwrqF (BitVec.ofNat 5 d))
  else if func = 1 ∧ a = 0 ∧ b = 0 ∧ wa = 0 ∧ wb = 0 then some (.rampq (BitVec.ofNat 5 d))
  else if func = 2 ∧ d = 0 then some (.skim (BitVec.ofNat 5 a) (BitVec.ofNat 5 b) (decide (wa = 1)) (decide (wb = 1)))
  else if func = 3 ∧ b = 0 ∧ wb = 0 then some (.clkm (BitVec.ofNat 5 d) (BitVec.ofNat 5 a) (decide (wa = 1)))
  else if func = 4 ∧ a = 0 ∧ b = 0 ∧ wa = 0 ∧ wb = 0 then some (.pwrqN (BitVec.ofNat 5 d))
  else none

/-- Major 0x20, format FV: VLD, VST, VLDS, VSTS. -/
def dec20 (vd va vb ty rnd func : Nat) : Option Instr :=
  if 0 ≤ func ∧ func < 8 ∧ ty = 0 ∧ rnd = 0 then some (.vld (BitVec.ofNat 4 vd) (BitVec.ofNat 4 va) (BitVec.ofNat 7 ((func - 0) * 16 + vb)))
  else if 8 ≤ func ∧ func < 16 ∧ ty = 0 ∧ rnd = 0 then some (.vst (BitVec.ofNat 4 vd) (BitVec.ofNat 4 va) (BitVec.ofNat 7 ((func - 8) * 16 + vb)))
  else if func = 16 ∧ rnd = 0 then (ElemTy.ofCode (ty)).bind fun x0 => some (.vlds (BitVec.ofNat 4 vd) (BitVec.ofNat 4 va) (BitVec.ofNat 4 vb) x0)
  else if func = 17 ∧ rnd = 0 then (ElemTy.ofCode (ty)).bind fun x0 => some (.vsts (BitVec.ofNat 4 vd) (BitVec.ofNat 4 va) (BitVec.ofNat 4 vb) x0)
  else none

/-- Major 0x21, format FV: VGATH, VSCAT. -/
def dec21 (vd va vb ty rnd func : Nat) : Option Instr :=
  if func = 0 ∧ rnd = 0 then (ElemTy.ofCode (ty)).bind fun x0 => some (.vgath (BitVec.ofNat 4 vd) (BitVec.ofNat 4 va) (BitVec.ofNat 4 vb) x0)
  else if func = 1 ∧ rnd = 0 then (ElemTy.ofCode (ty)).bind fun x0 => some (.vscat (BitVec.ofNat 4 vd) (BitVec.ofNat 4 va) (BitVec.ofNat 4 vb) x0)
  else none

/-- Major 0x22, format FV: VADD, VSUB, VMUL, VDIV, VMIN, VMAX, VMAG, VNEG. -/
def dec22 (vd va vb ty rnd func : Nat) : Option Instr :=
  if func = 0 then (ElemTy.ofCode (ty)).bind fun x0 => (Rnd.ofCode (rnd)).bind fun x1 => some (.vadd (BitVec.ofNat 4 vd) (BitVec.ofNat 4 va) (BitVec.ofNat 4 vb) x0 x1)
  else if func = 1 then (ElemTy.ofCode (ty)).bind fun x0 => (Rnd.ofCode (rnd)).bind fun x1 => some (.vsub (BitVec.ofNat 4 vd) (BitVec.ofNat 4 va) (BitVec.ofNat 4 vb) x0 x1)
  else if func = 2 then (ElemTy.ofCode (ty)).bind fun x0 => (Rnd.ofCode (rnd)).bind fun x1 => some (.vmul (BitVec.ofNat 4 vd) (BitVec.ofNat 4 va) (BitVec.ofNat 4 vb) x0 x1)
  else if func = 3 then (ElemTy.ofCode (ty)).bind fun x0 => (Rnd.ofCode (rnd)).bind fun x1 => some (.vdiv (BitVec.ofNat 4 vd) (BitVec.ofNat 4 va) (BitVec.ofNat 4 vb) x0 x1)
  else if func = 4 ∧ rnd = 0 then (ElemTy.ofCode (ty)).bind fun x0 => some (.vmin (BitVec.ofNat 4 vd) (BitVec.ofNat 4 va) (BitVec.ofNat 4 vb) x0)
  else if func = 5 ∧ rnd = 0 then (ElemTy.ofCode (ty)).bind fun x0 => some (.vmax (BitVec.ofNat 4 vd) (BitVec.ofNat 4 va) (BitVec.ofNat 4 vb) x0)
  else if func = 6 ∧ vb = 0 ∧ rnd = 0 then (ElemTy.ofCode (ty)).bind fun x0 => some (.vmag (BitVec.ofNat 4 vd) (BitVec.ofNat 4 va) x0)
  else if func = 7 ∧ vb = 0 ∧ rnd = 0 then (ElemTy.ofCode (ty)).bind fun x0 => some (.vneg (BitVec.ofNat 4 vd) (BitVec.ofNat 4 va) x0)
  else none

/-- Major 0x23, format FV: VFMA, VFMS, VFNMA. -/
def dec23 (vd va vb ty rnd func : Nat) : Option Instr :=
  if func = 0 then (ElemTy.ofCode (ty)).bind fun x0 => (Rnd.ofCode (rnd)).bind fun x1 => some (.vfma (BitVec.ofNat 4 vd) (BitVec.ofNat 4 va) (BitVec.ofNat 4 vb) x0 x1)
  else if func = 1 then (ElemTy.ofCode (ty)).bind fun x0 => (Rnd.ofCode (rnd)).bind fun x1 => some (.vfms (BitVec.ofNat 4 vd) (BitVec.ofNat 4 va) (BitVec.ofNat 4 vb) x0 x1)
  else if func = 2 then (ElemTy.ofCode (ty)).bind fun x0 => (Rnd.ofCode (rnd)).bind fun x1 => some (.vfnma (BitVec.ofNat 4 vd) (BitVec.ofNat 4 va) (BitVec.ofNat 4 vb) x0 x1)
  else none

/-- Major 0x24, format FV: VADD_INT, VSUB_INT, VMUL_INT, VMIN_INT, VMAX_INT, VMAG_INT, VNEG_INT. -/
def dec24 (vd va vb ty rnd func : Nat) : Option Instr :=
  if func = 0 ∧ rnd = 0 then (ElemTy.ofCode (ty)).bind fun x0 => some (.vaddInt (BitVec.ofNat 4 vd) (BitVec.ofNat 4 va) (BitVec.ofNat 4 vb) x0)
  else if func = 1 ∧ rnd = 0 then (ElemTy.ofCode (ty)).bind fun x0 => some (.vsubInt (BitVec.ofNat 4 vd) (BitVec.ofNat 4 va) (BitVec.ofNat 4 vb) x0)
  else if func = 2 ∧ rnd = 0 then (ElemTy.ofCode (ty)).bind fun x0 => some (.vmulInt (BitVec.ofNat 4 vd) (BitVec.ofNat 4 va) (BitVec.ofNat 4 vb) x0)
  else if func = 4 ∧ rnd = 0 then (ElemTy.ofCode (ty)).bind fun x0 => some (.vminInt (BitVec.ofNat 4 vd) (BitVec.ofNat 4 va) (BitVec.ofNat 4 vb) x0)
  else if func = 5 ∧ rnd = 0 then (ElemTy.ofCode (ty)).bind fun x0 => some (.vmaxInt (BitVec.ofNat 4 vd) (BitVec.ofNat 4 va) (BitVec.ofNat 4 vb) x0)
  else if func = 6 ∧ vb = 0 ∧ rnd = 0 then (ElemTy.ofCode (ty)).bind fun x0 => some (.vmagInt (BitVec.ofNat 4 vd) (BitVec.ofNat 4 va) x0)
  else if func = 7 ∧ vb = 0 ∧ rnd = 0 then (ElemTy.ofCode (ty)).bind fun x0 => some (.vnegInt (BitVec.ofNat 4 vd) (BitVec.ofNat 4 va) x0)
  else none

/-- Major 0x25, format FV: VAND, VOR, VXOR, VNOT, VSHL, VSHR, VSRA. -/
def dec25 (vd va vb ty rnd func : Nat) : Option Instr :=
  if func = 0 ∧ ty = 0 ∧ rnd = 0 then some (.vand (BitVec.ofNat 4 vd) (BitVec.ofNat 4 va) (BitVec.ofNat 4 vb))
  else if func = 1 ∧ ty = 0 ∧ rnd = 0 then some (.vor (BitVec.ofNat 4 vd) (BitVec.ofNat 4 va) (BitVec.ofNat 4 vb))
  else if func = 2 ∧ ty = 0 ∧ rnd = 0 then some (.vxor (BitVec.ofNat 4 vd) (BitVec.ofNat 4 va) (BitVec.ofNat 4 vb))
  else if func = 3 ∧ vb = 0 ∧ ty = 0 ∧ rnd = 0 then some (.vnot (BitVec.ofNat 4 vd) (BitVec.ofNat 4 va))
  else if func = 4 ∧ rnd = 0 then (ElemTy.ofCode (ty)).bind fun x0 => some (.vshl (BitVec.ofNat 4 vd) (BitVec.ofNat 4 va) (BitVec.ofNat 4 vb) x0)
  else if func = 5 ∧ rnd = 0 then (ElemTy.ofCode (ty)).bind fun x0 => some (.vshr (BitVec.ofNat 4 vd) (BitVec.ofNat 4 va) (BitVec.ofNat 4 vb) x0)
  else if func = 6 ∧ rnd = 0 then (ElemTy.ofCode (ty)).bind fun x0 => some (.vsra (BitVec.ofNat 4 vd) (BitVec.ofNat 4 va) (BitVec.ofNat 4 vb) x0)
  else none

/-- Major 0x26, format FV: VCMP_EQ, VCMP_NE, VCMP_LT, VCMP_LE, VCMP_GT, VCMP_GE, VCMP_AB, VCMP_NAN, VSEL. -/
def dec26 (vd va vb ty rnd func : Nat) : Option Instr :=
  if func = 0 ∧ rnd = 0 then (ElemTy.ofCode (ty)).bind fun x0 => some (.vcmpEq (BitVec.ofNat 4 vd) (BitVec.ofNat 4 va) (BitVec.ofNat 4 vb) x0)
  else if func = 1 ∧ rnd = 0 then (ElemTy.ofCode (ty)).bind fun x0 => some (.vcmpNe (BitVec.ofNat 4 vd) (BitVec.ofNat 4 va) (BitVec.ofNat 4 vb) x0)
  else if func = 2 ∧ rnd = 0 then (ElemTy.ofCode (ty)).bind fun x0 => some (.vcmpLt (BitVec.ofNat 4 vd) (BitVec.ofNat 4 va) (BitVec.ofNat 4 vb) x0)
  else if func = 3 ∧ rnd = 0 then (ElemTy.ofCode (ty)).bind fun x0 => some (.vcmpLe (BitVec.ofNat 4 vd) (BitVec.ofNat 4 va) (BitVec.ofNat 4 vb) x0)
  else if func = 4 ∧ rnd = 0 then (ElemTy.ofCode (ty)).bind fun x0 => some (.vcmpGt (BitVec.ofNat 4 vd) (BitVec.ofNat 4 va) (BitVec.ofNat 4 vb) x0)
  else if func = 5 ∧ rnd = 0 then (ElemTy.ofCode (ty)).bind fun x0 => some (.vcmpGe (BitVec.ofNat 4 vd) (BitVec.ofNat 4 va) (BitVec.ofNat 4 vb) x0)
  else if func = 6 ∧ vb = 0 ∧ rnd = 0 then (ElemTy.ofCode (ty)).bind fun x0 => some (.vcmpAb (BitVec.ofNat 4 vd) (BitVec.ofNat 4 va) x0)
  else if func = 7 ∧ vb = 0 ∧ rnd = 0 then (ElemTy.ofCode (ty)).bind fun x0 => some (.vcmpNan (BitVec.ofNat 4 vd) (BitVec.ofNat 4 va) x0)
  else if func = 8 ∧ rnd = 0 then (ElemTy.ofCode (ty)).bind fun x0 => some (.vsel (BitVec.ofNat 4 vd) (BitVec.ofNat 4 va) (BitVec.ofNat 4 vb) x0)
  else none

/-- Major 0x27, format FV: VCVT, VCVT_X3109_STD, VCVT_X3109_DEV, VDQNT_MX, VDQNT_NAT. -/
def dec27 (vd va vb ty rnd func : Nat) : Option Instr :=
  if func / 32 = 0 then (ElemTy.ofCode (vb)).bind fun x0 => (ElemTy.ofCode (ty)).bind fun x1 => (Rnd.ofCode (rnd)).bind fun x2 => some (.vcvt (BitVec.ofNat 4 vd) (BitVec.ofNat 4 va) x0 x1 x2 (BitVec.ofNat 5 func))
  else if func / 32 = 1 ∧ vb = 0 ∧ ty = 13 ∧ rnd = 0 then some (.vcvtX3109Std (BitVec.ofNat 4 vd) (BitVec.ofNat 4 va) (BitVec.ofNat 5 func))
  else if func / 32 = 1 ∧ vb = 1 ∧ ty = 13 ∧ rnd = 0 then some (.vcvtX3109Dev (BitVec.ofNat 4 vd) (BitVec.ofNat 4 va) (BitVec.ofNat 5 func))
  else if func / 32 = 2 then (ElemTy.ofCode (ty)).bind fun x0 => (Rnd.ofCode (rnd)).bind fun x1 => some (.vdqntMx (BitVec.ofNat 4 vd) (BitVec.ofNat 4 va) (BitVec.ofNat 4 vb) x0 x1 (BitVec.ofNat 5 func))
  else if func / 32 = 3 then (ElemTy.ofCode (ty)).bind fun x0 => (Rnd.ofCode (rnd)).bind fun x1 => some (.vdqntNat (BitVec.ofNat 4 vd) (BitVec.ofNat 4 va) (BitVec.ofNat 4 vb) x0 x1 (BitVec.ofNat 5 func))
  else none

/-- Major 0x28, format FV: VSCL_MX, VSCL_NAT, VQNT_MX, VQNT_NAT. -/
def dec28 (vd va vb ty rnd func : Nat) : Option Instr :=
  if func / 32 = 0 ∧ vb = 0 ∧ rnd = 0 then (ElemTy.ofCode (ty)).bind fun x0 => some (.vsclMx (BitVec.ofNat 4 vd) (BitVec.ofNat 4 va) x0 (BitVec.ofNat 5 func))
  else if func / 32 = 1 ∧ vb = 0 ∧ rnd = 0 then (ElemTy.ofCode (ty)).bind fun x0 => some (.vsclNat (BitVec.ofNat 4 vd) (BitVec.ofNat 4 va) x0 (BitVec.ofNat 5 func))
  else if func / 32 = 2 then (ElemTy.ofCode (ty)).bind fun x0 => (Rnd.ofCode (rnd)).bind fun x1 => some (.vqntMx (BitVec.ofNat 4 vd) (BitVec.ofNat 4 va) (BitVec.ofNat 4 vb) x0 x1 (BitVec.ofNat 5 func))
  else if func / 32 = 3 then (ElemTy.ofCode (ty)).bind fun x0 => (Rnd.ofCode (rnd)).bind fun x1 => some (.vqntNat (BitVec.ofNat 4 vd) (BitVec.ofNat 4 va) (BitVec.ofNat 4 vb) x0 x1 (BitVec.ofNat 5 func))
  else none

/-- Major 0x29, format FV: VSUM, VRMAX, VRMIN, VMEAN, VCNTP. -/
def dec29 (vd va vb ty rnd func : Nat) : Option Instr :=
  if func = 0 ∧ vb = 0 then (ElemTy.ofCode (ty)).bind fun x0 => (Rnd.ofCode (rnd)).bind fun x1 => some (.vsum (BitVec.ofNat 4 vd) (BitVec.ofNat 4 va) x0 x1)
  else if func = 1 ∧ vb = 0 ∧ rnd = 0 then (ElemTy.ofCode (ty)).bind fun x0 => some (.vrmax (BitVec.ofNat 4 vd) (BitVec.ofNat 4 va) x0)
  else if func = 2 ∧ vb = 0 ∧ rnd = 0 then (ElemTy.ofCode (ty)).bind fun x0 => some (.vrmin (BitVec.ofNat 4 vd) (BitVec.ofNat 4 va) x0)
  else if func = 3 ∧ vb = 0 then (ElemTy.ofCode (ty)).bind fun x0 => (Rnd.ofCode (rnd)).bind fun x1 => some (.vmean (BitVec.ofNat 4 vd) (BitVec.ofNat 4 va) x0 x1)
  else if func = 4 ∧ vb = 0 ∧ rnd = 0 then (ElemTy.ofCode (ty)).bind fun x0 => some (.vcntp (BitVec.ofNat 4 vd) (BitVec.ofNat 4 va) x0)
  else none

/-- Major 0x2A, format FV: VRCP, VRSQ, VSQRT, VEXP2, VLOG2, VTANH. -/
def dec2A (vd va vb ty rnd func : Nat) : Option Instr :=
  if func = 0 ∧ vb = 0 ∧ rnd = 0 then (ElemTy.ofCode (ty)).bind fun x0 => some (.vrcp (BitVec.ofNat 4 vd) (BitVec.ofNat 4 va) x0)
  else if func = 1 ∧ vb = 0 ∧ rnd = 0 then (ElemTy.ofCode (ty)).bind fun x0 => some (.vrsq (BitVec.ofNat 4 vd) (BitVec.ofNat 4 va) x0)
  else if func = 2 ∧ vb = 0 then (ElemTy.ofCode (ty)).bind fun x0 => (Rnd.ofCode (rnd)).bind fun x1 => some (.vsqrt (BitVec.ofNat 4 vd) (BitVec.ofNat 4 va) x0 x1)
  else if func = 3 ∧ vb = 0 ∧ rnd = 0 then (ElemTy.ofCode (ty)).bind fun x0 => some (.vexp2 (BitVec.ofNat 4 vd) (BitVec.ofNat 4 va) x0)
  else if func = 4 ∧ vb = 0 ∧ rnd = 0 then (ElemTy.ofCode (ty)).bind fun x0 => some (.vlog2 (BitVec.ofNat 4 vd) (BitVec.ofNat 4 va) x0)
  else if func = 5 ∧ vb = 0 ∧ rnd = 0 then (ElemTy.ofCode (ty)).bind fun x0 => some (.vtanh (BitVec.ofNat 4 vd) (BitVec.ofNat 4 va) x0)
  else none

/-- Major 0x2B, format FV: VPERM, VSHUF_ZL, VSHUF_ZH, VSHUF_UE, VSHUF_UO, VROT, VIOTA, VROT_IMM, VFILL. -/
def dec2B (vd va vb ty rnd func : Nat) : Option Instr :=
  if func = 0 ∧ rnd = 0 then (ElemTy.ofCode (ty)).bind fun x0 => some (.vperm (BitVec.ofNat 4 vd) (BitVec.ofNat 4 va) (BitVec.ofNat 4 vb) x0)
  else if func = 1 ∧ rnd = 0 then (ElemTy.ofCode (ty)).bind fun x0 => some (.vshufZl (BitVec.ofNat 4 vd) (BitVec.ofNat 4 va) (BitVec.ofNat 4 vb) x0)
  else if func = 2 ∧ rnd = 0 then (ElemTy.ofCode (ty)).bind fun x0 => some (.vshufZh (BitVec.ofNat 4 vd) (BitVec.ofNat 4 va) (BitVec.ofNat 4 vb) x0)
  else if func = 3 ∧ rnd = 0 then (ElemTy.ofCode (ty)).bind fun x0 => some (.vshufUe (BitVec.ofNat 4 vd) (BitVec.ofNat 4 va) (BitVec.ofNat 4 vb) x0)
  else if func = 4 ∧ rnd = 0 then (ElemTy.ofCode (ty)).bind fun x0 => some (.vshufUo (BitVec.ofNat 4 vd) (BitVec.ofNat 4 va) (BitVec.ofNat 4 vb) x0)
  else if func = 5 ∧ rnd = 0 then (ElemTy.ofCode (ty)).bind fun x0 => some (.vrot (BitVec.ofNat 4 vd) (BitVec.ofNat 4 va) (BitVec.ofNat 4 vb) x0)
  else if func = 6 ∧ vb = 0 ∧ rnd = 0 then (ElemTy.ofCode (ty)).bind fun x0 => some (.viota (BitVec.ofNat 4 vd) (BitVec.ofNat 4 va) x0)
  else if 16 ≤ func ∧ func < 24 ∧ rnd = 0 then (ElemTy.ofCode (ty)).bind fun x0 => some (.vrotImm (BitVec.ofNat 4 vd) (BitVec.ofNat 4 va) x0 (BitVec.ofNat 7 ((func - 16) * 16 + vb)))
  else if 24 ≤ func ∧ func < 32 ∧ va = 0 ∧ rnd = 0 then (ElemTy.ofCode (ty)).bind fun x0 => some (.vfill (BitVec.ofNat 4 vd) x0 (BitVec.ofNat 7 ((func - 24) * 16 + vb)))
  else none

/-- Major 0x2C, format FV: VMKAB, VMKAB_TAIL, VTSAB. -/
def dec2C (vd va vb ty rnd func : Nat) : Option Instr :=
  if func / 32 = 0 ∧ vb = 0 ∧ rnd = 0 then (ElemTy.ofCode (ty)).bind fun x0 => some (.vmkab (BitVec.ofNat 4 vd) (BitVec.ofNat 4 va) x0 (BitVec.ofNat 5 func))
  else if func / 32 = 1 ∧ vb = 0 ∧ rnd = 0 then (ElemTy.ofCode (ty)).bind fun x0 => some (.vmkabTail (BitVec.ofNat 4 vd) (BitVec.ofNat 4 va) x0 (BitVec.ofNat 5 func))
  else if func / 32 = 2 ∧ vb = 0 ∧ rnd = 0 then (ElemTy.ofCode (ty)).bind fun x0 => some (.vtsab (BitVec.ofNat 4 vd) (BitVec.ofNat 4 va) x0 (BitVec.ofNat 5 func))
  else none

/-- Major 0x2D, format FV: VBCAST, VEXT, VINS, VEXT_IMM, VINS_IMM. -/
def dec2D (vd va vb ty rnd func : Nat) : Option Instr :=
  if func = 0 ∧ vb = 0 ∧ rnd = 0 then (ElemTy.ofCode (ty)).bind fun x0 => some (.vbcast (BitVec.ofNat 4 vd) (BitVec.ofNat 4 va) x0)
  else if func = 1 ∧ rnd = 0 then (ElemTy.ofCode (ty)).bind fun x0 => some (.vext (BitVec.ofNat 4 vd) (BitVec.ofNat 4 va) (BitVec.ofNat 4 vb) x0)
  else if func = 2 ∧ rnd = 0 then (ElemTy.ofCode (ty)).bind fun x0 => some (.vins (BitVec.ofNat 4 vd) (BitVec.ofNat 4 va) (BitVec.ofNat 4 vb) x0)
  else if 16 ≤ func ∧ func < 24 ∧ rnd = 0 then (ElemTy.ofCode (ty)).bind fun x0 => some (.vextImm (BitVec.ofNat 4 vd) (BitVec.ofNat 4 va) x0 (BitVec.ofNat 7 ((func - 16) * 16 + vb)))
  else if 24 ≤ func ∧ func < 32 ∧ rnd = 0 then (ElemTy.ofCode (ty)).bind fun x0 => some (.vinsImm (BitVec.ofNat 4 vd) (BitVec.ofNat 4 va) x0 (BitVec.ofNat 7 ((func - 24) * 16 + vb)))
  else none

/-- Major 0x30, format FC: ECW, ECR. -/
def dec30 (eng a b d cmd : Nat) : Option Instr :=
  if cmd < 128 ∧ b = 0 ∧ d = 0 then (Eng.ofCode (eng)).bind fun x0 => some (.ecw x0 (BitVec.ofNat 5 a) (BitVec.ofNat 7 cmd))
  else if 128 ≤ cmd ∧ a = 0 ∧ b = 0 then (Eng.ofCode (eng)).bind fun x0 => some (.ecr x0 (BitVec.ofNat 5 d) (BitVec.ofNat 7 cmd))
  else none

/-- Major 0x31, format FC: MMA, MMAS, MZERO, MWAIT, MQRY. -/
def dec31 (eng a b d cmd : Nat) : Option Instr :=
  if eng = 0 ∧ cmd = 0 then some (.mma (BitVec.ofNat 5 a) (BitVec.ofNat 5 b) (BitVec.ofNat 5 d))
  else if eng = 0 ∧ cmd = 1 then some (.mmas (BitVec.ofNat 5 a) (BitVec.ofNat 5 b) (BitVec.ofNat 5 d))
  else if eng = 0 ∧ a = 0 ∧ b = 0 ∧ cmd = 2 then some (.mzero (BitVec.ofNat 5 d))
  else if eng = 0 ∧ a = 0 ∧ b = 0 ∧ cmd = 8 then some (.mwait (BitVec.ofNat 5 d))
  else if eng = 0 ∧ a = 0 ∧ b = 0 ∧ cmd = 9 then some (.mqry (BitVec.ofNat 5 d))
  else none

/-- Major 0x32, format FC: MLD, MDRAIN, MLD_RAW, MDRAIN_RAW, MDRAIN_ROWS. -/
def dec32 (eng a b d cmd : Nat) : Option Instr :=
  if eng = 0 ∧ b = 0 ∧ cmd = 0 then some (.mld (BitVec.ofNat 5 a) (BitVec.ofNat 5 d))
  else if eng = 0 ∧ b = 0 ∧ cmd = 1 then some (.mdrain (BitVec.ofNat 5 a) (BitVec.ofNat 5 d))
  else if eng = 0 ∧ b = 0 ∧ cmd = 2 then some (.mldRaw (BitVec.ofNat 5 a) (BitVec.ofNat 5 d))
  else if eng = 0 ∧ b = 0 ∧ cmd = 3 then some (.mdrainRaw (BitVec.ofNat 5 a) (BitVec.ofNat 5 d))
  else if eng = 0 ∧ b = 0 ∧ cmd = 4 then some (.mdrainRows (BitVec.ofNat 5 a) (BitVec.ofNat 5 d))
  else none

/-- Major 0x33, format FC: CPY, CPY_HS, CPY_HD, CPY_HSD, CPYB, CPYB_HS, CPYB_HD, CPYB_HSD. -/
def dec33 (eng a b d cmd : Nat) : Option Instr :=
  if eng = 1 ∧ cmd = 0 then some (.cpy (BitVec.ofNat 5 a) (BitVec.ofNat 5 b) (BitVec.ofNat 5 d))
  else if eng = 1 ∧ cmd = 1 then some (.cpyHs (BitVec.ofNat 5 a) (BitVec.ofNat 5 b) (BitVec.ofNat 5 d))
  else if eng = 1 ∧ cmd = 2 then some (.cpyHd (BitVec.ofNat 5 a) (BitVec.ofNat 5 b) (BitVec.ofNat 5 d))
  else if eng = 1 ∧ cmd = 3 then some (.cpyHsd (BitVec.ofNat 5 a) (BitVec.ofNat 5 b) (BitVec.ofNat 5 d))
  else if eng = 1 ∧ cmd = 16 then some (.cpyb (BitVec.ofNat 5 a) (BitVec.ofNat 5 b) (BitVec.ofNat 5 d))
  else if eng = 1 ∧ cmd = 17 then some (.cpybHs (BitVec.ofNat 5 a) (BitVec.ofNat 5 b) (BitVec.ofNat 5 d))
  else if eng = 1 ∧ cmd = 18 then some (.cpybHd (BitVec.ofNat 5 a) (BitVec.ofNat 5 b) (BitVec.ofNat 5 d))
  else if eng = 1 ∧ cmd = 19 then some (.cpybHsd (BitVec.ofNat 5 a) (BitVec.ofNat 5 b) (BitVec.ofNat 5 d))
  else none

/-- Major 0x34, format FC: DCNT, RACK, VNTQ_BIND, VNTQ_DROP, VNTQ_CUR, VNTQ_ST. -/
def dec34 (eng a b d cmd : Nat) : Option Instr :=
  if eng = 2 ∧ cmd = 0 then some (.dcnt (BitVec.ofNat 5 a) (BitVec.ofNat 5 b) (BitVec.ofNat 5 d))
  else if eng = 2 ∧ b = 0 ∧ cmd = 1 then some (.rack (BitVec.ofNat 5 d) (BitVec.ofNat 5 a))
  else if eng = 2 ∧ a = 0 ∧ b = 0 ∧ cmd = 2 then some (.vntqBind (BitVec.ofNat 5 d))
  else if eng = 2 ∧ b = 0 ∧ d = 0 ∧ cmd = 3 then some (.vntqDrop (BitVec.ofNat 5 a))
  else if eng = 2 ∧ a = 0 ∧ b = 0 ∧ cmd = 4 then some (.vntqCur (BitVec.ofNat 5 d))
  else if eng = 2 ∧ b = 0 ∧ cmd = 5 then some (.vntqSt (BitVec.ofNat 5 d) (BitVec.ofNat 5 a))
  else none

/-- Major 0x35, format FC: EWAIT, EQRY. -/
def dec35 (eng a b d cmd : Nat) : Option Instr :=
  if a = 0 ∧ b = 0 ∧ cmd = 0 then (Eng.ofCode (eng)).bind fun x0 => some (.ewait x0 (BitVec.ofNat 5 d))
  else if a = 0 ∧ b = 0 ∧ cmd = 1 then (Eng.ofCode (eng)).bind fun x0 => some (.eqry x0 (BitVec.ofNat 5 d))
  else none

/-- The instruction a word names before the checks of spec/03 R52 that `Instr.wf` states. -/
def decodeRaw (w : Nat) : Option Instr :=
  match fld w 26 6 with
  | 1 => dec01 (fld w 21 5) (fld w 16 5) (fld w 11 5) (fld w 10 1) (fld w 9 1) (fld w 0 9)
  | 2 => dec02 (fld w 21 5) (fld w 16 5) (fld w 15 1) (fld w 0 15)
  | 3 => dec03 (fld w 21 5) (fld w 16 5) (fld w 15 1) (fld w 0 15)
  | 4 => dec04 (fld w 21 5) (fld w 16 5) (fld w 15 1) (fld w 0 15)
  | 5 => dec05 (fld w 21 5) (fld w 16 5) (fld w 15 1) (fld w 0 15)
  | 6 => dec06 (fld w 21 5) (fld w 16 5) (fld w 15 1) (fld w 0 15)
  | 7 => dec07 (fld w 21 5) (fld w 16 5) (fld w 15 1) (fld w 0 15)
  | 8 => dec08 (fld w 21 5) (fld w 16 5) (fld w 15 1) (fld w 0 15)
  | 9 => dec09 (fld w 21 5) (fld w 18 3) (fld w 0 18)
  | 10 => dec0A (fld w 21 5) (fld w 16 5) (fld w 11 5) (fld w 10 1) (fld w 9 1) (fld w 0 9)
  | 11 => dec0B (fld w 21 5) (fld w 18 3) (fld w 0 18)
  | 12 => dec0C (fld w 21 5) (fld w 16 5) (fld w 13 3) (fld w 0 13)
  | 13 => dec0D (fld w 0 26)
  | 14 => dec0E (fld w 0 26)
  | 15 => dec0F (fld w 21 5) (fld w 16 5) (fld w 11 5) (fld w 10 1) (fld w 9 1) (fld w 0 9)
  | 16 => dec10 (fld w 24 2) (fld w 19 5) (fld w 10 9) (fld w 0 10)
  | 17 => dec11 (fld w 21 5) (fld w 16 5) (fld w 11 5) (fld w 10 1) (fld w 9 1) (fld w 0 9)
  | 18 => dec12 (fld w 21 5) (fld w 16 5) (fld w 11 5) (fld w 10 1) (fld w 9 1) (fld w 0 9)
  | 19 => dec13 (fld w 21 5) (fld w 16 5) (fld w 15 1) (fld w 0 15)
  | 20 => dec14 (fld w 21 5) (fld w 16 5) (fld w 15 1) (fld w 12 3) (fld w 0 12)
  | 21 => dec15 (fld w 21 5) (fld w 16 5) (fld w 15 1) (fld w 12 3) (fld w 0 12)
  | 22 => dec16 (fld w 21 5) (fld w 16 5) (fld w 15 1) (fld w 12 3) (fld w 0 12)
  | 23 => dec17 (fld w 21 5) (fld w 16 5) (fld w 15 1) (fld w 12 3) (fld w 0 12)
  | 24 => dec18 (fld w 21 5) (fld w 16 5) (fld w 11 5) (fld w 10 1) (fld w 9 1) (fld w 0 9)
  | 25 => dec19 (fld w 21 5) (fld w 16 5) (fld w 11 5) (fld w 10 1) (fld w 9 1) (fld w 0 9)
  | 26 => dec1A (fld w 21 5) (fld w 16 5) (fld w 11 5) (fld w 10 1) (fld w 9 1) (fld w 0 9)
  | 27 => dec1B (fld w 21 5) (fld w 16 5) (fld w 11 5) (fld w 10 1) (fld w 9 1) (fld w 0 9)
  | 28 => dec1C (fld w 21 5) (fld w 16 5) (fld w 11 5) (fld w 10 1) (fld w 9 1) (fld w 0 9)
  | 29 => dec1D (fld w 21 5) (fld w 16 5) (fld w 11 5) (fld w 10 1) (fld w 9 1) (fld w 0 9)
  | 30 => dec1E (fld w 21 5) (fld w 16 5) (fld w 11 5) (fld w 10 1) (fld w 9 1) (fld w 0 9)
  | 32 => dec20 (fld w 22 4) (fld w 18 4) (fld w 14 4) (fld w 10 4) (fld w 7 3) (fld w 0 7)
  | 33 => dec21 (fld w 22 4) (fld w 18 4) (fld w 14 4) (fld w 10 4) (fld w 7 3) (fld w 0 7)
  | 34 => dec22 (fld w 22 4) (fld w 18 4) (fld w 14 4) (fld w 10 4) (fld w 7 3) (fld w 0 7)
  | 35 => dec23 (fld w 22 4) (fld w 18 4) (fld w 14 4) (fld w 10 4) (fld w 7 3) (fld w 0 7)
  | 36 => dec24 (fld w 22 4) (fld w 18 4) (fld w 14 4) (fld w 10 4) (fld w 7 3) (fld w 0 7)
  | 37 => dec25 (fld w 22 4) (fld w 18 4) (fld w 14 4) (fld w 10 4) (fld w 7 3) (fld w 0 7)
  | 38 => dec26 (fld w 22 4) (fld w 18 4) (fld w 14 4) (fld w 10 4) (fld w 7 3) (fld w 0 7)
  | 39 => dec27 (fld w 22 4) (fld w 18 4) (fld w 14 4) (fld w 10 4) (fld w 7 3) (fld w 0 7)
  | 40 => dec28 (fld w 22 4) (fld w 18 4) (fld w 14 4) (fld w 10 4) (fld w 7 3) (fld w 0 7)
  | 41 => dec29 (fld w 22 4) (fld w 18 4) (fld w 14 4) (fld w 10 4) (fld w 7 3) (fld w 0 7)
  | 42 => dec2A (fld w 22 4) (fld w 18 4) (fld w 14 4) (fld w 10 4) (fld w 7 3) (fld w 0 7)
  | 43 => dec2B (fld w 22 4) (fld w 18 4) (fld w 14 4) (fld w 10 4) (fld w 7 3) (fld w 0 7)
  | 44 => dec2C (fld w 22 4) (fld w 18 4) (fld w 14 4) (fld w 10 4) (fld w 7 3) (fld w 0 7)
  | 45 => dec2D (fld w 22 4) (fld w 18 4) (fld w 14 4) (fld w 10 4) (fld w 7 3) (fld w 0 7)
  | 48 => dec30 (fld w 23 3) (fld w 18 5) (fld w 13 5) (fld w 8 5) (fld w 0 8)
  | 49 => dec31 (fld w 23 3) (fld w 18 5) (fld w 13 5) (fld w 8 5) (fld w 0 8)
  | 50 => dec32 (fld w 23 3) (fld w 18 5) (fld w 13 5) (fld w 8 5) (fld w 0 8)
  | 51 => dec33 (fld w 23 3) (fld w 18 5) (fld w 13 5) (fld w 8 5) (fld w 0 8)
  | 52 => dec34 (fld w 23 3) (fld w 18 5) (fld w 13 5) (fld w 8 5) (fld w 0 8)
  | 53 => dec35 (fld w 23 3) (fld w 18 5) (fld w 13 5) (fld w 8 5) (fld w 0 8)
  | _ => none

/-- Decoding: total, and none for every word that spec/03 R52 makes illegal. -/
def decode (w : Insn) : Option Instr :=
  (decodeRaw w.toNat).bind fun i => if i.wf then some i else none

/-- What a fetched word runs: its instruction, or the ILLEGAL trap (spec/03 R52). -/
def decodeOrIllegal (w : Insn) : Instr :=
  match decode w with
  | some i => i
  | none => .illegalWord

/-- The instruction read from a table row's bits: one 32-bit word, the first byte at the lowest address holding
bits 7 to 0 (spec/00 R3). -/
def decodeTableWord (nbits w : Nat) : Option Instr :=
  if nbits = 32 then decode (BitVec.ofNat 32 w) else none

/-! ### Encoding (spec/03 R40 to R51) -/

/-- The word of an instruction as a number; none for the steps that have no word. -/
def encodeNat : Instr → Option Nat
  | .add d a b wa wb => some (encFR 1 d.toNat a.toNat b.toNat wa.toNat wb.toNat 0)
  | .sub d a b wa wb => some (encFR 1 d.toNat a.toNat b.toNat wa.toNat wb.toNat 1)
  | .mul d a b wa wb => some (encFR 1 d.toNat a.toNat b.toNat wa.toNat wb.toNat 2)
  | .mulh d a b wa wb => some (encFR 1 d.toNat a.toNat b.toNat wa.toNat wb.toNat 3)
  | .mulhn d a b wa wb => some (encFR 1 d.toNat a.toNat b.toNat wa.toNat wb.toNat 4)
  | .div d a b wa wb => some (encFR 1 d.toNat a.toNat b.toNat wa.toNat wb.toNat 5)
  | .divn d a b wa wb => some (encFR 1 d.toNat a.toNat b.toNat wa.toNat wb.toNat 6)
  | .rem d a b wa wb => some (encFR 1 d.toNat a.toNat b.toNat wa.toNat wb.toNat 7)
  | .remn d a b wa wb => some (encFR 1 d.toNat a.toNat b.toNat wa.toNat wb.toNat 8)
  | .and d a b wa wb => some (encFR 1 d.toNat a.toNat b.toNat wa.toNat wb.toNat 9)
  | .or d a b wa wb => some (encFR 1 d.toNat a.toNat b.toNat wa.toNat wb.toNat 10)
  | .xor d a b wa wb => some (encFR 1 d.toNat a.toNat b.toNat wa.toNat wb.toNat 11)
  | .andn d a b wa wb => some (encFR 1 d.toNat a.toNat b.toNat wa.toNat wb.toNat 12)
  | .orn d a b wa wb => some (encFR 1 d.toNat a.toNat b.toNat wa.toNat wb.toNat 13)
  | .shl d a b wa wb => some (encFR 1 d.toNat a.toNat b.toNat wa.toNat wb.toNat 14)
  | .shr d a b wa wb => some (encFR 1 d.toNat a.toNat b.toNat wa.toNat wb.toNat 15)
  | .sra d a b wa wb => some (encFR 1 d.toNat a.toNat b.toNat wa.toNat wb.toNat 16)
  | .rol d a b wa wb => some (encFR 1 d.toNat a.toNat b.toNat wa.toNat wb.toNat 17)
  | .ror d a b wa wb => some (encFR 1 d.toNat a.toNat b.toNat wa.toNat wb.toNat 18)
  | .clz d a wa => some (encFR 1 d.toNat a.toNat 0 wa.toNat 0 19)
  | .ctz d a wa => some (encFR 1 d.toNat a.toNat 0 wa.toNat 0 20)
  | .popc d a wa => some (encFR 1 d.toNat a.toNat 0 wa.toNat 0 21)
  | .min d a b wa wb => some (encFR 1 d.toNat a.toNat b.toNat wa.toNat wb.toNat 22)
  | .max d a b wa wb => some (encFR 1 d.toNat a.toNat b.toNat wa.toNat wb.toNat 23)
  | .minn d a b wa wb => some (encFR 1 d.toNat a.toNat b.toNat wa.toNat wb.toNat 24)
  | .maxn d a b wa wb => some (encFR 1 d.toNat a.toNat b.toNat wa.toNat wb.toNat 25)
  | .sext d a b wa wb => some (encFR 1 d.toNat a.toNat b.toNat wa.toNat wb.toNat 26)
  | .zext d a b wa wb => some (encFR 1 d.toNat a.toNat b.toNat wa.toNat wb.toNat 27)
  | .slt d a b wa wb => some (encFR 1 d.toNat a.toNat b.toNat wa.toNat wb.toNat 28)
  | .sltn d a b wa wb => some (encFR 1 d.toNat a.toNat b.toNat wa.toNat wb.toNat 29)
  | .seq d a b wa wb => some (encFR 1 d.toNat a.toNat b.toNat wa.toNat wb.toNat 30)
  | .sne d a b wa wb => some (encFR 1 d.toNat a.toNat b.toNat wa.toNat wb.toNat 31)
  | .addi d a imm wa => some (encFI 2 d.toNat a.toNat wa.toNat imm.toNat)
  | .andi d a imm wa => some (encFI 3 d.toNat a.toNat wa.toNat imm.toNat)
  | .ori d a imm wa => some (encFI 4 d.toNat a.toNat wa.toNat imm.toNat)
  | .xori d a imm wa => some (encFI 5 d.toNat a.toNat wa.toNat imm.toNat)
  | .shli d a n wa => some (encFI 6 d.toNat a.toNat wa.toNat (0 + n.toNat))
  | .shri d a n wa => some (encFI 6 d.toNat a.toNat wa.toNat (8192 + n.toNat))
  | .srai d a n wa => some (encFI 6 d.toNat a.toNat wa.toNat (16384 + n.toNat))
  | .slti d a imm wa => some (encFI 7 d.toNat a.toNat wa.toNat (0 + imm.toNat))
  | .sltni d a imm wa => some (encFI 7 d.toNat a.toNat wa.toNat (16384 + imm.toNat))
  | .lih d a imm wa => some (encFI 8 d.toNat a.toNat wa.toNat imm.toNat)
  | .lea d h off => some (encFL 9 d.toNat (h.toNat) off.toNat)
  | .winq d a wa => some (encFR 10 d.toNat a.toNat 0 wa.toNat 0 0)
  | .wincLc d a wa => some (encFR 10 d.toNat a.toNat 9 wa.toNat 0 1)
  | .wincSh d a wa => some (encFR 10 d.toNat a.toNat 10 wa.toNat 0 1)
  | .addp d a b wa wb => some (encFR 10 d.toNat a.toNat b.toNat wa.toNat wb.toNat 2)
  | .ldl d z off => some (encFL 11 d.toNat z.code off.toNat)
  | .brEq a b off => some (encFB 12 a.toNat b.toNat 0 off.toNat)
  | .brNe a b off => some (encFB 12 a.toNat b.toNat 1 off.toNat)
  | .brLt a b off => some (encFB 12 a.toNat b.toNat 2 off.toNat)
  | .brGe a b off => some (encFB 12 a.toNat b.toNat 3 off.toNat)
  | .brLtn a b off => some (encFB 12 a.toNat b.toNat 4 off.toNat)
  | .brGen a b off => some (encFB 12 a.toNat b.toNat 5 off.toNat)
  | .jmp off => some (encFJ 13 off.toNat)
  | .jal off => some (encFJ 14 off.toNat)
  | .jr a wa => some (encFR 15 0 a.toNat 0 wa.toNat 0 0)
  | .jalr d a wa => some (encFR 15 d.toNat a.toNat 0 wa.toNat 0 1)
  | .loop lvl a len => some (encFK 16 lvl.toNat a.toNat len.toNat 0)
  | .loopi lvl count len => some (encFK 16 lvl.toNat (count.toNat % 32) len.toNat (512 + count.toNat / 32))
  | .lbrk lvl => some (encFK 16 lvl.toNat 0 0 1)
  | .yield => some (encFR 17 0 0 0 0 0 0)
  | .suspTag d a wa => some (encFR 17 d.toNat a.toNat 0 wa.toNat 0 1)
  | .suspFull a wa => some (encFR 17 0 a.toNat 0 wa.toNat 0 2)
  | .suspChg a b wa wb => some (encFR 17 0 a.toNat b.toNat wa.toNat wb.toNat 3)
  | .suspBar a wa => some (encFR 17 0 a.toNat 0 wa.toNat 0 4)
  | .suspEng a wa => some (encFR 17 0 a.toNat 0 wa.toNat 0 5)
  | .suspCall => some (encFR 17 0 0 0 0 0 6)
  | .suspTime a wa => some (encFR 17 0 a.toNat 0 wa.toNat 0 7)
  | .retire => some (encFR 17 0 0 0 0 0 16)
  | .spawn d a b wa wb => some (encFR 17 d.toNat a.toNat b.toNat wa.toNat wb.toNat 32)
  | .wake d a wa => some (encFR 17 d.toNat a.toNat 0 wa.toNat 0 48)
  | .recp d => some (encFR 17 d.toNat 0 0 0 0 64)
  | .topo d => some (encFR 18 d.toNat 0 0 0 0 0)
  | .ctxid d => some (encFR 18 d.toNat 0 0 0 0 1)
  | .stage d => some (encFR 18 d.toNat 0 0 0 0 2)
  | .time d => some (encFR 18 d.toNat 0 0 0 0 3)
  | .cyc d => some (encFR 18 d.toNat 0 0 0 0 4)
  | .csrrd d c => some (encFI 19 d.toNat 0 0 (c.code))
  | .csrwr d c a wa => some (encFI 19 d.toNat a.toNat wa.toNat (4096 + c.code))
  | .csrset d c a wa => some (encFI 19 d.toNat a.toNat wa.toNat (8192 + c.code))
  | .csrclr d c a wa => some (encFI 19 d.toNat a.toNat wa.toNat (12288 + c.code))
  | .ld d base wa z off => some (encFM 20 d.toNat base.toNat wa.toNat z.code off.toNat)
  | .st d base wa z off => some (encFM 21 d.toNat base.toNat wa.toNat z.code off.toNat)
  | .ldf d base wa off => some (encFM 22 d.toNat base.toNat wa.toNat 0 off.toNat)
  | .ldfe d base wa off => some (encFM 22 d.toNat base.toNat wa.toNat 1 off.toNat)
  | .ste d base wa off => some (encFM 22 d.toNat base.toNat wa.toNat 2 off.toNat)
  | .stf d base wa off => some (encFM 22 d.toNat base.toNat wa.toNat 3 off.toNat)
  | .feClr d base wa off => some (encFM 22 d.toNat base.toNat wa.toNat 4 off.toNat)
  | .feTst d base wa off => some (encFM 22 d.toNat base.toNat wa.toNat 5 off.toNat)
  | .waita d base wa off => some (encFM 22 d.toNat base.toNat wa.toNat 6 off.toNat)
  | .pref base wa off => some (encFM 23 0 base.toNat wa.toNat 0 off.toNat)
  | .refq d base wa off => some (encFM 23 d.toNat base.toNat wa.toNat 1 off.toNat)
  | .amoAdd d a b wa wb sc ty => some (encFR 24 d.toNat a.toNat b.toNat wa.toNat wb.toNat (0 + sc.code * 8 + ty.code))
  | .amoAnd d a b wa wb sc ty => some (encFR 24 d.toNat a.toNat b.toNat wa.toNat wb.toNat (32 + sc.code * 8 + ty.code))
  | .amoOr d a b wa wb sc ty => some (encFR 24 d.toNat a.toNat b.toNat wa.toNat wb.toNat (64 + sc.code * 8 + ty.code))
  | .amoXor d a b wa wb sc ty => some (encFR 24 d.toNat a.toNat b.toNat wa.toNat wb.toNat (96 + sc.code * 8 + ty.code))
  | .amoMin d a b wa wb sc ty => some (encFR 24 d.toNat a.toNat b.toNat wa.toNat wb.toNat (128 + sc.code * 8 + ty.code))
  | .amoMax d a b wa wb sc ty => some (encFR 24 d.toNat a.toNat b.toNat wa.toNat wb.toNat (160 + sc.code * 8 + ty.code))
  | .amoMinn d a b wa wb sc ty => some (encFR 24 d.toNat a.toNat b.toNat wa.toNat wb.toNat (192 + sc.code * 8 + ty.code))
  | .amoMaxn d a b wa wb sc ty => some (encFR 24 d.toNat a.toNat b.toNat wa.toNat wb.toNat (224 + sc.code * 8 + ty.code))
  | .amoXchg d a b wa wb sc ty => some (encFR 24 d.toNat a.toNat b.toNat wa.toNat wb.toNat (256 + sc.code * 8 + ty.code))
  | .amoCas d a b wa wb sc ty => some (encFR 24 d.toNat a.toNat b.toNat wa.toNat wb.toNat (288 + sc.code * 8 + ty.code))
  | .amoFadd d a b wa wb sc ty => some (encFR 24 d.toNat a.toNat b.toNat wa.toNat wb.toNat (320 + sc.code * 8 + ty.code))
  | .amoFmax d a b wa wb sc ty => some (encFR 24 d.toNat a.toNat b.toNat wa.toNat wb.toNat (352 + sc.code * 8 + ty.code))
  | .amoFmin d a b wa wb sc ty => some (encFR 24 d.toNat a.toNat b.toNat wa.toNat wb.toNat (384 + sc.code * 8 + ty.code))
  | .amoAmaxx d a wa sc ty => some (encFR 24 d.toNat a.toNat 0 wa.toNat 0 (416 + sc.code * 8 + ty.code))
  | .redAdd a b wa wb ty => some (encFR 25 0 a.toNat b.toNat wa.toNat wb.toNat (0 + ty.code))
  | .redFadd a b wa wb ty => some (encFR 25 0 a.toNat b.toNat wa.toNat wb.toNat (32 + ty.code))
  | .redFmax a b wa wb ty => some (encFR 25 0 a.toNat b.toNat wa.toNat wb.toNat (64 + ty.code))
  | .fence pred succ peng seng sc => some (encFR 26 0 pred.toNat succ.toNat peng.toNat seng.toNat (sc.code))
  | .fenceSc sc => some (encFR 26 0 0 0 0 0 (16 + sc.code))
  | .bini a b wa wb => some (encFR 27 0 a.toNat b.toNat wa.toNat wb.toNat 0)
  | .barv d a wa => some (encFR 27 d.toNat a.toNat 0 wa.toNat 0 1)
  | .bard d a wa => some (encFR 27 d.toNat a.toNat 0 wa.toNat 0 2)
  | .bwait d a b wa wb => some (encFR 27 d.toNat a.toNat b.toNat wa.toNat wb.toNat 3)
  | .btst d a b wa wb => some (encFR 27 d.toNat a.toNat b.toNat wa.toNat wb.toNat 4)
  | .pbarv d a wa => some (encFR 27 d.toNat a.toNat 0 wa.toNat 0 5)
  | .send d a b wa wb => some (encFR 28 d.toNat a.toNat b.toNat wa.toNat wb.toNat 0)
  | .sendv v a b wa wb => some (encFR 28 (v.toNat) a.toNat b.toNat wa.toNat wb.toNat 1)
  | .post a b wa wb => some (encFR 28 0 a.toNat b.toNat wa.toNat wb.toNat 2)
  | .unpost d a wa => some (encFR 28 d.toNat a.toNat 0 wa.toNat 0 3)
  | .probe d a wa => some (encFR 28 d.toNat a.toNat 0 wa.toNat 0 4)
  | .leesPop d a wa => some (encFR 28 d.toNat a.toNat 0 wa.toNat 0 5)
  | .leesCnt d => some (encFR 28 d.toNat 0 0 0 0 6)
  | .mcst d a b wa wb => some (encFR 28 d.toNat a.toNat b.toNat wa.toNat wb.toNat 7)
  | .sysc d a b wa wb => some (encFR 29 d.toNat a.toNat b.toNat wa.toNat wb.toNat 0)
  | .trap a wa => some (encFR 29 0 a.toNat 0 wa.toNat 0 1)
  | .brk n => some (encFR 29 (n.toNat / 32) (n.toNat % 32) 0 0 0 2)
  | .idle a wa => some (encFR 29 0 a.toNat 0 wa.toNat 0 3)
  | .halt d a wa => some (encFR 29 d.toNat a.toNat 0 wa.toNat 0 4)
  | .resume d a wa => some (encFR 29 d.toNat a.toNat 0 wa.toNat 0 5)
  | .pwrqF d => some (encFR 30 d.toNat 0 0 0 0 0)
  | .rampq d => some (encFR 30 d.toNat 0 0 0 0 1)
  | .skim a b wa wb => some (encFR 30 0 a.toNat b.toNat wa.toNat wb.toNat 2)
  | .clkm d a wa => some (encFR 30 d.toNat a.toNat 0 wa.toNat 0 3)
  | .pwrqN d => some (encFR 30 d.toNat 0 0 0 0 4)
  | .vld vd sa i7 => some (encFV 32 vd.toNat sa.toNat (i7.toNat % 16) 0 0 (0 + i7.toNat / 16))
  | .vst vd sa i7 => some (encFV 32 vd.toNat sa.toNat (i7.toNat % 16) 0 0 (8 + i7.toNat / 16))
  | .vlds vd sa sb t => some (encFV 32 vd.toNat sa.toNat sb.toNat t.code 0 16)
  | .vsts vd sa sb t => some (encFV 32 vd.toNat sa.toNat sb.toNat t.code 0 17)
  | .vgath vd sa vb t => some (encFV 33 vd.toNat sa.toNat vb.toNat t.code 0 0)
  | .vscat vd sa vb t => some (encFV 33 vd.toNat sa.toNat vb.toNat t.code 0 1)
  | .vadd vd va vb t r => some (encFV 34 vd.toNat va.toNat vb.toNat t.code r.code 0)
  | .vsub vd va vb t r => some (encFV 34 vd.toNat va.toNat vb.toNat t.code r.code 1)
  | .vmul vd va vb t r => some (encFV 34 vd.toNat va.toNat vb.toNat t.code r.code 2)
  | .vdiv vd va vb t r => some (encFV 34 vd.toNat va.toNat vb.toNat t.code r.code 3)
  | .vmin vd va vb t => some (encFV 34 vd.toNat va.toNat vb.toNat t.code 0 4)
  | .vmax vd va vb t => some (encFV 34 vd.toNat va.toNat vb.toNat t.code 0 5)
  | .vmag vd va t => some (encFV 34 vd.toNat va.toNat 0 t.code 0 6)
  | .vneg vd va t => some (encFV 34 vd.toNat va.toNat 0 t.code 0 7)
  | .vfma vd va vb t r => some (encFV 35 vd.toNat va.toNat vb.toNat t.code r.code 0)
  | .vfms vd va vb t r => some (encFV 35 vd.toNat va.toNat vb.toNat t.code r.code 1)
  | .vfnma vd va vb t r => some (encFV 35 vd.toNat va.toNat vb.toNat t.code r.code 2)
  | .vaddInt vd va vb t => some (encFV 36 vd.toNat va.toNat vb.toNat t.code 0 0)
  | .vsubInt vd va vb t => some (encFV 36 vd.toNat va.toNat vb.toNat t.code 0 1)
  | .vmulInt vd va vb t => some (encFV 36 vd.toNat va.toNat vb.toNat t.code 0 2)
  | .vminInt vd va vb t => some (encFV 36 vd.toNat va.toNat vb.toNat t.code 0 4)
  | .vmaxInt vd va vb t => some (encFV 36 vd.toNat va.toNat vb.toNat t.code 0 5)
  | .vmagInt vd va t => some (encFV 36 vd.toNat va.toNat 0 t.code 0 6)
  | .vnegInt vd va t => some (encFV 36 vd.toNat va.toNat 0 t.code 0 7)
  | .vand vd va vb => some (encFV 37 vd.toNat va.toNat vb.toNat 0 0 0)
  | .vor vd va vb => some (encFV 37 vd.toNat va.toNat vb.toNat 0 0 1)
  | .vxor vd va vb => some (encFV 37 vd.toNat va.toNat vb.toNat 0 0 2)
  | .vnot vd va => some (encFV 37 vd.toNat va.toNat 0 0 0 3)
  | .vshl vd va vb t => some (encFV 37 vd.toNat va.toNat vb.toNat t.code 0 4)
  | .vshr vd va vb t => some (encFV 37 vd.toNat va.toNat vb.toNat t.code 0 5)
  | .vsra vd va vb t => some (encFV 37 vd.toNat va.toNat vb.toNat t.code 0 6)
  | .vcmpEq vd va vb t => some (encFV 38 vd.toNat va.toNat vb.toNat t.code 0 0)
  | .vcmpNe vd va vb t => some (encFV 38 vd.toNat va.toNat vb.toNat t.code 0 1)
  | .vcmpLt vd va vb t => some (encFV 38 vd.toNat va.toNat vb.toNat t.code 0 2)
  | .vcmpLe vd va vb t => some (encFV 38 vd.toNat va.toNat vb.toNat t.code 0 3)
  | .vcmpGt vd va vb t => some (encFV 38 vd.toNat va.toNat vb.toNat t.code 0 4)
  | .vcmpGe vd va vb t => some (encFV 38 vd.toNat va.toNat vb.toNat t.code 0 5)
  | .vcmpAb vd va t => some (encFV 38 vd.toNat va.toNat 0 t.code 0 6)
  | .vcmpNan vd va t => some (encFV 38 vd.toNat va.toNat 0 t.code 0 7)
  | .vsel vd va vb t => some (encFV 38 vd.toNat va.toNat vb.toNat t.code 0 8)
  | .vcvt vd va src dst r p => some (encFV 39 vd.toNat va.toNat src.code dst.code r.code (p.toNat))
  | .vcvtX3109Std vd va p => some (encFV 39 vd.toNat va.toNat 0 13 0 (32 + p.toNat))
  | .vcvtX3109Dev vd va p => some (encFV 39 vd.toNat va.toNat 1 13 0 (32 + p.toNat))
  | .vdqntMx vd va vb t r p => some (encFV 39 vd.toNat va.toNat vb.toNat t.code r.code (64 + p.toNat))
  | .vdqntNat vd va vb t r p => some (encFV 39 vd.toNat va.toNat vb.toNat t.code r.code (96 + p.toNat))
  | .vsclMx vd va t p => some (encFV 40 vd.toNat va.toNat 0 t.code 0 (0 + p.toNat))
  | .vsclNat vd va t p => some (encFV 40 vd.toNat va.toNat 0 t.code 0 (32 + p.toNat))
  | .vqntMx vd va vb t r p => some (encFV 40 vd.toNat va.toNat vb.toNat t.code r.code (64 + p.toNat))
  | .vqntNat vd va vb t r p => some (encFV 40 vd.toNat va.toNat vb.toNat t.code r.code (96 + p.toNat))
  | .vsum vd va t r => some (encFV 41 vd.toNat va.toNat 0 t.code r.code 0)
  | .vrmax vd va t => some (encFV 41 vd.toNat va.toNat 0 t.code 0 1)
  | .vrmin vd va t => some (encFV 41 vd.toNat va.toNat 0 t.code 0 2)
  | .vmean vd va t r => some (encFV 41 vd.toNat va.toNat 0 t.code r.code 3)
  | .vcntp vd va t => some (encFV 41 vd.toNat va.toNat 0 t.code 0 4)
  | .vrcp vd va t => some (encFV 42 vd.toNat va.toNat 0 t.code 0 0)
  | .vrsq vd va t => some (encFV 42 vd.toNat va.toNat 0 t.code 0 1)
  | .vsqrt vd va t r => some (encFV 42 vd.toNat va.toNat 0 t.code r.code 2)
  | .vexp2 vd va t => some (encFV 42 vd.toNat va.toNat 0 t.code 0 3)
  | .vlog2 vd va t => some (encFV 42 vd.toNat va.toNat 0 t.code 0 4)
  | .vtanh vd va t => some (encFV 42 vd.toNat va.toNat 0 t.code 0 5)
  | .vperm vd va vb t => some (encFV 43 vd.toNat va.toNat vb.toNat t.code 0 0)
  | .vshufZl vd va vb t => some (encFV 43 vd.toNat va.toNat vb.toNat t.code 0 1)
  | .vshufZh vd va vb t => some (encFV 43 vd.toNat va.toNat vb.toNat t.code 0 2)
  | .vshufUe vd va vb t => some (encFV 43 vd.toNat va.toNat vb.toNat t.code 0 3)
  | .vshufUo vd va vb t => some (encFV 43 vd.toNat va.toNat vb.toNat t.code 0 4)
  | .vrot vd va sb t => some (encFV 43 vd.toNat va.toNat sb.toNat t.code 0 5)
  | .viota vd sa t => some (encFV 43 vd.toNat sa.toNat 0 t.code 0 6)
  | .vrotImm vd va t i7 => some (encFV 43 vd.toNat va.toNat (i7.toNat % 16) t.code 0 (16 + i7.toNat / 16))
  | .vfill vd t i7 => some (encFV 43 vd.toNat 0 (i7.toNat % 16) t.code 0 (24 + i7.toNat / 16))
  | .vmkab vd va t p => some (encFV 44 vd.toNat va.toNat 0 t.code 0 (0 + p.toNat))
  | .vmkabTail vd sa t p => some (encFV 44 vd.toNat sa.toNat 0 t.code 0 (32 + p.toNat))
  | .vtsab vd va t p => some (encFV 44 vd.toNat va.toNat 0 t.code 0 (64 + p.toNat))
  | .vbcast vd sa t => some (encFV 45 vd.toNat sa.toNat 0 t.code 0 0)
  | .vext sd va sb t => some (encFV 45 sd.toNat va.toNat sb.toNat t.code 0 1)
  | .vins vd sa sb t => some (encFV 45 vd.toNat sa.toNat sb.toNat t.code 0 2)
  | .vextImm sd va t i7 => some (encFV 45 sd.toNat va.toNat (i7.toNat % 16) t.code 0 (16 + i7.toNat / 16))
  | .vinsImm vd sa t i7 => some (encFV 45 vd.toNat sa.toNat (i7.toNat % 16) t.code 0 (24 + i7.toNat / 16))
  | .ecw e a n => some (encFC 48 e.code a.toNat 0 0 (n.toNat))
  | .ecr e d n => some (encFC 48 e.code 0 0 d.toNat (128 + n.toNat))
  | .mma a b p => some (encFC 49 0 a.toNat b.toNat p.toNat 0)
  | .mmas a b p => some (encFC 49 0 a.toNat b.toNat p.toNat 1)
  | .mzero p => some (encFC 49 0 0 0 p.toNat 2)
  | .mwait d => some (encFC 49 0 0 0 d.toNat 8)
  | .mqry d => some (encFC 49 0 0 0 d.toNat 9)
  | .mld a p => some (encFC 50 0 a.toNat 0 p.toNat 0)
  | .mdrain a p => some (encFC 50 0 a.toNat 0 p.toNat 1)
  | .mldRaw a p => some (encFC 50 0 a.toNat 0 p.toNat 2)
  | .mdrainRaw a p => some (encFC 50 0 a.toNat 0 p.toNat 3)
  | .mdrainRows a p => some (encFC 50 0 a.toNat 0 p.toNat 4)
  | .cpy a b d => some (encFC 51 1 a.toNat b.toNat d.toNat 0)
  | .cpyHs a b d => some (encFC 51 1 a.toNat b.toNat d.toNat 1)
  | .cpyHd a b d => some (encFC 51 1 a.toNat b.toNat d.toNat 2)
  | .cpyHsd a b d => some (encFC 51 1 a.toNat b.toNat d.toNat 3)
  | .cpyb a b d => some (encFC 51 1 a.toNat b.toNat d.toNat 16)
  | .cpybHs a b d => some (encFC 51 1 a.toNat b.toNat d.toNat 17)
  | .cpybHd a b d => some (encFC 51 1 a.toNat b.toNat d.toNat 18)
  | .cpybHsd a b d => some (encFC 51 1 a.toNat b.toNat d.toNat 19)
  | .dcnt a b d => some (encFC 52 2 a.toNat b.toNat d.toNat 0)
  | .rack d a => some (encFC 52 2 a.toNat 0 d.toNat 1)
  | .vntqBind d => some (encFC 52 2 0 0 d.toNat 2)
  | .vntqDrop a => some (encFC 52 2 a.toNat 0 0 3)
  | .vntqCur d => some (encFC 52 2 0 0 d.toNat 4)
  | .vntqSt d a => some (encFC 52 2 a.toNat 0 d.toNat 5)
  | .ewait e d => some (encFC 53 e.code 0 0 d.toNat 0)
  | .eqry e d => some (encFC 53 e.code 0 0 d.toNat 1)
  | .launch => none
  | .dispatch => none
  | .controlIntervalStart => none
  | .ageingPromotion => none
  | .waitConditionMet => none
  | .timeWaitExpiry => none
  | .lateDelivery => none
  | .stallLimitExpiry => none
  | .instructionLineFill => none
  | .messageArrival => none
  | .sendAnswer => none
  | .spawnRequest => none
  | .wakeRequest => none
  | .bankAccess => none
  | .accessRetry => none
  | .atomicAtHome => none
  | .reductionContribution => none
  | .accessAcknowledge => none
  | .barrierArrival => none
  | .barrierRefusal => none
  | .copyChunk => none
  | .copyCompletion => none
  | .decantChunk => none
  | .decantCompletion => none
  | .matrixGrant => none
  | .matrixStepEnd => none
  | .matrixCommandCompletion => none
  | .rampPeriod => none
  | .skimTailPeriod => none
  | .translationMiss => none
  | .translationFill => none
  | .faultBatchAnswer => none
  | .translationInvalidation => none
  | .trapRingSpace => none
  | .cellarRead => none
  | .cellarWrite => none
  | .cellarStep => none
  | .cellarResume => none
  | .freeze => none
  | .thaw => none
  | .cellarRetireRecord => none
  | .taskKill => none
  | .plotKill => none
  | .quiesceTimeout => none
  | .containmentReset => none
  | .packetHop => none
  | .boundaryRefusal => none
  | .engineRefusal => none
  | .engineResume => none
  | .engineCommandDiscard => none
  | .linkRetry => none
  | .uncorrectableError => none
  | .swap => none
  | .contextMove => none
  | .coreLost => none
  | .columnShift => none
  | .bankRepair => none
  | .laneRepair => none
  | .cellarCoreSpare => none
  | .trellisPortSpare => none
  | .droopStretch => none
  | .plumbMargin => none
  | .elasticResume => none
  | .reverseBias => none
  | .boostGrant => none
  | .staggerSlotTime => none
  | .refreshWindowStart => none
  | .refreshWindowEnd => none
  | .timeSyncMessage => none
  | .ueMessage => none
  | .storageDma => none
  | .hostAccess => none
  | .jobSubmission => none
  | .createBarrier => none
  | .freeHandle => none
  | .createCopyRegion => none
  | .createReplicaSet => none
  | .createVintage => none
  | .createRing => none
  | .writeRampTable => none
  | .launchCall => none
  | .attest => none
  | .consoleWrite => none
  | .offerWindow => none
  | .acceptWindow => none
  | .withdrawWindow => none
  | .unknownCall => none
  | .syscReply => none
  | .bindRecordWrite => none
  | .launchTableWrite => none
  | .managementSettingWrite => none
  | .moduleBoot => none
  | .illegalWord => none
  | .idleTimeReached => none
  | .tileLost => none

/-- The word of an instruction. -/
def encode (i : Instr) : Option Insn := (encodeNat i).map (BitVec.ofNat 32)

end Sys2Proof
end

