-- ==== Sys2Proof/Machine/Control.lean ====
section
/-!
DEFINITION. Sys2Proof/Machine/Control.lean: literals, branches, jumps, hardware loops, control registers, identity and
time queries: majors 0x0B to 0x10, 0x12 and 0x13 (spec/04 R71 to R85; spec/14 R260; spec/16 R272).
-/
namespace Sys2Proof.Machine

/-! ### Literals (spec/03 R51, spec/04 R71) -/

/-- The address of a literal: the PC with bits [2:0] cleared, plus off × 8, as a virtual address (DEDUCED: log 20). -/
def litAt (pc : Word) (off : BitVec 18) : Word :=
  BitVec.ofNat 64 (bits (BitVec.ofNat 64 (pc.toNat / 8 * 8) + (off.signExtend 64 <<< 3)) 56 0)

/-- A fetch or `ldl` needs X (spec/06 R109). -/
def needCode : Need := ⟨.literal, true, false, false, false, false⟩

/-- `ldl` reads through the instruction cache: after 5 cycles on a hit, when the line has arrived on a miss (spec/04 R71,
R86). A literal that cannot be read traps ECC_UNCORRECTABLE here (spec/18 R305). -/
def execLdl (d : Reg) (z : LdSize) (off : BitVec 18) (s : State) : Out :=
  gateC [] [.s d] (fun s =>
    let p := litAt s.slot.pc off
    access needCode [(p, ldBytes z)] (fun ps s =>
      if s.unreadable ps then trap .ecc p s
      else
        done (s.send ((s.flight (.s d) .ld false false s.cur.tile 1 1 p (.read ps (.code z))).lasting 0
          (if s.lineIn s.cur.tile p then 5 else 0)))) s) s

/-! ### Transfers (spec/04 R72 to R75, R79) -/

/-- The ILLEGAL trap of the word at the PC (spec/03 R59). -/
def illegal (s : State) : Out := trap .illegal (BitVec.ofNat 64 s.slot.ir.toNat) s

/-- The levels that stay active when a transfer at an address takes a target (spec/04 R79). -/
def keptLevels (pc target : Word) (ls : List Loop) : List Loop :=
  if ls.any fun l => l.has pc then ls.filter fun l => l.has target else ls

/-- The checks of a target (spec/04 R72), and then the transfer. -/
def transfer (target : Word) (k : State → Out) (s : State) : Out :=
  if bits target 63 57 ≠ 0 then trap .windowRange target s
  else if target.toNat % 4 ≠ 0 then trap .misaligned target s
  else k s

/-- A transfer that pops the levels it leaves. -/
def jumpTo (target : Word) (s : State) : Out :=
  transfer target (fun s => .next (s.goTo target (keptLevels s.slot.pc target s.slot.loops) s.slot.lc).taken) s

/-- A call: the link is written and no level is popped; at the last address of an active body it is illegal. -/
def callTo (d : Reg) (target : Word) (s : State) : Out :=
  transfer target (fun s => .next ((s.write d (s.slot.pc + 4)).goTo target s.slot.loops s.slot.lc).taken) s

/-- A `jal` or `jalr` at the last address of an active body (spec/04 R79). -/
def atFoot (s : State) : Bool := s.slot.loops.any fun l => l.last == s.slot.pc

/-- A conditional branch (spec/04 R73). -/
def branch (a b : Reg) (off : BitVec 13) (cond : Word → Word → Bool) (s : State) : Out :=
  gate [.s a false, .s b false] [] (fun s =>
    if cond (s.slot.s a) (s.slot.s b) then jumpTo (s.slot.pc + (off.signExtend 64 <<< 2)) s else done s) s

def execBrEq (a b : Reg) (off : BitVec 13) (s : State) : Out := branch a b off (fun x y => x == y) s
def execBrNe (a b : Reg) (off : BitVec 13) (s : State) : Out := branch a b off (fun x y => x != y) s
def execBrLt (a b : Reg) (off : BitVec 13) (s : State) : Out := branch a b off (fun x y => decide (x.toInt < y.toInt)) s
def execBrGe (a b : Reg) (off : BitVec 13) (s : State) : Out := branch a b off (fun x y => decide (y.toInt ≤ x.toInt)) s
def execBrLtn (a b : Reg) (off : BitVec 13) (s : State) : Out := branch a b off (fun x y => decide (x.toNat < y.toNat)) s
def execBrGen (a b : Reg) (off : BitVec 13) (s : State) : Out := branch a b off (fun x y => decide (y.toNat ≤ x.toNat)) s

def execJmp (off : BitVec 26) (s : State) : Out := jumpTo (s.slot.pc + (off.signExtend 64 <<< 2)) s

def execJal (off : BitVec 26) (s : State) : Out :=
  if atFoot s then illegal s
  else gate [] [.s 31] (fun s => callTo 31 (s.slot.pc + (off.signExtend 64 <<< 2)) s) s

def execJr (a : Reg) (wa : Bool) (s : State) : Out :=
  gate [.s a wa] [] (fun s => jumpTo (s.slot.s a) s) s

def execJalr (d a : Reg) (wa : Bool) (s : State) : Out :=
  if atFoot s then illegal s else gate [.s a wa] [.s d] (fun s => callTo d (s.slot.s a) s) s

/-! ### Hardware loops (spec/03 R50; spec/04 R76 to R80) -/

/-- The checks of a loop instruction: its body ends no later than the innermost active body, a level is free and the
counter is not in use. -/
def loopChecks (lvl : BitVec 2) (len : BitVec 9) (k : State → Out) (s : State) : Out :=
  let last := s.slot.pc + BitVec.ofNat 64 (4 * len.toNat)
  if s.slot.loops.head?.any fun l => decide (l.last.toNat < last.toNat) then illegal s
  else if 3 ≤ s.slot.loops.length ∨ s.slot.loops.any fun l => l.ctr == lvl.toNat then trap .loopDepth 0 s
  else k s

/-- A loop starts with a count, or its body is passed over. -/
def startLoop (lvl : BitVec 2) (len : BitVec 9) (count : Word) (s : State) : Out :=
  let pc := s.slot.pc
  if count = 0 then .next (s.goTo (pc + BitVec.ofNat 64 (4 * (len.toNat + 1))) s.slot.loops s.slot.lc).taken
  else .next (s.goTo (pc + 4) (⟨lvl.toNat, pc + 4, pc + BitVec.ofNat 64 (4 * len.toNat)⟩ :: s.slot.loops)
    (vset s.slot.lc lvl.toNat count))

def execLoop (lvl : BitVec 2) (a : Reg) (len : BitVec 9) (s : State) : Out :=
  loopChecks lvl len (fun s => gate [.s a false] [] (fun s => startLoop lvl len (s.slot.s a) s) s) s

def execLoopi (lvl : BitVec 2) (count : BitVec 14) (len : BitVec 9) (s : State) : Out :=
  loopChecks lvl len (fun s => startLoop lvl len (count.setWidth 64) s) s

/-- The levels outside the one that holds a counter, with that level. -/
def leaveLevel (ctr : Nat) : List Loop → Option (Loop × List Loop)
  | [] => none
  | l :: r => if l.ctr = ctr then some (l, r) else leaveLevel ctr r

def execLbrk (lvl : BitVec 2) (s : State) : Out :=
  match leaveLevel lvl.toNat s.slot.loops with
  | some (l, r) => .next (s.goTo (l.last + 4) r s.slot.lc).taken
  | none => illegal s

/-! ### Identity and time queries, major 0x12 (spec/12 R223; spec/14 R260; spec/16 R272) -/

/-- The word of `topo` (spec/12 R223). -/
def topoW (g : Grade) (p : Plot) : Nat := g.cores * 2 ^ 48 + p.count % 65536 * 2 ^ 32 + p.h % 65536 * 2 ^ 16 + p.w % 65536

def execTopo (d : Reg) (s : State) : Out :=
  gate [] [.s d] (fun s => done (s.later (.s d) .none false ((s.own.map (topoW s.wafer.grade)).getD 0) 4)) s

/-- CTXID (spec/03 R58). -/
def ctxidW (s : State) : Word := (s.own.map Plot.ctxid).getD 0

def execCtxid (d : Reg) (s : State) : Out := gate [] [.s d] (fun s => writeDone d (ctxidW s) s) s

def execStage (d : Reg) (s : State) : Out :=
  gate [] [.s d] (fun s => writeDone d (BitVec.ofNat 64
    (((s.own.map Plot.lastStage).getD 0) % 256 * 256 + s.stageOf s.cur.tile s.slot.run.queue)) s) s

def execTime (d : Reg) (s : State) : Out := gate [] [.s d] (fun s => writeAfter 2 d (BitVec.ofNat 64 s.wafer.time) s) s

def execCyc (d : Reg) (s : State) : Out := gate [] [.s d] (fun s => writeDone d (BitVec.ofNat 64 (s.cycles s.cur.tile)) s) s

/-! ### Control registers, major 0x13 (spec/03 R56 to R61; spec/04 R82 to R84) -/

/-- CLKMODE [3:0] of a tile (spec/03 R60). -/
def State.clkmode (s : State) (t : Nat) : Nat :=
  let x := s.getTile t
  x.thermal.toNat * 8 + x.curlim.toNat * 4 + x.boost.toNat * 2 + ((s.plotOf t).map fun p => p.plumb.toNat).getD 0

/-- What a control register of a slot reads as. -/
def State.csr (s : State) (l : SlotLoc) (c : Csr) : Word :=
  let x := s.getSlot l
  let t := s.getTile l.tile
  match c with
  | .status => x.status
  | .ctxid => ((s.plotOf l.tile).map Plot.ctxid).getD 0
  | .slot => s.slotReg l
  | .trapc => x.trapc
  | .trapv => x.trapv
  | .budget => BitVec.ofNat 64 (t.common % 2 ^ 32 * 2 ^ 32) ||| (BitVec.ofInt 32 t.irem).setWidth 64
  | .clkmode => BitVec.ofNat 64 (s.clkmode l.tile)
  | .loopst => BitVec.ofNat 64 x.loops.length
  | .leesc => BitVec.ofNat 64 (t.ctx.leesFull.toNat * 65536 + t.ctx.lees.length)
  | .fecfg => x.fecfg

/-- The bits that tile code may change (spec/04 R83). -/
def Csr.mask : Csr → Word
  | .status => 0x19F
  | .fecfg => 0xFFFFFFFF
  | .leesc => 0x10000
  | _ => 0

/-- LEESC.FULL: only writing 0 has effect (spec/03 R61), and a refusal of the same cycle leaves it set (spec/04 R85). -/
def Ctx.clearFull (c : Ctx) (clear : Bool) (now : Nat) : Ctx :=
  { c with leesFull := c.leesFull && (!clear || c.leesFullAt == some now) }

/-- A control register written whole, reserved bits excepted (spec/03 R56). -/
def State.putCsr (s : State) (l : SlotLoc) (c : Csr) (x : Word) : State :=
  match c with
  | .status => s.onSlot l fun y => { y with status := x &&& 0x19F }
  | .trapc => s.onSlot l fun y => { y with trapc := x &&& 0x100FF }
  | .trapv => s.onSlot l fun y => { y with trapv := x }
  | .fecfg => s.onSlot l fun y => { y with fecfg := x &&& 0xFFFFFFFF }
  | .leesc => s.onCtx l.tile fun y => y.clearFull (bits x 16 16 == 0) (s.clk l.tile)
  | _ => s

/-- A float atomic has not yet set its flags, and this is an access to STATUS (spec/04 R84). -/
def statusBusy (c : Csr) (s : State) : Bool :=
  c == .status && s.flights.any fun f => s.mine f && (match f.req with
    | .amo _ ty _ _ _ _ => ty.isFloat
    | _ => false)

def execCsrrd (d : Reg) (c : Csr) (s : State) : Out :=
  gate [] [.s d] (fun s => if statusBusy c s then stalled s else writeDone d (s.csr s.cur c) s) s

/-- A write of the bits in W: the value kept of LEESC.FULL never becomes 1 (spec/04 R83). -/
def csrWrite (c : Csr) (d a : Reg) (wa : Bool) (f : Word → Word → Word → Word) (s : State) : Out :=
  if Csr.mask c = 0 then trap .privilege (BitVec.ofNat 64 c.code) s
  else gate [.s a wa] [.s d] (fun s =>
    if statusBusy c s then stalled s
    else
      let old := s.csr s.cur c
      let new := f old (s.slot.s a) (Csr.mask c)
      let new := if c = .leesc then old &&& new else new
      writeDone d old (s.putCsr s.cur c new)) s

def execCsrwr (d : Reg) (c : Csr) (a : Reg) (wa : Bool) (s : State) : Out :=
  csrWrite c d a wa (fun old x w => (old &&& ~~~w) ||| (x &&& w)) s
def execCsrset (d : Reg) (c : Csr) (a : Reg) (wa : Bool) (s : State) : Out :=
  csrWrite c d a wa (fun old x w => old ||| (x &&& w)) s
def execCsrclr (d : Reg) (c : Csr) (a : Reg) (wa : Bool) (s : State) : Out :=
  csrWrite c d a wa (fun old x w => old &&& ~~~(x &&& w)) s

end Sys2Proof.Machine
end

