-- ==== Sys2Proof/Machine/Lanes.lean ====
section
/-!
DEFINITION. Sys2Proof/Machine/Lanes.lean: lanes of vector registers, the shapes of vector instructions, and vector
accesses: majors 0x20 and 0x21 (spec/11 R197 to R205).
-/
namespace Sys2Proof.Machine

/-! ### Lanes (spec/11 R197) -/

/-- The n lowest lanes of w bits of a number. -/
def lanesFrom (w : Nat) : Nat → Nat → List Nat
  | 0, _ => []
  | n + 1, x => x % 2 ^ w :: lanesFrom w n (x / 2 ^ w)

/-- The lanes of a register for a type. -/
def lanes (t : ElemTy) (v : VReg) : List Nat := lanesFrom t.bits t.lanes v.toNat

/-- Lanes of w bits laid side by side, lane 0 lowest; every byte above them is zero. -/
def joinLanes (w : Nat) : List Nat → Nat
  | [] => 0
  | x :: xs => x % 2 ^ w + 2 ^ w * joinLanes w xs

/-- A register made of lanes. -/
def vecOf (w : Nat) (xs : List Nat) : VReg := BitVec.ofNat 4096 (joinLanes w xs)

/-- Lane i of a register. -/
def laneAt (t : ElemTy) (v : VReg) (i : Nat) : Nat := v.toNat / 2 ^ (t.bits * i) % 2 ^ t.bits

/-- A scalar register named by a 4-bit field (spec/11 R198). -/
def sOf (v : VNum) : Reg := v.setWidth 5

/-- The register k places above another. -/
def vNext (v : VNum) (k : Nat) : VNum := v + BitVec.ofNat 4 k

/-- Codes with the OR of their flags (spec/11 R200). -/
def gather (xs : List (Nat × Nat)) : List Nat × Nat := (xs.map Prod.fst, xs.foldl (fun f x => f ||| x.2) 0)

/-! ### Shapes -/

/-- The vector datapath of the core taken for cycles; while another instruction holds it, the slot stalls
(spec/11 R202). -/
def vecPath (cyc : Nat) (k : State → Out) (s : State) : Out :=
  if s.now < vget s.tile.ctx.vecAt s.cur.core 0 then stalled s
  else k { s with tile := { s.tile with ctx := { s.tile.ctx with vecAt := vset s.tile.ctx.vecAt s.cur.core (s.now + cyc) } } }

/-- A vector result with flags, after its latency. The flags reach STATUS as the instruction issues, so that an access to
STATUS behind it does not wait (DESIGN CHOICE: log 58). -/
def vecDone (lat : Nat) (vd : VNum) (x : VReg) (fl : Nat) (s : State) : Out :=
  done { s with slot := (s.slot.vwriteFrom vd x (s.now + lat)).raise fl }

/-- The datapath cycles and the result latency of a vector instruction (spec/11 R202). -/
structure VecTime where
  cyc : Nat
  lat : Nat
  deriving DecidableEq, Repr

/-- Majors 0x22, 0x24 to 0x26, 0x2B and 0x2C, `vbcast` and `vins`. -/
def vecPlain : VecTime := ⟨4, 6⟩
/-- Major 0x23. -/
def vecFused : VecTime := ⟨4, 8⟩
/-- `vdiv` and major 0x2A. -/
def vecLong : VecTime := ⟨16, 20⟩
/-- Major 0x29. -/
def vecReduce : VecTime := ⟨4, 10⟩
/-- Conversions that hold the datapath for some registers. -/
def vecConv (n : Nat) : VecTime := ⟨4 * n, 4 * n + 2⟩

/-- v[d] := f(v[a], v[b]) with flags. -/
def vop2 (tm : VecTime) (vd va vb : VNum) (f : VReg → VReg → VReg × Nat) (s : State) : Out :=
  gate [.v va, .v vb] [.v vd] (vecPath tm.cyc fun s =>
    let (x, fl) := f (s.slot.v va) (s.slot.v vb)
    vecDone tm.lat vd x fl s) s

/-- v[d] := f(v[a]) with flags. -/
def vop1 (tm : VecTime) (vd va : VNum) (f : VReg → VReg × Nat) (s : State) : Out :=
  gate [.v va] [.v vd] (vecPath tm.cyc fun s =>
    let (x, fl) := f (s.slot.v va)
    vecDone tm.lat vd x fl s) s

/-- v[d] := f(v[a], v[b], v[d]) with flags. -/
def vop3 (tm : VecTime) (vd va vb : VNum) (f : VReg → VReg → VReg → VReg × Nat) (s : State) : Out :=
  gate [.v va, .v vb, .v vd] [.v vd] (vecPath tm.cyc fun s =>
    let (x, fl) := f (s.slot.v va) (s.slot.v vb) (s.slot.v vd)
    vecDone tm.lat vd x fl s) s

/-- v[d] := f(s[a]). -/
def vopS (vd sa : VNum) (f : Word → VReg) (s : State) : Out :=
  gate [.s (sOf sa) false] [.v vd] (vecPath vecPlain.cyc fun s => vecDone vecPlain.lat vd (f (s.slot.s (sOf sa))) 0 s) s

/-- Lane by lane, with flags. -/
def lanewise2 (t : ElemTy) (f : Nat → Nat → Nat × Nat) (x y : VReg) : VReg × Nat :=
  let (cs, fl) := gather (List.zipWith f (lanes t x) (lanes t y))
  (vecOf t.bits cs, fl)

/-- Lane by lane of one register, with flags. -/
def lanewise1 (t : ElemTy) (f : Nat → Nat × Nat) (x : VReg) : VReg × Nat :=
  let (cs, fl) := gather ((lanes t x).map f)
  (vecOf t.bits cs, fl)

/-- Lane by lane of three registers, with flags. -/
def lanewise3 (t : ElemTy) (f : Nat → Nat → Nat → Nat × Nat) (x y z : VReg) : VReg × Nat :=
  let (cs, fl) := gather (List.zipWith (fun g c => g c) (List.zipWith f (lanes t x) (lanes t y)) (lanes t z))
  (vecOf t.bits cs, fl)

/-! ### Vector accesses (spec/11 R203 to R205) -/

/-- A lane whose pointer leaves its offset field, or whose access is not in its window. -/
def badLane (tiles n : Nat) : Option Word → Bool
  | none => true
  | some p => !wellFormed tiles p n

/-- The checks of a vector access whose lanes are n bytes at offsets from a base: causes first, and within a cause the
lowest lane (spec/11 R203, R204). -/
def vecChecks (nd : Need) (base : Word) (offs : List Int) (n align : Nat) (k : List Word → List (Place × Nat) → State → Out)
    (s : State) : Out :=
  let qs := offs.map (addOff s.tiles base)
  match qs.find? (badLane s.tiles n) with
  | some q => trap .windowRange (q.getD base) s
  | none =>
    let ps := qs.filterMap id
    match ps.find? s.foreign with
    | some p => trap .foreignWindow p s
    | none =>
      match ps.find? fun p => decide (p.toNat % align ≠ 0) with
      | some p => trap .misaligned p s
      | none => access nd (ps.map fun p => (p, n)) (k ps) s

/-- A vector load sent; only a contiguous one has a fixed latency. The datapath is asked for once the checks of the access are
over: one that traps or misses its translation does not wait for it (spec/11 R202; DESIGN CHOICE: log 81). -/
def vecLoad (vd : VNum) (whole : Bool) (ps : List Word) (qs : List (Place × Nat)) (s : State) : Out :=
  vecPath 4 (fun s => sendRead (.v vd) (ps.headD 0) qs .vec (if whole then s.readLat 10 14 qs else 0) s) s

/-- A vector store sent, with the datapath asked for as for a load (DESIGN CHOICE: log 81). -/
def vecStore (vd : VNum) (ps : List Word) (qs : List (Place × Nat)) (s : State) : Out :=
  vecPath 4 (fun s => sendWrite (ps.headD 0) qs (leBytes 512 (s.slot.v vd).toNat) s) s

def execVld (vd sa : VNum) (i7 : BitVec 7) (s : State) : Out :=
  gateC [.s (sOf sa) false] [.v vd] (fun s =>
    vecChecks needLd (s.slot.s (sOf sa)) [i7.toInt * 64] 512 64 (vecLoad vd true) s) s

def execVst (vd sa : VNum) (i7 : BitVec 7) (s : State) : Out :=
  gateC [.s (sOf sa) false, .v vd] [] (fun s =>
    vecChecks needSt (s.slot.s (sOf sa)) [i7.toInt * 64] 512 64 (vecStore vd) s) s

/-- The offsets of a strided access. -/
def strideOffs (t : ElemTy) (k : Word) : List Int := (List.range t.lanes).map fun (j : Nat) => (j : Int) * k.toInt

def execVlds (vd sa sb : VNum) (t : ElemTy) (s : State) : Out :=
  gateC [.s (sOf sa) false, .s (sOf sb) false] [.v vd] (fun s =>
    vecChecks needLd (s.slot.s (sOf sa)) (strideOffs t (s.slot.s (sOf sb))) (t.bits / 8) (t.bits / 8) (vecLoad vd false) s) s

def execVsts (vd sa sb : VNum) (t : ElemTy) (s : State) : Out :=
  gateC [.s (sOf sa) false, .s (sOf sb) false, .v vd] [] (fun s =>
    vecChecks needSt (s.slot.s (sOf sa)) (strideOffs t (s.slot.s (sOf sb))) (t.bits / 8) (t.bits / 8) (vecStore vd) s) s

/-- The offsets of a gather or scatter: the n32 lanes of the index vector. -/
def indexOffs (t : ElemTy) (v : VReg) : List Int := ((lanes .n32 v).take t.lanes).map fun (i : Nat) => (i : Int)

def execVgath (vd sa vb : VNum) (t : ElemTy) (s : State) : Out :=
  gateC [.s (sOf sa) false, .v vb] [.v vd] (fun s =>
    vecChecks needLd (s.slot.s (sOf sa)) (indexOffs t (s.slot.v vb)) (t.bits / 8) (t.bits / 8) (vecLoad vd false) s) s

def execVscat (vd sa vb : VNum) (t : ElemTy) (s : State) : Out :=
  gateC [.s (sOf sa) false, .v vb, .v vd] [] (fun s =>
    vecChecks needSt (s.slot.s (sOf sa)) (indexOffs t (s.slot.v vb)) (t.bits / 8) (t.bits / 8) (vecStore vd) s) s

end Sys2Proof.Machine
end

