-- ==== Sys2Proof/Machine/RunAhead.lean ====
section
/-!
DEFINITION. Sys2Proof/Machine/RunAhead.lean: run-ahead: a faulting slot executes onward on a copy of its registers, for
addresses only, and reports what else is not present (spec/06 R114).
-/
namespace Sys2Proof.Machine

/-- How run-ahead takes an instruction. -/
inductive Ahead where
  /-- executes on the copy where its sources are known; else its destination is unknown -/
  | pure (srcs : List Reg) (dest : Dest) (f : State → Out)
  /-- executes on the copy where its sources are known; else run-ahead ends -/
  | flow (srcs : List Reg) (f : State → Out)
  /-- an access: where its address is known it is translated and goes no further; its destination is unknown -/
  | access (srcs : List Src) (dest : Dest) (use : XUse) (ptrs : State → List (Option Word)) (n : Nat)
  /-- any other instruction ends run-ahead -/
  | stop

/-- The lanes of a vector access from a base. -/
def lanePtrs (base : VNum) (offs : State → List Int) (s : State) : List (Option Word) :=
  (offs s).map (addOff s.tiles (s.slot.s (sOf base)))

/-- Scalar and immediate instructions, `lea`, pointers, branches, jumps and loops, and accesses. Reads of control registers
and of the part's own counts, which the specification does not place, end run-ahead (DESIGN CHOICE: log 36). -/
def aheadOf (i : Instr) : Ahead :=
  match i with
  | .add d a b wa wb => .pure [a, b] (.s d) (Sys2Proof.Machine.execAdd d a b wa wb)
  | .sub d a b wa wb => .pure [a, b] (.s d) (Sys2Proof.Machine.execSub d a b wa wb)
  | .mul d a b wa wb => .pure [a, b] (.s d) (Sys2Proof.Machine.execMul d a b wa wb)
  | .mulh d a b wa wb => .pure [a, b] (.s d) (Sys2Proof.Machine.execMulh d a b wa wb)
  | .mulhn d a b wa wb => .pure [a, b] (.s d) (Sys2Proof.Machine.execMulhn d a b wa wb)
  | .div d a b wa wb => .pure [a, b] (.s d) (Sys2Proof.Machine.execDiv d a b wa wb)
  | .divn d a b wa wb => .pure [a, b] (.s d) (Sys2Proof.Machine.execDivn d a b wa wb)
  | .rem d a b wa wb => .pure [a, b] (.s d) (Sys2Proof.Machine.execRem d a b wa wb)
  | .remn d a b wa wb => .pure [a, b] (.s d) (Sys2Proof.Machine.execRemn d a b wa wb)
  | .and d a b wa wb => .pure [a, b] (.s d) (Sys2Proof.Machine.execAnd d a b wa wb)
  | .or d a b wa wb => .pure [a, b] (.s d) (Sys2Proof.Machine.execOr d a b wa wb)
  | .xor d a b wa wb => .pure [a, b] (.s d) (Sys2Proof.Machine.execXor d a b wa wb)
  | .andn d a b wa wb => .pure [a, b] (.s d) (Sys2Proof.Machine.execAndn d a b wa wb)
  | .orn d a b wa wb => .pure [a, b] (.s d) (Sys2Proof.Machine.execOrn d a b wa wb)
  | .shl d a b wa wb => .pure [a, b] (.s d) (Sys2Proof.Machine.execShl d a b wa wb)
  | .shr d a b wa wb => .pure [a, b] (.s d) (Sys2Proof.Machine.execShr d a b wa wb)
  | .sra d a b wa wb => .pure [a, b] (.s d) (Sys2Proof.Machine.execSra d a b wa wb)
  | .rol d a b wa wb => .pure [a, b] (.s d) (Sys2Proof.Machine.execRol d a b wa wb)
  | .ror d a b wa wb => .pure [a, b] (.s d) (Sys2Proof.Machine.execRor d a b wa wb)
  | .clz d a wa => .pure [a] (.s d) (Sys2Proof.Machine.execClz d a wa)
  | .ctz d a wa => .pure [a] (.s d) (Sys2Proof.Machine.execCtz d a wa)
  | .popc d a wa => .pure [a] (.s d) (Sys2Proof.Machine.execPopc d a wa)
  | .min d a b wa wb => .pure [a, b] (.s d) (Sys2Proof.Machine.execMin d a b wa wb)
  | .max d a b wa wb => .pure [a, b] (.s d) (Sys2Proof.Machine.execMax d a b wa wb)
  | .minn d a b wa wb => .pure [a, b] (.s d) (Sys2Proof.Machine.execMinn d a b wa wb)
  | .maxn d a b wa wb => .pure [a, b] (.s d) (Sys2Proof.Machine.execMaxn d a b wa wb)
  | .sext d a b wa wb => .pure [a, b] (.s d) (Sys2Proof.Machine.execSext d a b wa wb)
  | .zext d a b wa wb => .pure [a, b] (.s d) (Sys2Proof.Machine.execZext d a b wa wb)
  | .slt d a b wa wb => .pure [a, b] (.s d) (Sys2Proof.Machine.execSlt d a b wa wb)
  | .sltn d a b wa wb => .pure [a, b] (.s d) (Sys2Proof.Machine.execSltn d a b wa wb)
  | .seq d a b wa wb => .pure [a, b] (.s d) (Sys2Proof.Machine.execSeq d a b wa wb)
  | .sne d a b wa wb => .pure [a, b] (.s d) (Sys2Proof.Machine.execSne d a b wa wb)
  | .addi d a imm wa => .pure [a] (.s d) (Sys2Proof.Machine.execAddi d a imm wa)
  | .andi d a imm wa => .pure [a] (.s d) (Sys2Proof.Machine.execAndi d a imm wa)
  | .ori d a imm wa => .pure [a] (.s d) (Sys2Proof.Machine.execOri d a imm wa)
  | .xori d a imm wa => .pure [a] (.s d) (Sys2Proof.Machine.execXori d a imm wa)
  | .shli d a n wa => .pure [a] (.s d) (Sys2Proof.Machine.execShli d a n wa)
  | .shri d a n wa => .pure [a] (.s d) (Sys2Proof.Machine.execShri d a n wa)
  | .srai d a n wa => .pure [a] (.s d) (Sys2Proof.Machine.execSrai d a n wa)
  | .slti d a imm wa => .pure [a] (.s d) (Sys2Proof.Machine.execSlti d a imm wa)
  | .sltni d a imm wa => .pure [a] (.s d) (Sys2Proof.Machine.execSltni d a imm wa)
  | .lih d a imm wa => .pure [a] (.s d) (Sys2Proof.Machine.execLih d a imm wa)
  | .lea d h off => .pure [] (.s d) (Sys2Proof.Machine.execLea d h off)
  | .winq d a wa => .pure [a] (.s d) (Sys2Proof.Machine.execWinq d a wa)
  | .wincLc d a wa => .pure [a] (.s d) (Sys2Proof.Machine.execWincLc d a wa)
  | .wincSh d a wa => .pure [a] (.s d) (Sys2Proof.Machine.execWincSh d a wa)
  | .addp d a b wa wb => .pure [a, b] (.s d) (Sys2Proof.Machine.execAddp d a b wa wb)
  | .brEq a b off => .flow [a, b] (Sys2Proof.Machine.execBrEq a b off)
  | .brNe a b off => .flow [a, b] (Sys2Proof.Machine.execBrNe a b off)
  | .brLt a b off => .flow [a, b] (Sys2Proof.Machine.execBrLt a b off)
  | .brGe a b off => .flow [a, b] (Sys2Proof.Machine.execBrGe a b off)
  | .brLtn a b off => .flow [a, b] (Sys2Proof.Machine.execBrLtn a b off)
  | .brGen a b off => .flow [a, b] (Sys2Proof.Machine.execBrGen a b off)
  | .jmp off => .flow [] (Sys2Proof.Machine.execJmp off)
  | .jal off => .flow [] (Sys2Proof.Machine.execJal off)
  | .jr a wa => .flow [a] (Sys2Proof.Machine.execJr a wa)
  | .jalr d a wa => .flow [a] (Sys2Proof.Machine.execJalr d a wa)
  | .loop lvl a len => .flow [a] (Sys2Proof.Machine.execLoop lvl a len)
  | .loopi lvl count len => .flow [] (Sys2Proof.Machine.execLoopi lvl count len)
  | .lbrk lvl => .flow [] (Sys2Proof.Machine.execLbrk lvl)
  | .ldl d z off => .access [] (.s d) .literal (fun s => [some (litAt s.slot.pc off)]) (ldBytes z)
  | .ld d base _ z off => .access [.s base false] (.s d) .read (fun s => [effPtr base off (ldBytes z) s]) (ldBytes z)
  | .st _ base _ z off => .access [.s base false] .none .write (fun s => [effPtr base off (stBytes z) s]) (stBytes z)
  | .vld vd sa i7 => .access [.s (sOf sa) false] (.v vd) .read (lanePtrs sa fun _ => [i7.toInt * 64]) 512
  | .vst _ sa i7 => .access [.s (sOf sa) false] .none .write (lanePtrs sa fun _ => [i7.toInt * 64]) 512
  | .vlds vd sa sb t => .access [.s (sOf sa) false, .s (sOf sb) false] (.v vd) .read
      (lanePtrs sa fun s => strideOffs t (s.slot.s (sOf sb))) (t.bits / 8)
  | .vsts _ sa sb t => .access [.s (sOf sa) false, .s (sOf sb) false] .none .write
      (lanePtrs sa fun s => strideOffs t (s.slot.s (sOf sb))) (t.bits / 8)
  | .vgath vd sa vb t => .access [.s (sOf sa) false, .v vb] (.v vd) .read (lanePtrs sa fun s => indexOffs t (s.slot.v vb)) (t.bits / 8)
  | .vscat _ sa vb t => .access [.s (sOf sa) false, .v vb] .none .write (lanePtrs sa fun s => indexOffs t (s.slot.v vb)) (t.bits / 8)
  | _ => .stop

/-- The unit that a fault record of a slot names: a fetch and an `ldl` have their own number (spec/06 R113, R115). -/
def slotUnit (use : XUse) : Nat := if use = .fetch ∨ use = .literal then 6 else 0

/-- The faults of an access: one for each page that is not present or has a format fault. -/
def State.aheadFaults (s : State) (use : XUse) (ps : List (Option Word)) (n : Nat) : List FaultOf :=
  let vas := (ps.flatMap fun p => match p with
    | some p => if win p = 0 ∧ wellFormed s.tiles p n then (pages (bits p 56 0) n (n / 4096 + 2)).map Prod.fst else []
    | none => [])
  let firsts := vas.foldl (fun (xs : List Nat) a => if xs.any fun b => b / 4096 == a / 4096 then xs else xs ++ [a]) []
  firsts.filterMap fun va =>
    match s.peekPlace s.cur.tile va use with
    | .error (.absent l) => some ⟨slotUnit use, false, l, use == .write, va⟩
    | .error (.format l) => some ⟨slotUnit use, true, l, use == .write, va⟩
    | _ => none

/-- A copy that waits for no latency. -/
def State.unpaced (s : State) : State :=
  { s with
    slot := { s.slot with sat := Vector.replicate 32 0, vat := Vector.replicate 16 0 }
    tile := { s.tile with ctx := { s.tile.ctx with divAt := Vector.replicate 8 0, vecAt := Vector.replicate 8 0 } } }

/-- The instruction is passed over with an unknown result. -/
def State.skipAhead (s : State) (d : Dest) : State := { s with slot := (s.slot.pend d) }.advance

/-- RUN-AHEAD from a slot that stands at the next instruction: the further faults, at most 16; the fuel counts the
instructions. An instruction that would itself trap ends it (DESIGN CHOICE: log 36). -/
def State.aheadFrom : Nat → State → List FaultOf → List FaultOf
  | 0, _, fs => fs
  | k + 1, s, fs =>
    if 16 ≤ fs.length then fs
    else
      let s := s.unpaced
      let s := { s with slot := { s.slot with ir := s.peekWord s.cur.tile s.slot.pc } }
      match aheadOf (decodeOrIllegal s.slot.ir) with
      | .stop => fs
      | .pure srcs d f =>
        if srcs.any fun r => !s.slot.isFull r then State.aheadFrom k (s.skipAhead d) fs
        else
          match f s with
          | .next s' => if s'.slot.mode = .running then State.aheadFrom k s' fs else fs
          | _ => fs
      | .flow srcs f =>
        if srcs.any fun r => !s.slot.isFull r then fs
        else
          match f s with
          | .next s' => if s'.slot.mode = .running then State.aheadFrom k s' fs else fs
          | _ => fs
      | .access srcs d use ptrs n =>
        let more := if srcs.any s.slot.srcEmpty then [] else s.aheadFaults use (ptrs s) n
        State.aheadFrom k (s.skipAhead d) ((fs ++ more).take 16)

/-- The destination of an atomic, by its constructor. -/
def amoDest (i : Instr) : Dest :=
  match i with
  | .amoAdd d _ _ _ _ _ _ => .s d
  | .amoAnd d _ _ _ _ _ _ => .s d
  | .amoOr d _ _ _ _ _ _ => .s d
  | .amoXor d _ _ _ _ _ _ => .s d
  | .amoMin d _ _ _ _ _ _ => .s d
  | .amoMax d _ _ _ _ _ _ => .s d
  | .amoMinn d _ _ _ _ _ _ => .s d
  | .amoMaxn d _ _ _ _ _ _ => .s d
  | .amoXchg d _ _ _ _ _ _ => .s d
  | .amoCas d _ _ _ _ _ _ => .s d
  | .amoFadd d _ _ _ _ _ _ => .s d
  | .amoFmax d _ _ _ _ _ _ => .s d
  | .amoFmin d _ _ _ _ _ _ => .s d
  | .amoAmaxx d _ _ _ _ => .s d
  | _ => .none

/-- The copy that runs ahead: no value arrives in it, no report leaves it, and the faulting access's result is unknown. -/
def State.aheadCopy (s : State) : State :=
  let s := { s with flights := [], slot := { s.slot with stepping := false, mode := .running } }
  match aheadOf (decodeOrIllegal s.slot.ir) with
  | .access _ d _ _ _ => s.skipAhead d
  | _ => s.skipAhead (amoDest (decodeOrIllegal s.slot.ir))

/-- The further faults of a slot whose access at its PC has faulted. -/
def State.runAhead (s : State) : List FaultOf := State.aheadFrom 256 s.aheadCopy []

end Sys2Proof.Machine
end

