-- ==== Sys2Proof/Machine/EventsTranslate.lean ====
section
/-!
DEFINITION. Sys2Proof/Machine/EventsTranslate.lean: translation misses and what comes of them: the walk, the fill, fault
batches with run-ahead, their answers, invalidations and instruction lines (spec/04 R86; spec/06 R107 to R115).
-/
namespace Sys2Proof.Machine

/-- A step about a translation miss, by its place in the list of misses in flight. -/
def onMiss (k : Nat → Xlate → State → Out) (s : State) : Out :=
  match s.arg with
  | .flight n =>
    match s.wafer.xlates[n]? with
    | some x => k n x s
    | none => .next s
  | _ => .next s

/-- The misses in flight changed. -/
def State.setMisses (s : State) (xs : List Xlate) : State := { s with wafer := { s.wafer with xlates := xs } }

/-- A miss reaches the walker, which walks the tables and marks the entry of a walk that succeeds (spec/06 R107, R109,
R110). -/
def execTranslationMiss (s : State) : Out :=
  onMiss (fun n x s =>
    if x.out.isSome || x.pkt.at_ != x.pkt.to_ then .next s
    else
      let (o, at_) := s.walk x.asid (bits x.va 56 0) x.use
      let s := s.setMisses (s.wafer.xlates.set n { x with
        out := some o
        pkt := { x.pkt with to_ := x.tile, rank := 4, esc := false, src := x.pkt.at_ * 8 + 7, lane := none, via := x.pkt.at_ } })
      .next (match at_ with
        | some a => s.markUsed a (x.use == .write)
        | none => s)) s

/-! ### Fills (spec/06 R109, R113 to R115) -/

/-- The SOURCE of an engine's fault: the slot that issued its command. -/
def State.engineSource (s : State) (t core slot owner : Nat) : Word :=
  s.faultSource t (((s.getTile t).ctx.recordAt owner).getD (0, 0)).1 core slot

/-- The slot at hand meets a fault: a batch is sent, with what run-ahead finds where it runs, and the slot waits in place
(spec/06 R114). A fetch and an `ldl` wait without run-ahead (spec/06 R115). -/
def State.faultHere (s : State) (f : FaultOf) (use : XUse) : State :=
  let more := if use = .fetch ∨ use = .literal then [] else s.runAhead
  let (b, s) := s.sendBatch (dieOf s.cur.tile) (s.asid s.cur.tile)
    (s.faultSource s.cur.tile s.slot.run.queue s.cur.core s.cur.slot) (f :: more)
  { s with slot := { s.slot with mode := .faultWait b (BitVec.ofNat 64 f.va) (use == .fetch), stallFrom := none } }

/-- The outcome of a miss of the slot at hand: it goes on, with the translation given, denied ones included, or it waits.
Its checks are made again at its next turn, when every page that it touches may be known. -/
def State.slotOutcome (s : State) (x : Xlate) (o : XOut) : State :=
  if s.slot.mode ≠ .running then s
  else
    match o with
    | .ok e => { s with slot := { s.slot with xl := s.slot.xl ++ [e] } }
    | .denied e => { s with slot := { s.slot with xl := s.slot.xl ++ [e] } }
    | o =>
      match o.fault? (slotUnit x.use) (x.use == .write) (bits x.va 56 0) with
      | some f => s.faultHere f x.use
      | none => s

/-- An engine's fault: the batch sent, and how its command stands. -/
def State.engineFault (s : State) (x : Xlate) (o : XOut) (unit : Nat) (source : Word) : EngSt × State :=
  match o with
  | .denied _ => (.failed Cause.protection.code, s)
  | o =>
    match o.fault? unit (x.use == .write) (bits x.va 56 0) with
    | some f =>
      let (b, s) := s.sendBatch (dieOf x.tile) x.asid source [f]
      (.fault b x.va, s)
    | none => (.ready, s)

/-- A translation that was given, kept with those of the same chunk. -/
def XOut.given (o : XOut) (xl : List Tlb) : List Tlb :=
  match o with
  | .ok e => xl ++ [e]
  | _ => xl

/-- The outcome of a miss told to whoever waits for it. -/
def State.tellMiss (s : State) (x : Xlate) (o : XOut) : State :=
  let c := (s.getTile x.tile).ctx
  match x.who with
  | .slot core slot => s.at ⟨x.tile, core, slot⟩ fun s => s.slotOutcome x o
  | .copy =>
    match c.ceq with
    | h :: _ =>
      let (st, s) := s.engineFault x o 1 (s.engineSource x.tile h.core h.slot h.owner)
      s.onCopy x.tile fun h => if h.st = .ready then { h with st := st, xl := o.given h.xl } else h
    | [] => s
  | .decant =>
    match c.deq with
    | h :: _ =>
      let (st, s) := s.engineFault x o 2 (s.engineSource x.tile h.core h.slot h.owner)
      s.onDecant x.tile fun h => if h.st = .ready then { h with st := st } else h
    | [] => s
  | .matrix core =>
    match c.mxHead core with
    | some h =>
      let (st, s) := s.engineFault x o 3 (s.engineSource x.tile h.core h.slot h.owner)
      s.onCtx x.tile fun c => c.onMx core fun h => if h.st = .ready then { h with st := st } else h
    | none => s
  | .hint _ _ => s

/-- The outcome returns to the tile: a translation is cached; anything else is told to the unit that waits. -/
def execTranslationFill (s : State) : Out :=
  onMiss (fun n x s =>
    match x.out with
    | none => .next s
    | some o =>
      if x.pkt.at_ ≠ x.pkt.to_ then .next s
      else
        let s := s.setMisses (s.wafer.xlates.eraseIdx n)
        .next (match o with
          | .ok e => (s.onTile x.tile fun y => y.fill e).tellMiss x o
          | o => s.tellMiss x o)) s

/-! ### Answers (spec/06 R115) -/

/-- The tiles that the state lists. -/
def State.tileList (s : State) : List Nat := s.cur.tile :: s.wafer.tiles.map Prod.fst

/-- An answer noted in a slot that cannot act on it: halted in its wait, or swapped out. -/
def Slot.noteAnswer (b : Nat) (ok : Bool) (x : Slot) : Slot :=
  match x.mode, x.fwait with
  | .faultWait b' va fetch, _ => if b' = b then { x with fwait := some (b, va, fetch, some ok) } else x
  | _, some (b', va, fetch, none) => if b' = b then { x with fwait := some (b, va, fetch, some ok) } else x
  | _, _ => x

/-- An answer acted on by an engine's command. -/
def EngSt.answer (b : Nat) (ok : Bool) (st : EngSt) : EngSt :=
  match st with
  | .fault b' _ => if b' = b then (if ok then .ready else .failed Cause.pageFault.code) else st
  | st => st

/-- An answer acted on by the engines of a context. -/
def Ctx.answerEngines (c : Ctx) (b : Nat) (ok : Bool) : Ctx :=
  { c with
    ceq := c.ceq.map fun h => { h with st := h.st.answer b ok }
    deq := c.deq.map fun h => { h with st := h.st.answer b ok }
    mq := c.mq.map fun q => q.map fun h => { h with st := h.st.answer b ok } }

/-- The answer acted on by the slot at hand: it issues its instruction afresh, or traps PAGE_FAULT (spec/06 R115). -/
def State.answerHere (s : State) (ok : Bool) : State :=
  match s.slot.mode with
  | .faultWait _ va fetch =>
    if ok then { s with slot := { s.slot with mode := .running, snap := [], fwait := none } }
    else s.pageFault va fetch
  | _ => s

/-- The slot at a place acts on the answer, or notes it. -/
def State.answerSlot (s : State) (b : Nat) (ok : Bool) (l : SlotLoc) : State :=
  match (s.getSlot l).mode, (s.getSlot l).fwait with
  | .faultWait b' .., _ => if b' = b then s.at l fun s => s.answerHere ok else s
  | _, some (b', _, _, none) => if b' = b then s.onSlot l (Slot.noteAnswer b ok) else s
  | _, _ => s

/-- A waiting context takes the answer, to act on it when it returns (spec/06 R115). -/
def Shadow.answer (b : Nat) (ok : Bool) (x : Shadow) : Shadow :=
  { x with ctx := { x.ctx.answerEngines b ok with slots := x.ctx.slots.map (Slot.noteAnswer b ok) } }

/-- An answer acted on by a tile: its slots, its engines and its waiting contexts. -/
def State.answerTile (s : State) (b : Nat) (ok : Bool) (t : Nat) : State :=
  let s := (slotLocs t).foldl (fun s l => s.answerSlot b ok l) s
  s.onTile t fun x =>
    { x with
      ctx := x.ctx.answerEngines b ok
      shadowA := x.shadowA.map (Shadow.answer b ok)
      shadowB := x.shadowB.map (Shadow.answer b ok) }

/-- Rolruica's answer to a batch of a die. One that nobody waits for is discarded. -/
def execFaultBatchAnswer (s : State) : Out :=
  match s.arg with
  | .batch die b ok =>
    let s := ((s.tileList.filter fun t => dieOf t == die).foldl (fun s t => s.answerTile b ok t) s)
    .next { s with wafer := { s.wafer with
      heldDma := s.wafer.heldDma.map (fun h => if h.die = die ∧ h.batch = b then { h with answer := some ok } else h)
      heldPeer := s.wafer.heldPeer.map (fun h => if h.die = die ∧ h.batch = b then { h with answer := some ok } else h)
      away := s.wafer.away.map fun y => if dieOf y.1 = die then (y.1, y.2.1, y.2.2.answer b ok) else y } }
  | _ => .next s

/-! ### Invalidations (spec/06 R111) -/

/-- An invalidation names an entry. -/
def invNames (i : InvScope) (e : Tlb) : Bool :=
  match i with
  | .va a v => e.asid == a && v / 2 ^ e.bits == e.va / 2 ^ e.bits
  | .asid a => e.asid == a
  | .all => true

/-- An invalidation concerns an address space. -/
def invConcerns (i : InvScope) (asid : Nat) : Bool :=
  match i with
  | .va a _ | .asid a => a == asid
  | .all => true

/-- What an invalidation leaves of a slot's translations. -/
def Slot.invalidate (i : InvScope) (x : Slot) : Slot := { x with xl := x.xl.filter fun e => !invNames i e }

/-- What an invalidation leaves of the caches of ports and of the cellars. -/
def Wafer.invalidate (i : InvScope) (w : Wafer) : Wafer :=
  let keep : List Tlb → List Tlb := fun es => es.filter fun e => !invNames i e
  { w with
    netTlb := w.netTlb.map fun x => (x.1, keep x.2)
    ioTlb := w.ioTlb.map fun x => (x.1, keep x.2)
    dies := w.dies.map fun d => (d.1, { d.2 with tlb := keep d.2.tlb }) }

/-- What an invalidation leaves of a tile's cache and of its copies' translations. -/
def Tile.invalidate (i : InvScope) (x : Tile) : Tile :=
  { x with
    tlb := x.tlb.filter fun e => !invNames i e
    ctx := { x.ctx with ceq := x.ctx.ceq.map fun c => { c with xl := c.xl.filter fun e => !invNames i e } } }

/-- Some place of ranges was reached by a translation. -/
def translated (ps : List (Place × Nat)) : Bool := ps.any fun r => r.1.sp == .edge || r.1.sp == .host

/-- The transfer step that runs on a tile uses translations. -/
def Ctx.transfersOut (c : Ctx) : Bool :=
  match c.transferArb.running with
  | some k => (c.mxHead k).any fun h => translated h.places.flatten
  | none => false

/-- An access that was translated in a concerned address space has not been acknowledged. -/
def State.translatedOut (s : State) (i : InvScope) : Bool :=
  (s.flights.any fun f => translated f.req.ranges && ((s.plot f.plot).any fun p => invConcerns i p.asid))
    || s.tileList.any fun t => (s.getTile t).ctx.transfersOut && invConcerns i (s.asid t)

/-- What an invalidation names leaves every cache, and the walks in flight that it concerns start again. -/
def State.invalidate (s : State) (i : InvScope) : State :=
  let s := s.tileList.foldl (fun s t => (s.onTile t fun x => x.invalidate i).onSlots t fun y => y.invalidate i) s
  let s := s.setMisses (s.wafer.xlates.map fun x =>
    if invConcerns i x.asid && x.out.isSome then { x with out := none, pkt := s.packet x.tile (cellarAt (dieOf x.tile)) 1 1 7 } else x)
  { s with wafer := s.wafer.invalidate i }

/-- An invalidation, applied at a moment when every access translated through what it names has been acknowledged: the
entries go, walks in flight start again, and it is acknowledged. -/
def execTranslationInvalidation (s : State) : Out :=
  match s.arg with
  | .inv i =>
    if s.translatedOut i then .next s
    else .next ((s.invalidate i).report .invalidated)
  | _ => .next s

/-! ### Instruction lines (spec/04 R86) -/

/-- The line of a slot's PC is resident, or its loop buffer holds the word (spec/04 R78). -/
def State.lineHere (s : State) (l : SlotLoc) : Bool :=
  s.lineIn l.tile (s.getSlot l).pc || (s.getSlot l).buf.any fun b => b.1 == (s.getSlot l).pc

/-- The page of a slot's PC is translated, as code. -/
def State.codeHere (s : State) (l : SlotLoc) : Bool :=
  (lookupIn ((s.getTile l.tile).tlb ++ (s.getSlot l).xl) (s.asid l.tile) (bits (s.getSlot l).pc 56 0)).any fun e => e.x

/-- A line taken by a cache of 64 KiB; the oldest gives way (log 12). -/
def Tile.takeLine (x : Tile) (k : Nat × Nat) : Tile :=
  { x with icache := (if 65536 / Config.iLine ≤ x.icache.length then x.icache.drop 1 else x.icache) ++ [k] }

/-- The line that a slot's fetch or an `ldl` waits for arrives. -/
def execInstructionLineFill (s : State) : Out :=
  match s.arg with
  | .flight n =>
    .next (match s.flights[n]? with
      | some f => if s.lacksLine f then s.onTile f.tile fun x => x.takeLine (s.asid f.tile, lineOf f.ptr) else s
      | none => s)
  | .slot l =>
    .next (if (s.getSlot l).mode = .running ∧ s.codeHere l ∧ !s.lineHere l then
      s.onTile l.tile fun x => x.takeLine (s.asid l.tile, lineOf (s.getSlot l).pc) else s)
  | _ => .next s

/-! ### Rings with space (spec/06 R112; spec/18 R299) -/

/-- The first held record of a ring. -/
def firstHeld {α : Type} (ring : Nat) (ring? : α → Nat) : List α → Option (α × List α)
  | [] => none
  | x :: xs =>
    if ring? x = ring then some (x, xs) else (firstHeld ring ring? xs).map fun y => (y.1, x :: y.2)

/-- A held trap record enters its ring. -/
def Die.takeTrapRecord (d : Die) (ring : Nat) : Die :=
  if (vget d.trap ring []).length < Config.trapRingSize then
    match firstHeld ring (fun h : Nat × TrapSrc × Vector Word 8 => h.1) d.heldTrap with
    | some (h, rest) => { d with heldTrap := rest, trap := vset d.trap ring (vget d.trap ring [] ++ [h.2.2]) }
    | none => d
  else d

/-- A held fault record enters its ring. -/
def Die.takeFaultRecord (d : Die) (ring : Nat) : Die :=
  if (vget d.fault ring []).length < Config.faultRingSize then
    match firstHeld ring (fun h : Nat × Vector Word 4 => h.1) d.heldFault with
    | some (h, rest) => { d with heldFault := rest, fault := vset d.fault ring (vget d.fault ring [] ++ [h.2]) }
    | none => d
  else d

/-- THE INTERRUPT LINES of a die's cellar core: of its fault rings and of its trap rings, each up while a ring that the core
serves holds a record (spec/06 R112; spec/18 R299). -/
def Die.lines (d : Die) (core : Nat) : Bool × Bool :=
  let mine := (List.range 8).filter fun r => vget d.serves r 0 == core
  (mine.any fun r => !(vget d.fault r []).isEmpty, mine.any fun r => !(vget d.trap r []).isEmpty)

/-- Rolruica takes the oldest record of a ring, and the oldest held record of that ring enters it. -/
def execTrapRingSpace (s : State) : Out :=
  match s.arg with
  | .ring die ring fault =>
    .next (s.onDie die fun d =>
      if fault then { d with fault := vset d.fault ring ((vget d.fault ring []).drop 1) }.takeFaultRecord ring
      else { d with trap := vset d.trap ring ((vget d.trap ring []).drop 1) }.takeTrapRecord ring)
  | _ => .next s

end Sys2Proof.Machine
end

