-- ==== Sys2Proof/Machine/System.lean ====
section
/-!
DEFINITION. Sys2Proof/Machine/System.lean: the system and the power instructions, majors 0x1D and 0x1E (spec/16 R279 to
R283; spec/18 R312 to R316; spec/19 R320).
-/
namespace Sys2Proof.Machine

/-! ### Calls (spec/18 R313) -/

/-- Strong calls of a queue counted (spec/19 R320): issued and completed ones. -/
def Plot.strongOf (p : Plot) (key : Nat) : Nat × Nat :=
  match p.strong.find? fun x => x.1 == key with
  | some (_, i, c) => (i, c)
  | none => (0, 0)

/-- The counts of a queue replaced. -/
def Plot.setStrong (p : Plot) (key : Nat) (x : Nat × Nat) : Plot :=
  { p with strong := (p.strong.filter fun y => y.1 != key) ++ [(key, x.1, x.2)] }

/-- The key of a record queue in its plot. -/
def queueKey (n queue : Nat) : Nat := 16 * n + queue

/-- The calls of the slot at hand that have not been answered, those of the records that it ran before included. -/
def State.callsOut (s : State) : Nat :=
  (s.flights.filter fun f =>
    (⟨f.tile, f.core, f.slot⟩ : SlotLoc) == s.cur && s.tile.ctx.plot == some f.plot && f.isCall).length

def execSysc (d a b : Reg) (wa wb : Bool) (s : State) : Out :=
  gate [.s a wa, .s b wb] [.s d] (fun s =>
    let w := s.slot.s a
    let x := s.slot.s b
    if bits w 63 17 ≠ 0 then trap .windowRange w s
    else if 4 ≤ s.callsOut then stalled s
    else
      let strong := bits w 16 16 == 1
      if strong && s.outstanding [.st, .fe, .amo] then stalled s
      else
        let key := queueKey s.tile.ctx.n s.slot.run.queue
        match s.own with
        | none => done s
        | some p =>
          let (i, c) := p.strongOf key
          let s := if strong then s.setPlot (p.setStrong key (i + 1, c)) else s
          done (s.send (s.flight (.s d) .none false strong (cellarAt p.die) 5 1 0
            (.call (bits w 15 0) strong x s.slot.run.queue i)))) s

/-! ### Traps and waits (spec/18 R314, R315) -/

def execTrap (a : Reg) (wa : Bool) (s : State) : Out := gate [.s a wa] [] (fun s => trap .trap 0 s) s

def execBrk (_n : BitVec 10) (s : State) : Out := trap .breakpoint 0 s

def execIdle (a : Reg) (wa : Bool) (s : State) : Out :=
  gate [.s a wa] [] (fun s =>
    if (s.slot.s a).toNat ≤ s.wafer.time then done s
    else .next { s with slot := { s.slot with idleTo := some (s.slot.s a).toNat, stallFrom := none } }) s

/-! ### What only the cellar executes (spec/16 R283, spec/18 R316) -/

/-- An instruction that traps PRIVILEGE from tile code, before its source is read. The cellar executes it on a halted
slot of the plot's origin tile; the slot stays halted with its PC, and a trap reports the word at it (spec/05 R90). -/
def cellarOnly (a : Reg) (wa : Bool) (k : Plot → State → Out) (s : State) : Out :=
  if s.slot.mode ≠ .halted then trap .privilege 0 s
  else
    match s.own with
    | none => .next s
    | some p =>
      let s := { s with slot := { s.slot with ir := s.peekWord s.cur.tile s.slot.pc } }
      if p.at 0 ≠ s.cur.tile then .next s
      else if !s.slot.isFull a then (if wa then trap .emptyRead (BitVec.ofNat 64 a.toNat) s else .next s)
      else k p s

/-- The target of `halt` and `resume` (spec/18 R316); none where it is refused. -/
def haltTarget (g : Grade) (p : Plot) (x : Word) : Option FreezeScope :=
  let sc := bits x 63 62
  if bits x 61 56 ≠ 0 ∨ bits x 31 7 ≠ 0 ∨ bits x 3 2 ≠ 0 ∨ p.count ≤ bits x 47 32 ∨ g.cores ≤ bits x 6 4 then none
  else
    some (if sc = 0 then .slot ⟨p.at (bits x 47 32), bits x 6 4, bits x 1 0⟩
      else if sc = 1 then .tile (p.at (bits x 47 32))
      else if sc = 2 then .stage p.num (bits x 55 48)
      else .plot p.num)

def execHalt (d a : Reg) (wa : Bool) (s : State) : Out :=
  cellarOnly a wa (fun p s =>
    match haltTarget s.wafer.grade p (s.slot.s a) with
    | none => trap .windowRange (s.slot.s a) s
    | some sc => .next (s.freeze sc (some (s.cur, d)))) s

/-- `resume` of a scope of tiles leaves the executing slot halted. It waits until the trap records of the slots that it
resumes have entered their ring (spec/18 R299). -/
def execResume (d a : Reg) (wa : Bool) (s : State) : Out :=
  cellarOnly a wa (fun p s =>
    match haltTarget s.wafer.grade p (s.slot.s a) with
    | none => trap .windowRange (s.slot.s a) s
    | some sc =>
      if !s.thawReady sc then .next s
      else
        let (n, s) := s.thaw sc (match sc with
          | .tile _ | .plot _ => some s.cur
          | _ => none)
        .next (s.putReg s.cur d (BitVec.ofNat 64 n))) s

/-- A tenant's launch-table entry. -/
def State.launchEntry (s : State) (tenant : Nat) : Option (Word × Word) :=
  (s.wafer.launchTable.find? fun e => e.1 == tenant).map Prod.snd

/-- Every tile of a plot is frozen. -/
def State.allFrozen (s : State) (p : Plot) : Bool := p.frozen || p.tiles.all fun t => (s.getTile t).frozen

def execClkm (d a : Reg) (wa : Bool) (s : State) : Out :=
  cellarOnly a wa (fun p s =>
    let x := s.slot.s a
    if bits x 63 1 ≠ 0 then trap .windowRange x s
    else
      let want := bits x 0 0 == 1
      let granted := match s.launchEntry p.tenant with
        | some (w0, _) => bits w0 62 62 == 1
        | none => false
      let refused := !s.allFrozen p || (want && !granted)
      let s := if refused then s else s.setPlot { p with clock := some want }
      .next (s.putReg s.cur d (BitVec.ofNat 64 (refused.toNat * 2 + p.plumb.toNat)))) s

/-! ### Snapshots of power (spec/16 R279, R282) -/

/-- A plot that holds a plot barrier is a gang (spec/16 R276). -/
def Plot.gang (p : Plot) : Bool :=
  p.handles.any fun e => match e.obj with
    | some (.barrier b) => b.plotWide
    | _ => false

/-- FG of a tile: 16 outside a gang (spec/16 R276, R282). -/
def State.gangFraction (s : State) (t : Nat) : Nat := if (s.plotOf t).any Plot.gang then (s.getTile t).fg else 16

/-- The snapshot of `pwrq.f`. -/
def pwrqFWord (s : State) : Nat :=
  let x := s.tile
  s.wafer.time / 1024 % 2 ^ 32 * 2 ^ 32 + x.f * 2 ^ 27 + s.gangFraction s.cur.tile * 2 ^ 22 + (s.die (dieOf s.cur.tile)).fc * 2 ^ 17
    + x.ft * 2 ^ 12 + ((s.own.map Plot.gang).getD false).toNat * 16 + s.clkmode s.cur.tile

def execPwrqF (d : Reg) (s : State) : Out :=
  gate [] [.s d] (fun s => writeAfter 2 d (BitVec.ofNat 64 (pwrqFWord s)) s) s

def execPwrqN (d : Reg) (s : State) : Out :=
  gate [] [.s d] (fun s => writeAfter 2 d (BitVec.ofNat 64 (s.tile.e % 2 ^ 32 * 2 ^ 32 + s.tile.i % 2 ^ 32)) s) s

def execRampq (d : Reg) (s : State) : Out :=
  gate [] [.s d] (fun s =>
    let r := s.tile.ctx.ramp
    writeAfter 2 d (BitVec.ofNat 64 (r.level * 2 ^ 40 + r.ceil * 2 ^ 32 + r.down * 256 + r.up)) s) s

/-- `skim`: its operands checked in order, then the core's matrix queue (spec/16 R280). -/
def execSkim (a b : Reg) (wa wb : Bool) (s : State) : Out :=
  gateC [.s a wa, .s b wb] [] (fun s =>
    let n := (s.slot.s a).toNat
    let t := (s.slot.s b).toNat
    if n = 0 ∨ 65535 < n then trap .windowRange (s.slot.s a) s
    else if 16 < t then trap .windowRange (s.slot.s b) s
    else mxPush (.skim n t) 0 0 0 noDesc s) s

end Sys2Proof.Machine
end

