-- ==== Sys2Proof/Machine/EventsCellar.lean ====
section
/-!
DEFINITION. Sys2Proof/Machine/EventsCellar.lean: the cellar's commands to halted slots, freezes and thaws, the kill of a
plot and containment reset (spec/05 R91; spec/17 R286 to R288; spec/18 R297, R300, R301, R303, R306).
-/
namespace Sys2Proof.Machine

/-! ### Reading and writing a halted slot (spec/17 R286) -/

/-- A loop level in its 16-byte form (spec/03 R55). -/
def Loop.form (l : Loop) : Nat := bits l.first 56 2 * 4 + l.ctr % 4 + bits l.last 56 2 * 4 * 2 ^ 64

/-- The level that a 16-byte form holds; none where it is unused. A counter number of 3 names no counter (log 26). -/
def loopOf (v : Nat) : Option Loop :=
  let w : Word := BitVec.ofNat 64 v
  if v = 0 ∨ bits w 1 0 = 3 then none
  else some ⟨bits w 1 0, BitVec.ofNat 64 (bits w 56 2 * 4), BitVec.ofNat 64 (bits (BitVec.ofNat 64 (v / 2 ^ 64)) 56 2 * 4)⟩

/-- A level written by its place, outermost first (log 26). -/
def setLevel (ls : List Loop) (i : Nat) (l : Option Loop) : List Loop :=
  let out := ls.reverse
  (match l with
    | none => out.eraseIdx i
    | some l => if i < out.length then out.set i l else if i < 3 then out ++ [l] else out).reverse

/-- What the cellar reads: the value and the full/empty bit. -/
def State.cellGet (s : State) (l : SlotLoc) (r : CellReg) : Nat × Bool :=
  let x := s.getSlot l
  match r with
  | .s i => ((x.s i).toNat, x.isFull i)
  | .v i => ((x.v i).toNat, x.vIsFull i)
  | .lc i => ((vget x.lc i 0).toNat, true)
  | .level i => (((x.loops.reverse[i]?).map Loop.form).getD 0, true)
  | .pc => (x.pc.toNat, true)
  | .csr c => ((s.csr l c).toNat, true)

/-- What the cellar writes. With the PC, the word at it becomes that of the slot's next trap record (spec/05 R90). -/
def State.cellPut (s : State) (l : SlotLoc) (r : CellReg) (v : Nat) (full : Bool) : State :=
  match r with
  | .s i => if i = 0 then s else (s.cancel l (.s i)).onSlot l fun x => x.put (.s i) v full
  | .v i => (s.cancel l (.v i)).onSlot l fun x => x.put (.v i) v full
  | .lc i => s.onSlot l fun x => { x with lc := vset x.lc i (BitVec.ofNat 64 v) }
  | .level i => s.onSlot l fun x => { x with loops := setLevel x.loops i (loopOf v) }
  | .pc =>
    let pc : Word := BitVec.ofNat 64 (bits (BitVec.ofNat 64 v) 56 2 * 4)
    s.onSlot l fun x => { x with pc := pc, ir := s.peekWord l.tile pc }
  | .csr c => s.putCsr l c (BitVec.ofNat 64 v)

/-- A command to a slot: one whose record is not in state 4 answers so, with no effect. -/
def State.command (s : State) (l : SlotLoc) (k : State → State) : State :=
  if (s.getSlot l).mode = .halted then k s else s.report .notHalted

/-- What a counter of a tile, a port, a router or a link holds (spec/18 R304, R306; spec/19 R325). -/
def Wafer.counter (w : Wafer) : Counter → Nat
  | .corrected c => ((w.corrected.find? fun x => x.1 == c).map Prod.snd).getD 0
  | .truncated k => ((w.trunc.find? fun x => x.1 == k).map Prod.snd).getD 0
  | .retries k n => ((w.linkRetries.find? fun x => x.1 == k && x.2.1 == n).map fun x => x.2.2).getD 0
  | .authFailures p => ((w.authFail.find? fun x => x.1 == p).map Prod.snd).getD 0

/-- A read over the management plane: of a halted slot, or of a counter. -/
def execCellarRead (s : State) : Out :=
  match s.arg with
  | .counter c => .next (s.report (.read (s.wafer.counter c) true))
  | .read l r => .next (s.command l fun s => let (v, f) := s.cellGet l r; s.report (.read v f))
  | _ => .next s

def execCellarWrite (s : State) : Out :=
  match s.arg with
  | .write l r v full => .next (s.command l fun s => (s.cellPut l r v full).report .done)
  | _ => .next s

/-! ### Resuming and stepping (spec/05 R91; spec/17 R287; spec/18 R299, R301) -/

def execCellarResume (s : State) : Out :=
  match s.arg with
  | .slot l =>
    .next (if s.recordHeld l then s else s.command l fun s => (s.at l State.resume).report .done)
  | _ => .next s

/-- The slot at hand resumes for one instruction. A slot that a freeze halted stays one that its thaw resumes (spec/18 R301). -/
def State.stepHere (s : State) : State :=
  let by_ := s.slot.byFreeze
  let s := ({ s with slot := { s.slot with stepping := true } } : State).resume
  { s with slot := { s.slot with byFreeze := by_ } }

/-- The halted slots of a stage, in the order in which a step command takes them. -/
def State.stageHalted (s : State) (plot stage : Nat) : List SlotLoc :=
  (s.scopeSlots (.stage plot stage)).filter fun l => (s.getSlot l).mode == .halted

/-- A step command. One that names a stage turns into a command to each of its halted slots, one after another; such a
command names its slot as a scope. -/
def execCellarStep (s : State) : Out :=
  match s.arg with
  | .step (.slot l) | .scope (.slot l) =>
    .next (if s.recordHeld l then s else s.command l fun s => s.at l State.stepHere)
  | .step (.stage p st) =>
    .next { s with agenda := ((s.stageHalted p st).map fun l =>
      (⟨none, .cellarStep, .scope (.slot l)⟩ : Move)) ++ s.agenda }
  | _ => .next s

/-! ### Freeze and thaw (spec/18 R301) -/

def execFreeze (s : State) : Out :=
  match s.arg with
  | .scope sc => .next (s.freeze sc none)
  | _ => .next s

def execThaw (s : State) : Out :=
  match s.arg with
  | .scope sc => .next (if s.thawReady sc then (s.thaw sc none).2.report .done else s)
  | _ => .next s

/-! ### Killing a plot (spec/02 R20; spec/18 R306) -/

/-- The tile's slots are halted and no matrix step runs: it has quiesced. -/
def State.quiesced (s : State) (t : Nat) : Bool :=
  (slotLocs t).all (fun l => (s.getSlot l).mode == .free || (s.getSlot l).mode == .halted)
    && (s.getTile t).ctx.arrayArb.running.isNone && (s.getTile t).ctx.transferArb.running.isNone

/-- A context without engine commands, and with no lease or lock of theirs. -/
def Ctx.noEngines (c : Ctx) : Ctx :=
  { c with ceq := [], deq := [], mq := Vector.replicate 8 [], leases := [], arrayArb := Arbiter.reset, transferArb := Arbiter.reset }

/-- A tile that has quiesced loses its engine commands, and its records in states 1 to 4 go to state 5. -/
def State.killTile (s : State) (t : Nat) : State :=
  let s := s.onCtx t Ctx.noEngines
  let offs := (List.range 16).flatMap (s.getTile t).ctx.records
  offs.foldl (fun s off => s.killRecord t off) s

/-- A write of the plot that has been injected and leaves its scratchpads is still to be applied. -/
def State.writesOut (s : State) (plot : Nat) : Bool :=
  s.flights.any fun f => f.plot == plot && (f.isWrite || (f.cls == .eng && !f.req.isFetch)) && (f.st == .going || f.st == .retry)
    && (f.req.ranges.any fun r => r.1.sp == .edge || r.1.sp == .host) && !s.pent f.tile f.pkt false

/-- Copy regions made from offers of a plot. -/
def Obj.grantedBy (owner : Nat) (num : Option Nat) (o : Obj) : Bool :=
  match o with
  | .region (.grant _ _ p n) _ _ => p == owner && num.all fun k => k == n
  | _ => false

/-- An entry freed: its generation goes up, wrapping from 4,095 to 1 (spec/06 R116). -/
def HEntry.free (e : HEntry) : HEntry := { e with obj := none, gen := if e.gen = 4095 then 1 else e.gen + 1 }

/-- Every handle made from offers of a plot freed, or from one of them. -/
def State.freeGrants (s : State) (owner : Nat) (num : Option Nat) : State :=
  { s with wafer := { s.wafer with plots := s.wafer.plots.map fun p =>
      { p with handles := p.handles.map fun e => if e.obj.any (Obj.grantedBy owner num) then e.free else e } } }

/-- What a tile keeps when its plot is gone. -/
def Tile.release (x : Tile) (n asid : Nat) : Tile :=
  let keep : Option Shadow → Option Shadow := fun y => y.filter fun z => !z.ctx.ofPlot n
  let x := { x with tlb := x.tlb.filter fun e => e.asid != asid, shadowA := keep x.shadowA, shadowB := keep x.shadowB }
  if x.ctx.ofPlot n then ({ x with inReset := false, frozen := false, swapping := false, ctx := { x.ctx with plot := none } }).go
  else x

/-- The end of a kill: handles and objects freed, mappings removed, and the tiles free. Handles that other plots hold
from its offers are freed with it (log 27). -/
def State.endPlot (s : State) (p : Plot) : State :=
  let s := s.freeGrants p.num none
  let s := { s with flights := s.flights.filter fun f => f.plot != p.num }
  let s := s.tileList.foldl (fun s t => s.onTile t fun x => x.release p.num p.asid) s
  let shared := s.wafer.plots.any fun q => q.num != p.num && q.asid == p.asid
  let w := if shared then s.wafer else s.wafer.invalidate (.asid p.asid)
  ({ s with wafer := { w with
      plots := w.plots.filter fun q => q.num != p.num
      xlates := w.xlates.filter fun x => x.asid != p.asid || shared
      roots := w.roots.filter fun r => r.1 != p.asid || shared
      rings := w.rings.filter fun r => r.plot != p.num
      away := w.away.filter fun y => !y.2.2.ctx.ofPlot p.num
      freezes := w.freezes.filter fun f => f.sc != FreezeScope.plot p.num } }).report (.killed p.num)

/-- A KILL OF A PLOT: it is frozen; tiles that have quiesced are cleared; when all are done and its writes have landed,
the plot ends. -/
def State.killPlot (s : State) (n : Nat) : State :=
  match s.plot n with
  | none => s
  | some p =>
    let s := if p.killing.isNone then (s.setPlot { p with killing := some s.wafer.time }).freeze (.plot n) none else s
    let mine := s.resident p
    let s := mine.foldl (fun s t => if s.quiesced t then s.killTile t else s) s
    if mine.all s.quiesced && !s.writesOut n then s.endPlot p else s

/-- Another step of a kill can change something. -/
def State.killMoves (s : State) (n : Nat) : Bool :=
  match s.plot n with
  | none => false
  | some p =>
    p.killing.isNone ||
      ((s.resident p).all s.quiesced && !s.writesOut n)

def execPlotKill (s : State) : Out :=
  match s.arg with
  | .plot n => .next (s.killPlot n)
  | _ => .next s

/-! ### Containment reset (spec/18 R306) -/

/-- The next router on the escape route: first along x, then along y (spec/17 R285). -/
def stepTo (a b : Nat) : Nat :=
  if a % 176 < b % 176 then a + 1
  else if b % 176 < a % 176 then a - 1
  else if a / 176 < b / 176 then a + 176
  else if b / 176 < a / 176 then a - 176
  else a

/-- The packet is being injected by a unit of a tile, for an access of its own or as an answer to another tile: its flits have not
all left it. -/
def Flight.injecting (f : Flight) (t : Nat) : Bool :=
  f.pkt.src / 8 == t && f.pkt.lane.isNone && f.pkt.at_ == t && f.pkt.to_ != t && decide (1 < f.pkt.flits)

/-- A discarded packet counted at the port over which its flits went out. -/
def State.countTrunc (s : State) (k : Link) : State :=
  let n := ((s.wafer.trunc.find? fun x => x.1 == k).map Prod.snd).getD 0
  { s with wafer := { s.wafer with trunc := (k, n + 1) :: s.wafer.trunc.filter fun x => x.1 != k } }

/-- A request that a tile has sent out whole: it is on its way elsewhere, or is parked at a bank there. -/
def Flight.sentOut (f : Flight) (t : Nat) : Bool :=
  f.pkt.at_ != t && match f.st with
    | .going | .parked _ => true
    | _ => false

/-- What the reset of a tile leaves of an access of another tile: a request that is parked at a bank of the tile is sent back to
be repeated; an answer that ends truncated is discarded whole by its receiver, and the access is never answered (DEDUCED:
log 77). -/
def State.afterReset (s : State) (t : Nat) (f : Flight) : Flight :=
  if f.injecting t then { f with pkt := { f.pkt with nowhere := true } }
  else
    match f.st, f.req with
    | .parked _, .fe _ p _ => if p.sp = .spad t then s.refuseFor f else f
    | _, _ => f

/-- A tile is reset: packets that it is injecting end truncated, what it has sent out, of whatever kind, goes on with no one to
receive its answer, and the tile's state is cleared; it belongs to no plot. -/
def State.resetTile (s : State) (t : Nat) : State :=
  let s := s.flights.foldl (fun s f => if f.injecting t then s.countTrunc ⟨t, stepTo t f.pkt.to_⟩ else s) s
  let kept := s.flights.filter fun f => f.tile != t || f.sentOut t
  let s := { s with flights := kept.map fun (f : Flight) => if f.tile == t then { f with dest := Dest.none } else s.afterReset t f }
  let s := { s with wafer := { s.wafer with
    xlates := s.wafer.xlates.filter fun x => x.tile != t
    bad := s.wafer.bad.filter fun b => b.sp != Space.spad t } }
  let s := s.onTile t fun x => { x with
    ctx := { Ctx.reset with ramp := { Ramp.reset with ceil := x.ctx.ramp.ceil } }
    tlb := [], icache := [], inReset := true, swapping := false, reverse := false, lifting := none, idle := 0 }
  if t = s.cur.tile then { s with slot := Slot.reset } else s

def execContainmentReset (s : State) : Out :=
  match s.arg with
  | .tile t => .next ((s.resetTile t).endFreezes)
  | _ => .next s

/-- A tile of a plot that is being killed has not quiesced within 20 µs of the freeze. -/
def State.quiesceLate (s : State) (t : Nat) : Bool :=
  match s.plotOf t with
  | some p => (p.killing.any fun k => decide (k + 20000 ≤ s.wafer.time)) && !s.quiesced t
  | none => false

def execQuiesceTimeout (s : State) : Out :=
  match s.arg with
  | .tile t => .next (if s.quiesceLate t then (s.resetTile t).endFreezes else s)
  | _ => .next s

end Sys2Proof.Machine
end

