-- ==== Sys2Proof/Machine/EventsSwap.lean ====
section
/-!
DEFINITION. Sys2Proof/Machine/EventsSwap.lean: pre-emption through the shadow store, lost cores and tiles, repairs, and
uncorrectable errors (spec/18 R304, R305, R307 to R311; spec/19 R323).
-/
namespace Sys2Proof.Machine

/-- An operation on a state in which every slot of a tile stands in its context. -/
def State.whole (s : State) (t : Nat) (f : State → State) : State := if t = s.cur.tile then s.onWhole f else f s

/-! ### The cask at a swap (spec/18 R309) -/

/-- A plot has a vintage on a half. -/
def Plot.vintageOn (p : Plot) (half : Bool) : Bool :=
  p.handles.any fun e => match e.obj with
    | some (.vintage v) => v.half == half
    | _ => false

/-- The bytes of a half. -/
def Tile.cask (x : Tile) (half : Bool) : Mem := if half then x.caskB else x.caskA

/-- The save area of a tile's half: 2 n + half. -/
def caskKey (n : Nat) (half : Bool) : Nat := 2 * n + half.toNat

/-- The bytes of a half, and where a half begins in its cask. -/
def halfBytes : Nat := 2 ^ 21
def halfAt (t : Nat) (half : Bool) : Place := ⟨.cask t, half.toNat * halfBytes⟩

/-- The address of the save area of a half, if the plot has one. -/
def Plot.saveArea (p : Plot) (n : Nat) (half : Bool) : Option Nat := (p.casks.find? fun y => y.1 == caskKey n half).map Prod.snd

/-- The save area of a half of a plot's tile: Rolruica takes page frames for it where the plot has none yet (log 28). -/
def State.reserveArea (s : State) (p : Plot) (n : Nat) (half : Bool) : Nat × State :=
  match p.saveArea n half with
  | some a => (a, s)
  | none =>
    let frames := s.wafer.frames + halfBytes / 4096
    let a := edgeSize - 4096 * frames
    (a, ({ s with wafer := { s.wafer with frames := frames } } : State).setPlot { p with casks := (caskKey n half, a) :: p.casks })

/-- Bytes that cannot be read stay so where they are copied to; the bytes that were there are rewritten (spec/18 R305). -/
def State.copyBad (s : State) (src dst : Place) (n : Nat) : State :=
  let moved : List Place := s.wafer.bad.filterMap fun b =>
    if b.inside [(src, n)] then some ⟨dst.sp, dst.off + (b.off - src.off)⟩ else none
  let s := s.rewritten dst n
  { s with wafer := { s.wafer with bad := moved ++ s.wafer.bad } }

/-- The bytes of a half of a tile. -/
def State.halfMem (s : State) (t : Nat) (half : Bool) : Mem := (s.getTile t).cask half

/-- A half that holds a vintage of a plot read out to its save area. -/
def State.saveHalf (s : State) (t plot : Nat) (half : Bool) : State :=
  match s.plot plot with
  | none => s
  | some p =>
    if p.vintageOn half then
      let (a, s) := s.reserveArea p (s.getTile t).ctx.n half
      let s := s.copyBad (halfAt t half) ⟨.edge, a⟩ halfBytes
      { s with wafer := { s.wafer with edge := Memory.splice s.wafer.edge a halfBytes (s.halfMem t half) } }
    else s

/-- The half of a tile as a plot saved it; zero where it holds no vintage of the plot, or has never been saved. -/
def State.savedHalf (s : State) (p : Plot) (n : Nat) (half : Bool) : Mem :=
  if p.vintageOn half then ((p.saveArea n half).map fun a => Memory.slice s.wafer.edge a halfBytes).getD [] else []

/-- The half of a tile written. -/
def Tile.putCask (x : Tile) (half : Bool) (m : Mem) : Tile := if half then { x with caskB := m } else { x with caskA := m }

/-- A half of a plot that comes to a tile written back from its save area, or cleared. -/
def State.restoreHalf (s : State) (t : Nat) (p : Plot) (n : Nat) (half : Bool) : State :=
  let s := s.onTile t fun x => x.putCask half (s.savedHalf p n half)
  match p.vintageOn half, p.saveArea n half with
  | true, some a => s.copyBad ⟨.edge, a⟩ (halfAt t half) halfBytes
  | _, _ => s.rewritten (halfAt t half) halfBytes

/-! ### The swap (spec/18 R308) -/

/-- Phases 1 and 2 have ended: no slot waits for the answer to a send, no matrix step runs and the tail is over. A lost
tile makes no step, and its slots take their answers when they return. -/
def State.swappable (s : State) (t : Nat) : Bool :=
  let x := s.getTile t
  ((slotLocs t).all (fun l => (s.getSlot l).mode != .sendWait) || x.lost)
    && x.ctx.arrayArb.running.isNone && x.ctx.transferArb.running.isNone && !x.ctx.ramp.tail

/-- The context that leaves: its count of cycles stops, its waits are abandoned, and it keeps no translation (spec/06 R111;
spec/16 R271; spec/18 R300). -/
def Tile.outgoing (x : Tile) : Ctx :=
  let c := (if x.quiet then x else x.stop).ctx
  { c with
    slots := c.slots.map Slot.returned
    ceq := c.ceq.map fun y => { y with xl := [] }
    ramp := { c.ramp with level := 0, acc := 0, ended := 0, cold := true } }

/-- Which shadow slot the outgoing context takes and which context comes in: the shadow slots after the swap, and the
incoming context. None where there is nothing to do or no free slot. A tile that is lost takes no context. -/
def Tile.exchange (x : Tile) (out : Option Shadow) : Option (Option Shadow × Option Shadow × Option Shadow) :=
  if x.lost then
    match out, x.shadowA, x.shadowB with
    | none, _, _ => none
    | o, none, b => some (o, b, none)
    | o, a, none => some (a, o, none)
    | _, some _, some _ => none
  else
    match out, x.shadowA, x.shadowB with
    | none, none, none => none
    | o, none, b => some (o, none, b)
    | o, a, none => some (none, o, a)
    | none, a, b => some (none, b, a)
    | some _, some _, some _ => none

/-- The CURRENT of the records that a context has in slots. -/
def Ctx.currents (c : Ctx) : Nat :=
  c.slots.toList.foldl (fun n x => if x.mode = .free then n else n + (c.bind x.run.queue).current) 0

/-- The matrix ceiling of the interval (spec/16 R275). -/
def Tile.ceiling (x : Tile) : Nat := if x.boost then 16 else max 1 x.f

/-- Some valid bind record has priority 3. -/
def Ctx.urgent (c : Ctx) : Bool := (List.range 16).any fun q => (c.bind q).valid && (c.bind q).prio == 3

/-- A tile whose clock another plot takes over: boost and reverse bias stay with an elastic one (spec/16 R267, R269, R275). -/
def Tile.handOver (x : Tile) (plumb : Bool) (time fine : Nat) : Tile :=
  let x := if plumb then x.unbiased else x
  { x.clocked plumb time fine with fast := x.fast }

/-- The tile with the incoming context resident: the ceiling that the tile has is kept, and no instruction line stays
(spec/04 R86; spec/16 R275). -/
def Tile.take (x : Tile) (c : Ctx) (p : Option Plot) (time fine : Nat) : Tile :=
  let x := x.handOver (p.any Plot.plumb) time fine
  { x with
    ctx := { c.rejoin.unpaced x.clk with
      cycFrom := x.clk, ramp := { (c.unpaced x.clk).ramp with ceil := x.ctx.ramp.ceil } }
    caskA := []
    caskB := []
    icache := []
    irem := (x.i : Int) - c.currents
    reverse := x.reverse && !c.urgent
    lifting := none
    inReset := false
    swapping := false
    quiet := x.frozen || p.any Plot.still }

/-- A fault answer that came while the slot at hand was away is acted on (spec/06 R115). -/
def State.applyAnswer (s : State) : State :=
  match s.slot.mode, s.slot.fwait with
  | .faultWait .., some (_, _, _, some ok) => s.answerHere ok
  | _, _ => s

/-- Misses of a tile's own units, and the reads of its engines, are dropped; what still needs them asks again. -/
def State.dropMisses (s : State) (t : Nat) : State :=
  { s with
    flights := s.flights.filter fun f => !(f.tile == t && f.req.isFetch)
    wafer := { s.wafer with xlates := s.wafer.xlates.filter fun x => x.tile != t } }

/-- A plot's first dispatch after the return of a tile is to come (spec/16 R281). -/
def State.returnsTo (s : State) (p : Option Plot) : State :=
  match p with
  | some p => s.setPlot { p with started := false }
  | none => s

/-- A context that cannot be read: one trap record with the failing offset, and its plot is killed (spec/18 R305). -/
def State.shadowBad (s : State) (c : Ctx) (off : Nat) : State :=
  match c.plot.bind s.plot with
  | some p =>
    (s.sendTrapRecord p .other (trapWords Cause.ecc.code 0 p.ctxid 0 0 0 (BitVec.ofNat 64 off) 0 s.wafer.time)).killPlot p.num
  | none => s

/-- A byte of a place in a tile's scratchpad. -/
def Place.spadOf (b : Place) (t : Nat) : Option Nat := if b.sp = Space.spad t then some b.off else none

/-- A byte of a tile's scratchpad or cask. -/
def Place.onTile (b : Place) (t : Nat) : Bool := b.sp == Space.spad t || b.sp == Space.cask t

/-- The context that a tile would send out, with a byte that cannot be read if its scratchpad has one (log 55). -/
def State.leaving (s : State) (t : Nat) : Option Shadow :=
  let x := (if t = s.cur.tile then s.putBack else s).getTile t
  if x.ctx.plot.isSome then some ⟨x.outgoing, s.wafer.bad.findSome? fun b => b.spadOf t⟩ else none

/-- A swap of a tile has something to do: a context to take out or in, and a free slot for the one that leaves. -/
def State.exchanges (s : State) (t : Nat) : Bool := ((s.getTile t).exchange (s.leaving t)).isSome

/-- PHASES 3 TO 5 of a swap of a tile that is ready for it. Pending deliveries wait among the accesses in flight until the
plot that issued them is back on the tile. Slots that come back into a frozen scope halt. -/
def State.swap (s : State) (t : Nat) : State :=
  let x := (if t = s.cur.tile then s.putBack else s).getTile t
  match x.exchange (s.leaving t) with
  | none => s.onTile t fun x => { x with swapping := false }
  | some (a, b, inc) =>
    let s := match x.ctx.plot with
      | some n => (s.saveHalf t n false).saveHalf t n true
      | none => s
    let s := { s with wafer := { s.wafer with bad := s.wafer.bad.filter fun b => !b.onTile t } }
    let bad := inc.bind Shadow.bad
    let c := if bad.isSome then Ctx.reset else (inc.map Shadow.ctx).getD Ctx.reset
    let p := c.plot.bind s.plot
    let s := s.whole t fun s => s.onTile t fun x =>
      { x.take c p s.wafer.time s.wafer.fine with shadowA := a, shadowB := b }
    let s := match p with
      | some p => (s.restoreHalf t p c.n false).restoreHalf t p c.n true
      | none => s
    let s := ((s.dropMisses t).unpaceFlights t).returnsTo p
    match bad, inc with
    | some off, some y => s.shadowBad y.ctx off
    | _, _ => ((slotLocs t).foldl (fun s l => s.at l State.applyAnswer) s).freezeReturned t

/-- A SWAP of a tile: dispatch and issue stop, and its units finish their steps; then its contexts change places (spec/18
R308). -/
def State.startSwap (s : State) (t : Nat) : State :=
  if !s.exchanges t then s.onTile t fun x => { x with swapping := false }
  else if s.swappable t then s.swap t
  else s.onTile t fun x => { x with swapping := true }

def execSwap (s : State) : Out :=
  match s.arg with
  | .tile t => .next (s.startSwap t)
  | _ => .next s

/-! ### Contexts in edge memory (spec/03 R55; spec/18 R307) -/

/-- The bytes of a context slot of the shadow store, and of the side area beside it. -/
def ctxBytes : Nat := 1622016
def sideBytes : Nat := 81920

/-- A byte of a number laid out from its lowest. -/
def byteOf (x i : Nat) : Byte := BitVec.ofNat 8 (x / 256 ^ i)

/-- The words of a slot's block: the scalar registers, the full/empty bits, the PC, the loop state, the control registers,
the engine registers, SLOT and the pointer to the running record (spec/03 R55). -/
def Ctx.slotBlock (c : Ctx) (k : Nat) : List Nat :=
  let x := vget c.slots k Slot.reset
  let levels := (List.range 3).map fun i => ((x.loops.reverse[i]?).map Loop.form).getD 0
  ((List.range 32).map fun i => (x.s (BitVec.ofNat 5 i)).toNat)
    ++ [(x.sfull ||| 1).toNat + x.vfull.toNat * 2 ^ 32, bits x.pc 56 2 * 4]
    ++ (x.lc.toList.map BitVec.toNat)
    ++ (levels.flatMap fun l => [l % 2 ^ 64, l / 2 ^ 64])
    ++ [x.status.toNat, x.trapc.toNat, x.trapv.toNat, x.loops.length, x.fecfg.toNat]
    ++ (x.ce.toList.map BitVec.toNat) ++ (x.de.toList.map BitVec.toNat)
    ++ [(slotWord c.n x.run.queue (k / 4) (k % 4)).toNat, (ptr9 c.n x.run.off).toNat, 0]

/-- THE LAYOUT of a context: the byte at an offset of its slot (spec/03 R55). -/
def Ctx.byteAt (c : Ctx) (o : Nat) : Byte :=
  if o < 0x100000 then Memory.read c.spad o
  else if o < 0x140000 then
    let k := (o - 0x100000) / 0x2000
    let r := (o - 0x100000) % 0x2000
    byteOf (vget (vget c.slots k Slot.reset).vreg (r / 512) 0).toNat (r % 512)
  else if o < 0x188000 then
    let p := (o - 0x140000) / 0x9000
    let e := (o - 0x140000) % 0x9000
    byteOf (Sparse.get 0 c.panels (4096 * p + e / 9)).toNat (e % 9)
  else
    byteOf (((c.slotBlock ((o - 0x188000) / 0x200))[(o - 0x188000) % 0x200 / 8]?).getD 0) (o % 8)

/-- A context's bytes written to edge memory. -/
def State.storeContext (s : State) (a : Nat) (c : Ctx) : State :=
  { s with wafer := { s.wafer with edge := Memory.writeN s.wafer.edge a ((List.range ctxBytes).map c.byteAt) } }

/-- A waiting context moved to edge memory, where Rolruica takes page frames for it and its side area (log 28), or brought
back to a free slot (spec/18 R307). What the side area holds, in a form private to the device, goes with it. -/
def execContextMove (s : State) : Out :=
  match s.arg with
  | .context t side toEdge =>
    let x := s.getTile t
    let here := if side then x.shadowB else x.shadowA
    let put := fun (s : State) (y : Option Shadow) => s.onTile t fun x =>
      if side then { x with shadowB := y } else { x with shadowA := y }
    .next (if toEdge then
      match here with
      | some y =>
        let frames := (ctxBytes + sideBytes) / 4096
        let a := edgeSize - 4096 * (s.wafer.frames + frames)
        let s := s.storeContext a y.ctx
        put { s with wafer := { s.wafer with frames := s.wafer.frames + frames, away := s.wafer.away ++ [(t, a, y)] } } none
      | none => s
    else
      match here, s.wafer.away.findIdx? fun y => y.1 == t with
      | none, some i =>
        put { s with wafer := { s.wafer with away := s.wafer.away.eraseIdx i } } ((s.wafer.away[i]?).map fun y => y.2.2)
      | _, _ => s)
  | _ => .next s

/-- A spare that has taken the place of a failed part is counted (spec/19 R338). -/
def State.substituted (s : State) : State := { s with wafer := { s.wafer with subst := s.wafer.subst + 1 } }

/-! ### Lost cores and tiles (spec/14 R249, R252; spec/18 R310) -/

/-- The spare physical cores of a tile: those that work and that its repair map names for no exposed logical core. -/
def State.spareCores (s : State) (t : Nat) : List Nat :=
  let x := s.getTile t
  (List.range 9).filter fun k => !x.deadCores.contains k && !(x.repair.toList.take s.wafer.grade.cores).contains k

/-- A tile is lost: nothing runs on it, and the steps of its matrix paths are abandoned. -/
def Tile.lose (x : Tile) : Tile :=
  let x := if x.quiet then x else x.stop
  { x with
    lost := true
    ctx := { x.ctx with
      arrayArb := { x.ctx.arrayArb with running := none }
      transferArb := { x.ctx.transferArb with running := none }
      ramp := { x.ctx.ramp with level := 0, tail := false, cold := true } } }

/-- The physical core of a logical core has failed: a spare takes its number in the repair map, or the tile is lost. -/
def State.remap (s : State) (t core : Nat) : State :=
  let spare := (s.spareCores t).head?
  let s := s.onTile t fun x =>
    let x := { x with deadCores := vget x.repair core 0 :: x.deadCores }
    match spare with
    | some k => { x with repair := vset x.repair core k }
    | none => x.lose
  if spare.isSome then s.substituted else s

/-- The slot whose instruction failed traps CORE_LOST, once the answer to a send has come; the core's other slots pass to
the spare core, or the tile is lost. -/
def execCoreLost (s : State) : Out :=
  match s.arg with
  | .slot l =>
    .next (match (s.getSlot l).mode with
      | .running | .faultWait .. => (s.at l fun s => s.trapHere .coreLost 0).remap l.tile l.core
      | .sendWait => (s.onSlot l fun x => { x with haltReq := some .coreLost }).remap l.tile l.core
      | _ => s)
  | _ => .next s

def execTileLost (s : State) : Out :=
  match s.arg with
  | .tile t => .next (s.onTile t fun x => x.lose)
  | _ => .next s

/-- The plots whose contexts wait for a tile. -/
def State.waitingPlots (s : State) (t : Nat) : List Nat := (s.waitingCtxs t).filterMap Ctx.plot

/-- The quiescent point of a lost tile: no tile of a plot that waits for it holds that plot. -/
def State.quiescentPoint (s : State) (t : Nat) : Bool :=
  (s.getTile t).ctx.plot.isNone && (s.waitingPlots t).all fun n =>
    ((s.plotTiles n).all fun u => !(s.getTile u).ctx.ofPlot n)

/-- A column of a die shifted into the spare row: the routes change under the same coordinates (spec/14 R249). -/
def State.shift (s : State) (d col : Nat) : State := s.onDie d fun y => { y with shifted := col :: y.shifted }

/-- The lost tile's column is shifted into the spare row, once for each column of a die; the position gets a sound tile
under the same coordinates, and the context comes back through the shadow store. -/
def execColumnShift (s : State) : Out :=
  match s.arg with
  | .tile t =>
    let x := s.getTile t
    let col := t % 176
    .next (if x.lost ∧ s.quiescentPoint t ∧ !(s.die (dieOf t)).shifted.contains col then
      let s := s.shift (dieOf t) col
      let s := s.onTile t fun x =>
        { x with
          lost := false, repair := Tile.reset.repair, deadCores := [], spareBank := true, tlb := [], icache := []
          caskA := [], caskB := [] }
      s.substituted.swap t
    else s)
  | _ => .next s

/-! ### Other repairs (spec/18 R304, R311; spec/19 R323) -/

/-- A failed bank's lines are copied to the spare bank, to which its lines are redirected: the bytes do not change. -/
def State.spareBankFor (s : State) (t b : Nat) : State :=
  if b < 32 ∧ (s.getTile t).spareBank then s.substituted.onTile t fun x => { x with spareBank := false } else s

def execBankRepair (s : State) : Out :=
  match s.arg with
  | .bank t b => .next (s.spareBankFor t b)
  | _ => .next s

/-- The spare lane of a link takes the failed lane's index. -/
def State.spareLaneFor (s : State) (k : Link) (n : Nat) : State :=
  if n < 8 ∧ !(s.wafer.spareLanes.any fun x => x.1 == k) then
    ({ s with wafer := { s.wafer with spareLanes := s.wafer.spareLanes ++ [(k, n)] } } : State).substituted
  else s

def execLaneRepair (s : State) : Out :=
  match s.arg with
  | .lane k n => .next (s.spareLaneFor k n)
  | _ => .next s

/-- A flit is sent again on its lane: counted, and otherwise delay only. -/
def execLinkRetry (s : State) : Out :=
  match s.arg with
  | .lane k n =>
    let m := ((s.wafer.linkRetries.find? fun x => x.1 == k && x.2.1 == n).map fun x => x.2.2).getD 0
    .next { s with wafer := { s.wafer with
      linkRetries := (k, n, m + 1) :: s.wafer.linkRetries.filter fun x => !(x.1 == k && x.2.1 == n) } }
  | _ => .next s

/-- A spare cellar core, 8 or 9 of a die's ten, takes over the rings of a failed one. -/
def State.spareCellarCoreFor (s : State) (d core : Nat) : State :=
  if (s.die d).spares < 2 ∧ (s.die d).serves.toList.contains core then
    s.substituted.onDie d fun y => { y with spares := y.spares + 1, serves := y.serves.map fun c => if c = core then 8 + y.spares else c }
  else s

def execCellarCoreSpare (s : State) : Out :=
  match s.arg with
  | .spare d core => .next (s.spareCellarCoreFor d core)
  | _ => .next s

/-- A spare Trellis port, 64 to 67, takes a failed port's number. -/
def State.sparePortFor (s : State) (p : Nat) : State :=
  if p < 64 ∧ s.wafer.portMap.length < 4 then
    ({ s with wafer := { s.wafer with portMap := s.wafer.portMap ++ [(p, 64 + s.wafer.portMap.length)] } } : State).substituted
  else s

def execTrellisPortSpare (s : State) : Out :=
  match s.arg with
  | .port p => .next (s.sparePortFor p)
  | _ => .next s

/-! ### Errors of stored data (spec/18 R304, R305) -/

/-- A corrected error counted. -/
def State.countCorrected (s : State) (c : ErrCounter) : State :=
  let n := s.wafer.counter (.corrected c)
  { s with wafer := { s.wafer with corrected := (c, n + 1) :: s.wafer.corrected.filter fun x => x.1 != c } }

/-- The data of an access can be the subject of an error: it has not been applied. A literal of code has been read when its
instruction issued (spec/04 R71). -/
def Flight.canFail (f : Flight) : Bool :=
  f.waiting && (match f.req with
    | .read _ (.code _) => false
    | .read .. | .write .. | .fe .. | .amo .. | .red .. | .member .. | .chunk .. | .fetch .. => true
    | _ => false)

/-- What an access reads of the stored copy. -/
def Req.readsOf : Req → List (Place × Nat)
  | .read ps _ => ps
  | .fetch src _ => src.ps
  | .fe op p _ => if op.reads then [(p, 8)] else []
  | .amo _ ty _ p _ _ => [(p, ty.size)]
  | _ => []

/-- The bytes that a slot's next fetch reads, or its `ldl`: the word at its PC, or the literal. -/
def State.fetchBytes (s : State) (l : SlotLoc) (literal : Bool) : List (Place × Nat) :=
  let x := s.getSlot l
  let tlb := (s.getTile l.tile).tlb ++ x.xl
  let (va, n) := match literal, Sys2Proof.decode (s.peekWord l.tile x.pc) with
    | true, some (.ldl _ z off) => (litAt x.pc off, ldBytes z)
    | _, _ => (x.pc, 4)
  match s.mappedAt tlb (s.asid l.tile) (bits va 56 0) with
  | some p => [(p, n)]
  | none => []

/-- The bytes that an engine's head command reads next. -/
def State.engineBytes (s : State) (t : Nat) (e : Eng) (core : Nat) : List (Place × Nat) :=
  let c := (s.getTile t).ctx
  match e, c.plot with
  | .ce, some plot =>
    match (c.ceq.head?).map fun h => s.copyPlan t plot h with
    | some (.go src _) => src
    | _ => []
  | .de, some plot =>
    match (c.deq.head?).map fun h => s.decantPlan t plot h with
    | some (.go src _) => src
    | _ => []
  | .me, _ =>
    match c.mxHead core with
    | some h => if h.op.path == .array then s.arrayReads t h h.step else if h.op.drains then [] else h.places.flatten
    | none => []
  | _, none => []

/-- The running step of a drain meets an error within the matrix unit: its command fails (spec/12 R226; spec/13 R247). -/
def State.drainBad (s : State) (t : Nat) (e : Eng) (core : Nat) : State :=
  let c := (s.getTile t).ctx
  if e == .me && c.transferArb.running == some core && (c.mxHead core).any fun h => h.op.drains then
    s.onCtx t fun x => x.onMx core fun h => { h with st := .failed Cause.ecc.code }
  else s

/-- An error met: the stored bytes are bad until they are rewritten, and their next reader is told (log 55). An error of a
write is met at its home; one that a drain meets in what it reads, in its step. -/
def execUncorrectableError (s : State) : Out :=
  match s.arg with
  | .site (.flight n) =>
    .next (match s.flights[n]? with
      | some f => if f.canFail then (s.markBad f.req.readsOf).setFlight n (s.serveBad f) else s
      | none => s)
  | .site (.fetch l literal) => .next (if (s.getSlot l).mode = .running then s.markBad (s.fetchBytes l literal) else s)
  | .site (.engine t e core) => .next ((s.markBad (s.engineBytes t e core)).drainBad t e core)
  | .site (.shadow t side off) =>
    let bad : Option Shadow → Option Shadow := fun y => y.map fun z => { z with bad := some off }
    .next (s.onTile t fun x => if side then { x with shadowB := bad x.shadowB } else { x with shadowA := bad x.shadowA })
  | .site (.corrected c) => .next (s.countCorrected c)
  | _ => .next s

end Sys2Proof.Machine
end

