-- ==== Sys2Proof/Machine/EventsNet.lean ====
section
/-!
DEFINITION. Sys2Proof/Machine/EventsNet.lean: packets on the data plane: headers, hops, the order of age, and the refusals
of the boundary (spec/17 R284, R285; spec/18 R289 to R297, R306, R343).
-/
namespace Sys2Proof.Machine

/-! ### Headers (spec/18 R293) -/

/-- OPND: tag and length for TAG; the handle for a granted window (spec/18 R296); the offset for a REQ (log 38). -/
def Req.opnd : Req → Nat
  | .msg _ _ tag data => data.length % 65536 * 65536 + tag % 65536
  | .member _ _ (some (h, _)) => h % 65536
  | .chunk _ (some h) _ | .fetch ⟨_, some h, _⟩ _ => h % 65536
  | .call num .. => num % 65536
  | .arrive h .. | .bini h _ | .btst h _ | .rack h => h
  | .wake off => off % 2 ^ 20
  | r => match r.ranges with
    | (p, n) :: _ => n % 4096 * 2 ^ 20 + p.off % 2 ^ 20
    | [] => 0

/-- THE HEADER of a packet, as bits [127:0]. -/
def Packet.header (p : Packet) (opnd : Nat) : BitVec 128 :=
  let src := p.src / 8
  BitVec.ofNat 128
    (p.ts % 2 ^ 20 * 2 ^ 108 + p.rank % 8 * 2 ^ 105 + (p.flits - 1) % 8 * 2 ^ 102 + p.esc.toNat * 2 ^ 101
      + p.to_ % 176 * 2 ^ 88 + p.to_ / 176 % 256 * 2 ^ 80 + src % 176 * 2 ^ 72 + src / 176 % 256 * 2 ^ 64
      + p.src % 8 * 2 ^ 61 + p.plot % 65536 * 2 ^ 32 + opnd % 2 ^ 32)

/-- The header of an access's packet. -/
def Flight.header (f : Flight) : BitVec 128 := f.pkt.header f.req.opnd

/-- The marks of a flit of a packet on its lane's sideband: HEAD, TAIL and TRUNC, the last for a packet that its injection
guard has ended early (spec/18 R293, R306). -/
def flitMarks (flits i : Nat) (truncated : Bool) : Bool × Bool × Bool :=
  (i == 0, i + 1 == flits, truncated && i + 1 == flits)

/-! ### Age (spec/18 R293, R295) -/

/-- A timestamp as a router holds it: one older than 2^18 is rewritten. -/
def agedTs (ts now : Nat) : Nat := if 2 ^ 18 < (now + 2 ^ 20 - ts % 2 ^ 20) % 2 ^ 20 then (now + 2 ^ 20 - 2 ^ 18) % 2 ^ 20 else ts

/-- Wafer time in the units of timestamps. -/
def State.stampTime (s : State) : Nat := s.wafer.time / 8 % 2 ^ 20

/-- The first of two packets wins: the older one, or at equal age the one with the lower source id; both with the
timestamps that the routers hold by now. -/
def Packet.wins (now : Nat) (a b : Packet) : Bool :=
  let d := (agedTs b.ts now + 2 ^ 20 - agedTs a.ts now % 2 ^ 20) % 2 ^ 20
  if d = 0 ∨ d = 2 ^ 19 then decide (a.src ≤ b.src) else decide (d < 2 ^ 19)

/-! ### The boundary (spec/17 R284, R285; spec/18 R296, R343) -/

/-- A position lies in the rectangle of a plot, holes included. -/
def Plot.inside (p : Plot) (t : Nat) : Bool :=
  decide (p.x0 ≤ t % 176 ∧ t % 176 < p.x0 + p.w ∧ p.y0 ≤ t / 176 ∧ t / 176 < p.y0 + p.h)

/-- A packet is a send to a position outside its plot, or to none. -/
def State.foreignSend (s : State) (f : Flight) : Bool :=
  match f.req, s.plot f.plot with
  | .msg .., some p => f.pkt.nowhere || !p.inside f.pkt.to_
  | _, _ => false

/-- The next router: on the escape route along x first; else along the way chosen, if it brings the packet closer. -/
def Packet.next (p : Packet) (alongY : Bool) : Nat :=
  if p.esc || !alongY || p.at_ / 176 == p.to_ / 176 then stepTo p.at_ p.to_
  else if p.at_ < p.to_ then p.at_ + 176
  else p.at_ - 176

/-- The router where a packet stands is its boundary router. -/
def State.atBoundary (s : State) (f : Flight) : Bool :=
  match s.plot f.plot with
  | some p => f.pkt.nowhere || !p.inside (f.pkt.next false) || !p.inside (f.pkt.next true)
  | none => false

/-- The handle of a granted window by which a packet goes, and whether the packet writes. -/
def Req.granted : Req → Option (Nat × Bool)
  | .member _ _ (some (h, _)) => some (h, true)
  | .chunk _ (some h) _ => some (h, true)
  | .fetch ⟨_, some h, _⟩ _ => some (h, false)
  | _ => none

/-- A granted window still takes reads, or writes, under a handle of a plot. -/
def Plot.grants (p : Plot) (h : Nat) (write : Bool) : Bool :=
  match p.find h with
  | some (.region (.grant ..) _ w) => w || !write
  | _ => false

/-- A packet to a granted window stands at its boundary router, and its handle no longer allows it; or it has come to a
tile in reset, which belongs to another plot (spec/18 R296, R306). -/
def State.grantGone (s : State) (f : Flight) : Bool :=
  match f.req.granted, s.plot f.plot with
  | some (h, write), some p =>
    (p.inside f.pkt.at_ && s.atBoundary f && !p.grants h write)
      || (f.arrived && (s.getTile f.pkt.to_).inReset && !p.inside f.pkt.to_)
  | _, _ => false

/-- The logical number of a router's tile; a router at a hole or outside the plot has none, and the value is free (log
6). -/
def State.routerNo (s : State) (p : Plot) (t : Nat) : Nat × State :=
  match p.tiles.findIdx? fun u => u == t with
  | some n => (n, s)
  | none => (bits (Config.freeValue s.free) 15 0, { s with free := s.free + 1 })

/-- The refusal value of a packet that carries no tile number and no tag: both are free (log 6). -/
def State.openRefusal (s : State) (cls : Nat) (p : Plot) (t : Nat) : Word × State :=
  let (r, s) := s.routerNo p t
  (refusalValue cls r (bits (Config.freeValue s.free) 31 16) (bits (Config.freeValue s.free) 15 0), { s with free := s.free + 1 })

/-- The router consumes the packet and answers its sender: a send traps, a member store is acknowledged with a record of
its own, and a chunk, whose read or whose write is refused, freezes its engine at the boundary before it. The plot that sent
it may have been swapped out meanwhile (spec/17 R285; spec/18 R296, R297). -/
def State.refuse (s : State) (n : Nat) (f : Flight) (p : Plot) : State :=
  match f.req with
  | .msg _ dst tag _ =>
    let (r, s) := s.routerNo p f.pkt.at_
    let f := { f with pkt := { f.pkt with to_ := f.pkt.at_, nowhere := false } }
    s.setFlight n { s.serve f 0 0 with st := .refused (refusalValue 0 r dst tag) }
  | .member .. =>
    let (v, s) := s.openRefusal 1 p f.pkt.at_
    let f := { f with pkt := { f.pkt with to_ := f.pkt.at_ } }
    (s.setFlight n (s.serve f 0 0)).plotTrap p f.tile f.core f.slot f.owner .other .protection v
  | .chunk .. | .fetch .. =>
    let (v, s) := s.openRefusal f.pkt.rank p f.pkt.at_
    ((s.dropFlight n).onCtxOf f.tile f.plot fun c => c.chunkBack f .refused).plotTrap p f.tile f.core f.slot f.owner
      (.engine f.tile .ce) .protection v
  | _ => s

/-- A refusal is due for a packet where it stands. -/
def State.refusable (s : State) (f : Flight) : Bool :=
  f.st == .going && ((s.foreignSend f && s.atBoundary f) || s.grantGone f)

def execBoundaryRefusal (s : State) : Out :=
  onFlight (fun n f s =>
    .next (match s.plot f.plot with
      | some p => if s.refusable f then s.refuse n f p else s
      | none => s)) s

/-! ### Hops (spec/18 R292 to R294) -/

/-- An access is a message. -/
def Req.isMsg : Req → Bool
  | .msg .. => true
  | _ => false

/-- A packet is on its way and may leave the router where it stands. -/
def State.canHop (s : State) (f : Flight) : Bool :=
  !f.arrived && !f.pkt.nowhere && !s.refusable f && !s.pent f.tile f.pkt f.req.isMsg && (match f.st with
    | .parked _ => false
    | _ => true)

/-- A translation miss or its answer is on its way, and may leave the router where it stands. -/
def State.missHops (s : State) (x : Xlate) : Bool := x.pkt.at_ != x.pkt.to_ && !s.pent x.tile x.pkt false

/-- A packet takes room in a buffer of a router input: it has been injected and is still on its way. -/
def Packet.buffered (p : Packet) : Bool := p.via != p.at_ && p.at_ != p.to_

/-- The packets on the data plane. -/
def State.packets (s : State) : List Packet :=
  (s.flights.filter fun f => match f.st with
    | .parked _ => false
    | _ => true).map Flight.pkt ++ s.wafer.xlates.map Xlate.pkt

/-- The flits held of one lane in a buffer of the input of a router that a neighbour's link feeds: the escape buffer of a
rank, or the pool. -/
def State.occupied (s : State) (r via lane : Nat) (esc : Option Nat) : Nat :=
  s.packets.foldl (fun n p =>
    if p.buffered && p.at_ == r && p.via == via && p.lane == some lane && (match esc with
      | some k => p.esc && p.rank == k
      | none => !p.esc) then n + p.flits else n) 0

/-- ALLOWANCES: a router holds, for each lane, those of the free space of its neighbour's buffer, and places a packet
there only while they cover every flit of it (spec/18 R294). An escape buffer has 5 flits; the pool's size is log 38. -/
def State.roomAt (s : State) (p : Packet) (r lane : Nat) (esc : Bool) : Bool :=
  if esc then decide (p.flits + s.occupied r p.at_ lane (some p.rank) ≤ 5)
  else decide (p.flits + s.occupied r p.at_ lane none ≤ Config.poolFlits)

/-- A lane of a link carries the flits of another packet now. -/
def State.laneBusy (s : State) (a r lane : Nat) : Bool :=
  s.wafer.lanes.any fun b => b.link == ⟨a, r⟩ && b.lane == lane && decide (s.instant < b.till)

/-- The lane of a packet: the one that it keeps, or the one that its port chooses round-robin among those that hold an
allowance for the first hop. -/
def State.laneFor (s : State) (p : Packet) (r : Nat) (esc : Bool) : Option Nat :=
  match p.lane with
  | some k => if s.roomAt p r k esc then some k else none
  | none =>
    let last := ((s.wafer.laneRot.find? fun x => x.1 == p.at_).map Prod.snd).getD 7
    ((List.range 8).map fun i => (last + 1 + i) % 8).find? fun k => s.roomAt p r k esc

/-- How a packet goes on: its next router, its lane, and whether it takes the escape buffer there, in which it stays from
then on; none where it holds no allowance or the lane is busy. -/
def State.hopTo (s : State) (p : Packet) (alongY : Bool) : Option (Nat × Nat × Bool) :=
  let r := p.next alongY
  let way : Option (Nat × Bool) :=
    match (if p.esc then none else s.laneFor p r false) with
    | some k => some (k, false)
    | none => (s.laneFor p r true).map fun k => (k, true)
  match way with
  | some (k, esc) => if s.laneBusy p.at_ r k then none else some (r, k, esc)
  | none => none

/-- A packet moved along a link: the injection guard stamps one that leaves the port of its tile; a router keeps its stamp (spec/18
R290, R293, R295). -/
def Packet.move (p : Packet) (r lane : Nat) (esc : Bool) (now : Nat) : Packet :=
  { p with at_ := r, via := p.at_, esc := esc, lane := some lane, ts := if p.lane.isNone then now else agedTs p.ts now }

/-- A packet takes its lane on a link, a flit for each cycle of the clock of the tile that it leaves (spec/00 R2; spec/18 R293;
log 38); its first hop turns its port's choice on. -/
def State.takeLane (s : State) (p : Packet) (r lane : Nat) : State :=
  let now := s.instant
  { s with wafer := { s.wafer with
    lanes := ⟨⟨p.at_, r⟩, lane, now + p.flits * s.period p.at_⟩ :: s.wafer.lanes.filter fun b => decide (now < b.till)
    laneRot := if p.lane.isNone then (p.at_, lane) :: s.wafer.laneRot.filter fun x => x.1 != p.at_ else s.wafer.laneRot } }

/-- A hop of a packet of the list of accesses in flight, or, beyond its end, of the list of translation misses. -/
def execPacketHop (s : State) : Out :=
  match s.arg with
  | .hop n alongY =>
    .next (match s.flights[n]? with
      | some f =>
        match (if s.canHop f then s.hopTo f.pkt alongY else none) with
        | some (r, k, esc) => (s.takeLane f.pkt r k).setFlight n { f with pkt := f.pkt.move r k esc s.stampTime }
        | none => s
      | none =>
        let m := n - s.flights.length
        match s.wafer.xlates[m]? with
        | some x =>
          match (if s.missHops x then s.hopTo x.pkt alongY else none) with
          | some (r, k, esc) =>
            (s.takeLane x.pkt r k).setMisses (s.wafer.xlates.set m { x with pkt := x.pkt.move r k esc s.stampTime })
          | none => s
        | none => s)
  | _ => .next s

end Sys2Proof.Machine
end

