-- ==== Sys2Proof/Machine/EventsPower.lean ====
section
/-!
DEFINITION. Sys2Proof/Machine/EventsPower.lean: droops, plumb margin, body bias, control intervals, boost, stagger and the
time base (spec/02 R28; spec/16 R266 to R276, R278, R281).
-/
namespace Sys2Proof.Machine

/-! ### Droops (spec/16 R266, R268) -/

/-- The eighths of a period by which a droop stretches a cycle. -/
def stretchOf (mv : Nat) : Nat := if 50 ≤ mv then 4 else if 40 ≤ mv then 3 else if 30 ≤ mv then 2 else if 20 ≤ mv then 1 else 0

/-- The cycles of a tile are stretched: those of an elastic one, and those of the tile whose droop has begun a margin event (spec/16
R266, R268). -/
def State.stretches (s : State) (t : Nat) : Bool :=
  (s.plotOf t).any fun p => !p.plumb || (p.margin.isSome && p.marginTile == (s.getTile t).ctx.n)

/-- A droop: the next cycle of an elastic tile is stretched, its halted cores or not. -/
def execDroopStretch (s : State) : Out :=
  match s.arg with
  | .millivolts t mv =>
    .next (if s.stretches t then s.onTile t fun x => { x with droop := max x.droop (stretchOf mv) } else s)
  | _ => .next s

/-- A plumb tile reads 45 mV or more: it stretches the cycle in which it does, and the plot halts; one that a margin event halts
already has its record to come. -/
def execPlumbMargin (s : State) : Out :=
  match s.arg with
  | .millivolts t mv =>
    .next (match s.plotOf t with
      | some p =>
        if p.plumb ∧ 45 ≤ mv then
          let s := s.onTile t fun x => { x with edge := x.edge + stretchOf mv * 968 / 8 }
          if p.margin.isSome then s
          else (s.setPlot { p with margin := some 0, marginTile := (s.getTile t).ctx.n }).settle (s.resident p)
        else s
      | none => s)
  | _ => .next s

/-- Every tile of a plot has halted, or does not hold it. -/
def State.haltedAll (s : State) (p : Plot) : Bool := p.tiles.all fun t => s.swappable t || !(s.getTile t).ctx.ofPlot p.num

/-- A margin event goes on: the last tile has halted, or the 256 ns after that are over. -/
def State.marginOver (s : State) (p : Plot) : Bool :=
  match p.margin with
  | some 0 => s.haltedAll p
  | some m => decide (m ≤ s.wafer.time)
  | none => false

/-- A plot that a margin event has halted turns elastic and resumes on all its tiles, and its record is sent (spec/16 R268). -/
def State.elasticResume (s : State) (p : Plot) : State :=
  let p := { p with margin := none }
  let s := (s.toElastic p).settle (s.resident p)
  s.sendTrapRecord p .other (trapWords Cause.plumbMargin.code 0 p.ctxid 0 0 0 (BitVec.ofNat 64 p.marginTile) 0 s.wafer.time)

/-- The last tile has halted, and the plot resumes 256 ns later; or it resumes. -/
def execElasticResume (s : State) : Out :=
  match s.arg with
  | .plot n =>
    .next (match s.plot n with
      | some p =>
        if s.marginOver p then
          if p.margin = some 0 then s.setPlot { p with margin := some (s.wafer.time + 256) }
          else s.elasticResume p
        else s
      | none => s)
  | _ => .next s

/-! ### Body bias (spec/16 R269) -/

/-- A tile holds a record in a slot or an engine command. -/
def State.busy (s : State) (t : Nat) : Bool :=
  let c := (s.getTile t).ctx
  (slotLocs t).any (fun l => (s.getSlot l).mode != .free) || !c.ceq.isEmpty || !c.deq.isEmpty || c.mq.toList.any fun q => !q.isEmpty

/-- A tile takes reverse bias. -/
def State.takesBias (s : State) (t : Nat) : Bool :=
  let x := s.getTile t
  (s.plotOf t).any (fun p => !p.plumb) && decide (2048 ≤ x.idle) && !x.reverse && !s.busy t && !x.ctx.urgent

def execReverseBias (s : State) : Out :=
  match s.arg with
  | .tile t => .next (if s.takesBias t then s.onTile t fun x => { x with reverse := true } else s)
  | _ => .next s

/-! ### Control intervals (spec/02 R28; spec/16 R273 to R276, R278) -/

/-- The control interval of a time. -/
def intervalOf (time : Nat) : Nat := time / 1024

/-- FC of a tile's die in an interval that is in force or comes next. -/
def State.fcAt (s : State) (t n : Nat) : Nat :=
  if s.wafer.interval < n then (s.die (dieOf t)).fcNext else (s.die (dieOf t)).fc

/-- FT of an interval that is in force or comes next. -/
def Tile.ftAt (x : Tile) (n : Nat) : Nat := if x.interval < n then x.ftNext else x.ft

/-- The next current-limit fraction. -/
def nextFc (fc limit peak : Nat) : Nat :=
  if limit < peak then fc - 4 else if 16 * peak < 15 * limit then min 16 (fc + 1) else fc

/-- The next thermal fraction; temperatures in tenths of a degree. -/
def nextFt (ft limit hot : Nat) : Nat :=
  if limit < hot then ft - 2 else if hot + 50 ≤ limit then min 16 (ft + 1) else ft

/-- A die enters an interval: the fraction in force, the next one from the rail's peak, and a new measurement. -/
def Die.enter (d : Die) : Die := { d with fc := d.fcNext, fcNext := nextFc d.fcNext d.limit d.peak, peak := 0 }

/-- A packet whose router rewrites its timestamp when it has grown old (spec/18 R295). -/
def Packet.aged (p : Packet) (now : Nat) : Packet := { p with ts := agedTs p.ts now }

/-- Every packet that a router, a port or a bank holds has its timestamp rewritten where it has grown old: often enough that
none ever leaves the window of comparisons (spec/18 R295). -/
def State.agePackets (s : State) : State :=
  let now := s.stampTime
  { s with
    flights := s.flights.map fun f => { f with pkt := f.pkt.aged now }
    wafer := { s.wafer with xlates := s.wafer.xlates.map fun x => { x with pkt := x.pkt.aged now } } }

/-- Every die enters an interval. One that is not listed is as after reset, with no limit and no peak, and stays so. -/
def State.enterDies (s : State) (n : Nat) : State :=
  let s := (s.wafer.dies.map Prod.fst).foldl (fun s d => s.onDie d Die.enter) s.agePackets
  { s with wafer := { s.wafer with interval := n } }

/-- Some slot time lies in an interval. -/
def slotTimeIn (period offset n : Nat) : Bool :=
  period == 0 || (List.range 1024).any fun i => (1024 * n + i) % period == offset

/-- The smallest of numbers, 16 where there are none. -/
def least (ns : List Nat) : Nat := ns.foldl min 16

/-- The fractions of interval n for a tile: the lowest FC and the lowest FT that enter F, FG, and F. -/
def State.fractions (s : State) (t n : Nat) : Nat × Nat × Nat × Nat :=
  let fcOf := fun u => s.fcAt u n
  let ftOf := fun u => (s.getTile u).ftAt n
  match (s.plotOf t).filter Plot.gang with
  | some p =>
    let fc := least (p.tiles.map fcOf)
    let ft := least (p.tiles.map ftOf)
    (fc, ft, min fc ft, min fc ft)
  | none => (fcOf t, ftOf t, 16, min (fcOf t) (ftOf t))

/-- A boost grant takes effect on a tile in interval n. -/
def State.boosts (s : State) (t n f : Nat) : Bool :=
  f == 16 && slotTimeIn s.wafer.staggerP s.wafer.staggerO n &&
    match s.plotOf t with
    | some p => !p.plumb && (if p.gang then p.tiles else [t]).all fun u => (s.getTile u).boostFor == some n
    | none => (s.getTile t).boostFor == some n

/-- A table that was written takes effect. -/
def Ramp.takeTable (r : Ramp) : Ramp :=
  match r.next with
  | some (u, d) => { r with up := u, down := d, next := none }
  | none => r

/-- The ramp table and ceiling at the start of an interval. While the module staggers, a rise of the ceiling by 4 or
more waits for a slot time (spec/16 R281). -/
def Ramp.enter (r : Ramp) (c : Nat) (stagger : Bool) : Ramp :=
  let r := r.takeTable
  if stagger && decide (r.ceil + 4 ≤ c) then r else { r with ceil := c }

/-- The CURRENT of the records that a tile has in slots. -/
def State.currents (s : State) (t : Nat) : Nat :=
  (slotLocs t).foldl (fun n l =>
    if (s.getSlot l).mode = .free then n else n + ((s.getTile t).ctx.bind (s.getSlot l).run.queue).current) 0

/-- A tile enters an interval with a fraction: its budgets, pools and ceiling. While the module staggers, the boost clock rises
at a slot time (spec/16 R281). -/
def Tile.enter (x : Tile) (n ft fg f : Nat) (curlim thermal boost stagger : Bool) (currents : Nat) : Tile :=
  let e := if boost then x.eboost else x.enom * f / 16
  let i := if boost then x.iboost else x.inom * f / 16
  let pools := x.reserves.map fun r => e * r / 16
  let x := { x with
    interval := n, ft := ft, ftNext := nextFt ft x.limit x.sensor, fg := fg, f := f, sensor := 0
    boost := boost, fast := boost && (x.fast || !stagger), curlim := curlim, thermal := thermal, e := e, i := i, pools := pools
    common := e - pools.toList.foldl (· + ·) 0, irem := (i : Int) - currents, dispatched := false }
  { x with ctx := { x.ctx with ramp := x.ctx.ramp.enter x.ceiling stagger } }

/-- A tile's interval begins, for the contexts that wait there too. -/
def State.startInterval (s : State) (t : Nat) : State :=
  let n := intervalOf s.wafer.time
  let (fc, ft, fg, f) := s.fractions t n
  let boost := s.boosts t n f
  let own := (s.getTile t).ftAt n
  let currents := s.currents t
  let s := s.onWaiting t fun c => { c with ramp := c.ramp.takeTable }
  s.onTile t fun x => x.enter n own fg f (decide (fc < 16)) (decide (ft < 16)) boost (s.wafer.staggerP != 0) currents

/-- The start of an interval is due on a tile. -/
def State.intervalDue (s : State) (t : Nat) : Bool := decide ((s.getTile t).interval < intervalOf s.wafer.time)

/-- The start of an interval is due on the dies. -/
def State.diesDue (s : State) : Bool := decide (s.wafer.interval < intervalOf s.wafer.time)

/-- The machine with the interval that is due entered on the dies: what a setting or a measurement finds (spec/16 R273). -/
def State.diesEntered (s : State) : State := if s.diesDue then s.enterDies (intervalOf s.wafer.time) else s

/-- The machine with the interval that is due entered on the dies and on a tile. -/
def State.entered (s : State) (t : Nat) : State :=
  let s := s.diesEntered
  if s.intervalDue t then s.startInterval t else s

def execControlIntervalStart (s : State) : Out :=
  match s.arg with
  | .tile t => .next (if s.intervalDue t then s.startInterval t else s)
  | .none => .next (if s.diesDue then s.enterDies (intervalOf s.wafer.time) else s)
  | _ => .next s

/-- Boost granted for the next interval: to a tile, or to every tile of a gang. A plumb plot takes none. -/
def execBoostGrant (s : State) : Out :=
  match s.arg with
  | .tile t =>
    let n := intervalOf s.wafer.time + 1
    .next (match s.plotOf t with
      | some p => if p.plumb then s else s.onTile t fun x => { x with boostFor := some n }
      | none => s.onTile t fun x => { x with boostFor := some n })
  | .plot m =>
    let n := intervalOf s.wafer.time + 1
    .next (match s.plot m with
      | some p => if p.plumb then s else p.tiles.foldl (fun s t => s.onTile t fun x => { x with boostFor := some n }) s
      | none => s)
  | _ => .next s

/-! ### Stagger and the time base (spec/16 R270, R281) -/

/-- The present time is a slot time, or the module does not stagger. -/
def State.slotTime (s : State) : Bool := s.wafer.staggerP == 0 || s.wafer.time % s.wafer.staggerP == s.wafer.staggerO

/-- The first dispatch of a plot is due and held. -/
def State.dispatchHeld (s : State) (t : Nat) : Bool := s.startHeld t && (s.wouldDispatch t).isSome

/-- A load step of a tile is held: its first dispatch, a rise of its ceiling, or the boost clock. -/
def State.stepHeld (s : State) (t : Nat) : Bool :=
  let x := s.getTile t
  s.dispatchHeld t || x.ctx.ramp.ceil != x.ceiling || (x.boost && !x.fast)

/-- What the tile holds takes effect. -/
def Tile.releaseStep (x : Tile) : Tile :=
  { x with fast := x.boost, ctx := { x.ctx with ramp := { x.ctx.ramp with ceil := x.ceiling } } }

/-- The load steps that a tile holds are made; a first dispatch is one of its plot (spec/16 R281). -/
def execStaggerSlotTime (s : State) : Out :=
  match s.arg with
  | .tile t =>
    .next (if s.slotTime then (if s.dispatchHeld t then s.plotStarts t else s).onTile t Tile.releaseStep else s)
  | _ => .next s

/-- The time base is disciplined: wafer time never goes back. Elastic clocks do not jump with it; those of plumb plots
count its nanoseconds. -/
def execTimeSyncMessage (s : State) : Out :=
  match s.arg with
  | .time t =>
    let d := t - s.wafer.time
    let s := s.tileList.foldl (fun s u =>
      let plumb := (s.plotOf u).any Plot.plumb
      s.onTile u fun x => { x with clk := if plumb then x.clk + d else x.clk, edge := x.edge + d * 968 }) s
    .next { s with wafer := { s.wafer with time := s.wafer.time + d } }
  | _ => .next s

end Sys2Proof.Machine
end

