-- ==== Sys2Proof/Machine/Launch.lean ====
section
/-!
DEFINITION. Sys2Proof/Machine/Launch.lean: launches: the checks of a packet, taking a plot, the load state, the mapping and
loading of an image (spec/01 R13 to R16; spec/05 R89; spec/14 R249 to R259).
-/
namespace Sys2Proof.Machine

/-! ### Handles made by the cellar (spec/06 R116) -/

/-- An object entered in a plot's handle table: the first free entry, else a new one, the indices taken from 16 upward as
in the programs of spec/12 and spec/15 (log 29); none where the table is full. -/
def Plot.alloc (p : Plot) (o : Obj) : Option (Nat × Plot) :=
  match p.handles.findIdx? fun e => e.obj.isNone with
  | some i =>
    (p.handles[i]?).map fun e => (e.handle, { p with handles := p.handles.set i { e with obj := some o } })
  | none =>
    if p.handles.length < 65536 then
      let e : HEntry := ⟨(p.handles.length + 16) % 65536, 1, some o⟩
      some (e.handle, { p with handles := p.handles ++ [e] })
    else none

/-! ### Mapping (spec/06 R106, R107) -/

/-- A page frame taken from the top of edge memory (log 28). -/
def State.takeFrame (s : State) : Nat × State :=
  (edgeSize - 4096 * (s.wafer.frames + 1), { s with wafer := { s.wafer with frames := s.wafer.frames + 1 } })

/-- A table entry written. -/
def State.setPte (s : State) (at_ e : Nat) : State :=
  { s with wafer := { s.wafer with edge := Memory.writeN s.wafer.edge at_ (leBytes 8 e) } }

/-- The permissions of an entry. -/
def ptePerm (e : Nat) : Nat := pteBits e 4 2 * 4

/-- A leaf given other permissions; the translation caches lose it where they change. -/
def State.permit (s : State) (asid va at_ perm : Nat) : State :=
  let e := Memory.word s.wafer.edge at_
  if ptePerm e = perm then s else (s.setPte at_ (e - ptePerm e + perm)).invalidate (.va asid va)

/-- A page of a group stands for itself: each entry of the group takes its own address and no group (spec/06 R108). -/
def State.ungroup (s : State) (va lvl base : Nat) : State :=
  let i := va / 2 ^ levelBit lvl % 512
  let sz := pteBits (s.pte base i) 9 8
  let n := 2 ^ (groupBits lvl sz - levelBit lvl)
  if sz = 0 then s
  else
    (List.range n).foldl (fun s k =>
      let j := i / n * n + k
      s.setPte (base + 8 * j) (s.pte base j - sz * 2 ^ 8 + k * 2 ^ levelBit lvl)) s

/-- A leaf above the last level becomes a table of the leaves below it, which map the same bytes in the same way: the table's
address, and the machine. -/
def State.splitLeaf (s : State) (asid va lvl at_ : Nat) : Nat × State :=
  let e := Memory.word s.wafer.edge at_
  let (pa, s) := s.takeFrame
  let s := (List.range 512).foldl (fun s i => s.setPte (pa + 8 * i) (e + i * 2 ^ levelBit lvl)) s
  (pa, (s.setPte at_ (pa + 1)).invalidate (.va asid va))

/-- A page of 4 KiB mapped from a table down: in a frame of its own where nothing maps it yet, else where it is, taken out of a
larger page that holds it (spec/01 R14). `perm` holds the bits R, W and X. -/
def State.mapFrom (s : State) (asid va perm : Nat) : Nat → Nat → State
  | 0, base =>
    let at_ := base + 8 * (va / 2 ^ levelBit 0 % 512)
    if pteBits (Memory.word s.wafer.edge at_) 0 0 = 1 then (s.ungroup va 0 base).permit asid va at_ perm
    else
      let (pa, s) := s.takeFrame
      s.setPte at_ (pa + perm + 3)
  | lvl + 1, base =>
    let at_ := base + 8 * (va / 2 ^ levelBit (lvl + 1) % 512)
    let e := Memory.word s.wafer.edge at_
    if pteBits e 0 0 = 1 then
      if pteBits e 1 1 = 1 then
        let (pa, s) := (s.ungroup va (lvl + 1) base).splitLeaf asid va lvl at_
        s.mapFrom asid va perm lvl pa
      else s.mapFrom asid va perm lvl (ptePa e)
    else
      let (pa, s) := s.takeFrame
      (s.setPte at_ (pa + 1)).mapFrom asid va perm lvl pa

/-- A page mapped in an address space. -/
def State.mapPage (s : State) (asid perm va : Nat) : State :=
  match s.wafer.roots.find? fun r => r.1 == asid with
  | some (_, root) => s.mapFrom asid va perm 4 root
  | none =>
    let (root, s) := s.takeFrame
    ({ s with wafer := { s.wafer with roots := s.wafer.roots ++ [(asid, root)] } }).mapFrom asid va perm 4 root

/-- The pages of a range. -/
def pagesOf (va n : Nat) : List Nat :=
  if n = 0 then [] else (List.range ((va + n - 1) / 4096 - va / 4096 + 1)).map fun i => (va / 4096 + i) * 4096

/-- Bytes of an image mapped and written at virtual addresses. -/
def State.loadAt (s : State) (asid perm va : Nat) (bs : List Byte) : State :=
  let s := (pagesOf va bs.length).foldl (fun s a => s.mapPage asid perm a) s
  ((pages va bs.length (bs.length / 4096 + 2)).foldl (fun (r : State × List Byte) (a, m) =>
    match r.1.mappedAt [] asid a with
    | some p => ((r.1.storePlace p (r.2.take m)).rewritten p m, r.2.drop m)
    | none => (r.1, r.2.drop m)) (s, bs)).1

/-- The places of pieces at virtual addresses, page by page, through the translation cache of a die's cellar (spec/06 R107,
R110). -/
def State.cellarPages (s : State) (d asid : Nat) (use : XUse) : List (Nat × Nat) → Option (List (Place × Nat)) × State
  | [] => (some [], s)
  | (a, m) :: r =>
    let (o, tlb, s) := s.viaCache (s.die d).tlb asid a use
    let s := s.onDie d fun y => { y with tlb := tlb }
    match o with
    | .ok e =>
      let (ps, s) := State.cellarPages s d asid use r
      (ps.map fun ps => (e.place a, m) :: ps, s)
    | _ => (none, s)

/-- The permissions of code, and of data. -/
def permCode : Nat := 4 + 16
def permData : Nat := 4 + 8

/-! ### The checks of a packet (spec/14 R254 to R256) -/

/-- The live plots of a tenant. -/
def State.plotsOf (s : State) (tenant : Nat) : List Plot := s.wafer.plots.filter fun p => p.tenant == tenant

/-- Two rectangles overlap. -/
def Plot.overlaps (p : Plot) (x y w h : Nat) : Bool :=
  decide (p.x0 < x + w ∧ x < p.x0 + p.w ∧ p.y0 < y + h ∧ y < p.y0 + p.h)

/-- A rectangle meets spec/14 R250. -/
def State.rectOk (s : State) (x y w h : Nat) : Bool :=
  decide (1 ≤ w ∧ 1 ≤ h ∧ x + w ≤ 176 ∧ y + h ≤ 138) && !(rectTiles x y w h).isEmpty
    && s.wafer.plots.all fun p => !p.overlaps x y w h

/-- The first origin in row-major order at which a rectangle fits. -/
def State.findRect (s : State) (w h : Nat) : Option (Nat × Nat) :=
  if w = 0 ∨ h = 0 ∨ 176 < w ∨ 138 < h then none
  else
    (List.range (139 - h)).findSome? fun y =>
      ((List.range (177 - w)).find? fun x => s.rectOk x y w h).map fun x => (x, y)

/-- Where a launch goes: a live plot to reuse, a new rectangle, or nowhere. -/
inductive Site where
  | reuse (p : Plot)
  | fresh (x y w h : Nat)
  | none
  deriving DecidableEq, Repr

/-- The site that a packet asks for. -/
def State.siteOf (s : State) (k : LaunchPacket) : Site :=
  match k.place with
  | .reuse n =>
    match (s.plot n).filter fun p => p.tenant == k.tenant && p.killing.isNone with
    | some p => .reuse p
    | none => .none
  | .shape w h (some (x, y)) => if s.rectOk x y w h then .fresh x y w h else .none
  | .shape w h none =>
    match s.findRect w h with
    | some (x, y) => .fresh x y w h
    | none => .none

/-- The least number of tiles that a shape holds at any origin where it holds one: the holes repeat every 22 columns and 23 rows
(spec/14 R250, R251). -/
def leastTiles (w h : Nat) : Nat :=
  ((((List.range (min 23 (139 - h))).flatMap fun y =>
    (List.range (min 22 (177 - w))).map fun x => (rectTiles x y w h).length).filter fun n => n != 0).min?).getD (w * h)

/-- The width, height and number of tiles that a packet asks for; a shape that fits nowhere now counts what it holds at
least (log 39). -/
def siteSize (k : LaunchPacket) (site : Site) : Nat × Nat × Nat :=
  match site, k.place with
  | .reuse p, _ => (p.w, p.h, p.count)
  | .fresh x y w h, _ => (w, h, (rectTiles x y w h).length)
  | .none, .shape w h (some (x, y)) => (w, h, (rectTiles x y w h).length)
  | .none, .shape w h none => (w, h, leastTiles w h)
  | .none, .reuse _ => (0, 0, 0)

/-- Status 3: a limit of the table entry. -/
def State.overLimit (s : State) (w1 : Word) (k : LaunchPacket) (site : Site) : Bool :=
  let (w, h, n) := siteSize k site
  let tiles := ((s.plotsOf k.tenant).map Plot.count).foldl (· + ·) 0
  let plots := (s.plotsOf k.tenant).length
  let new := match k.place with
    | .reuse _ => false
    | .shape .. => true
  bits w1 63 48 == 0 || bits w1 47 40 == 0 || bits w1 39 32 == 0 || bits w1 31 16 == 0
    || decide (bits w1 47 40 < w) || decide (bits w1 39 32 < h)
    || (new && (decide (bits w1 63 48 < tiles + n) || decide (bits w1 31 16 < plots + 1)))

/-- An image names a logical tile at or above a number. -/
def imageBeyond (i : Image) (n : Nat) : Bool :=
  (i.codeTiles.any fun t => decide (n ≤ t)) || (i.tasks.any fun t => decide (n ≤ t.tile))
    || (i.scratch.any fun c => decide (n ≤ c.tile)) || i.cask.any fun c => decide (n ≤ c.tile)

/-- Status 5: the image does not match the plot. Where none is granted, only a tile outside the image's own `.plot` counts. -/
def imageMisfits (i : Image) (site : Site) (w h n : Nat) : Bool :=
  match site with
  | .none => imageBeyond i (i.w * i.h)
  | _ => i.w != w || i.h != h || imageBeyond i n

/-- Status 6: more than 16 queues on a tile, or a mask that is empty on the grade. -/
def imageBadQueues (i : Image) (g : Grade) : Bool :=
  i.tasks.any fun t => decide (16 < (i.tasks.filter fun u => u.tile == t.tile).length) || t.mask % 2 ^ g.cores == 0

/-- A task declares a parameter. -/
def taskDeclares (t : Task) (param : Nat) : Bool := t.params.any fun p => p.1 == param

/-- Status 8: a bad request item. -/
def badItem (k : LaunchPacket) (i : Image) (site : Site) : Bool :=
  (k.overrides.any fun o => !(i.tasks.any fun t => t.name == o.task && taskDeclares t o.param))
    || (i.tasks.any fun t => decide (6 < t.params.length))
    || (k.objects.any fun o => !o.kindKnown || o.expect.any (fun e => e == 0 || decide (65535 < e))
        || !(i.tasks.any fun t => taskDeclares t o.param) || decide (1 < (k.objects.filter fun q => q.param == o.param).length))
    || (match k.place, site with
        | .reuse _, .reuse _ => false
        | .reuse _, _ => true
        | _, _ => false)

/-- Records in states 1 to 4, or engine commands, in a context. -/
def Ctx.working (c : Ctx) : Bool :=
  ((List.range 16).any fun q => (c.records q).any fun off => decide (1 ≤ c.recState off ∧ c.recState off ≤ 4))
    || !c.ceq.isEmpty || !c.deq.isEmpty || c.mq.toList.any fun q => !q.isEmpty

/-- Status 9: the plot to reuse is busy. -/
def State.reuseBusy (s : State) (p : Plot) : Bool :=
  p.tiles.any fun t => ((s.getTile t).ctx :: s.waitingCtxs t).any fun c => c.ofPlot p.num && c.working

/-- The launcher reads the bytes of an image at its address, through the translation cache of the cellar of die 0: whether it can,
and the machine. The packet holds what they say, since no rule gives the form of an image in memory (spec/14 R254, R256; log
39). -/
def State.readImage (s : State) (k : LaunchPacket) (asid : Nat) : Bool × State :=
  match k.image with
  | some i =>
    let n := i.raw.length
    let (ps, s) := s.cellarPages 0 asid .read (pages (k.imageVa % 2 ^ 57) n (n / 4096 + 2))
    (ps.any fun ps => !s.unreadable ps, s)
  | none => (false, s)

/-- The status of a packet, checked in the order of the numbers; an image that a check needs and cannot read is 10. -/
def State.launchStatus (s : State) (k : LaunchPacket) : Nat :=
  match s.launchEntry k.tenant with
  | none => 1
  | some (w0, w1) =>
    let site := s.siteOf k
    let (w, h, n) := siteSize k site
    if !k.authentic || (k.peer.any fun d => !s.wafer.launchPeers.contains (k.tenant, d)) || s.wafer.boot != .running || bits w0 63 63 == 0 || decide (4095 < k.tenant) then 1
    else if k.source > 2 || bits w0 61 59 / 2 ^ k.source % 2 == 0 then 2
    else if s.overLimit w1 k site then 3
    else
      match k.image with
      | none => 10
      | some i =>
        if !(s.readImage k (bits w0 15 0)).1 then 10
        else if i.plumb && bits w0 62 62 == 0 then 4
        else if imageMisfits i site w h n then 5
        else if imageBadQueues i s.wafer.grade then 6
        else if (match k.place, site with
          | .shape .., .none => true
          | _, _ => false) then 7
        else if badItem k i site then 8
        else
          match site with
          | .reuse p => if s.reuseBusy p then 9 else 0
          | _ => 0

/-! ### The load (spec/01 R16; spec/14 R253, R257 to R259) -/

/-- The tasks of a tile, in queue order. -/
def imageTasks (i : Image) (n : Nat) : List Task := i.tasks.filter fun t => t.tile == n

/-- Where the launcher places queue q of a tile: at 0x4_0000 + 0x4000 q, room for 256 records each (log 29). -/
def queueBase (q : Nat) : Nat := 0x40000 + 0x4000 * q

/-- A bind record (spec/02 R26). -/
def taskBind (t : Task) (g : Grade) (base : Nat) : Word × Word :=
  (BitVec.ofNat 64 (2 ^ 63 + t.mask % 2 ^ g.cores * 2 ^ 48 + t.prio % 4 * 2 ^ 46 + t.age.toNat * 2 ^ 45 + t.cls % 4 * 2 ^ 43
      + (t.depth - 1) % 256 * 2 ^ 32 + base / 64 % 2 ^ 14 * 64),
    BitVec.ofNat 64 (t.energy % 65536 * 65536 + t.current % 65536))

/-- Where the launcher puts the code image and the data segment: pages that it chooses (spec/05 R89). -/
def loadBase (k : LaunchPacket) (data : Bool) : Nat := (if data then k.dataBase else k.codeBase) % 2 ^ 57 / 4096 * 4096

/-- A value of an image: a label is resolved at load (spec/01 R14). -/
def labelValue (k : LaunchPacket) : ImgValue → Word
  | .const w => w
  | .label data off => BitVec.ofNat 64 (loadBase k data + off)

/-- The bytes of a section with its labels resolved. -/
def resolved (k : LaunchPacket) (rs : List Reloc) (bs : List Byte) : List Byte :=
  rs.foldl (fun bs r => bs.take r.pos ++ leBytes 8 (labelValue k (.label r.data r.off)).toNat ++ bs.drop (r.pos + 8)) bs

/-- The values that fill s1 to s6: the image's, then overrides, then handles. -/
def taskValues (t : Task) (k : LaunchPacket) (handles : List (Nat × Word)) : List Word :=
  t.params.map fun (name, v) =>
    match handles.find? fun h => h.1 == name with
    | some h => h.2
    | none => ((k.overrides.find? fun o => o.task == t.name && o.param == name).map Override.value).getD (labelValue k v)

/-- The records of a task made ready, in order of index. -/
def Ctx.enter (c : Ctx) (q base : Nat) (t : Task) (pc : Word) (values : List Word) (now : Nat) : Ctx :=
  (List.range t.ready).foldl (fun c i =>
    c.fresh q i (base + 64 * i) pc ((List.range 6).map fun j => (values[j]?.getD 0, true)) now) c

/-- The scratchpad sections of a tile written, with the words that load empty. -/
def Ctx.sections (c : Ctx) (k : LaunchPacket) (ss : List ScratchSec) : Ctx :=
  ss.foldl (fun c x =>
    x.empties.foldl (fun c off => c.setFull off false) { c with spad := Memory.writeN c.spad x.off (resolved k x.relocs x.bytes) }) c

/-- The context of tile n of a loaded plot. -/
def imageContext (i : Image) (k : LaunchPacket) (g : Grade) (num n : Nat) (handles : List (Nat × Word)) (ready now : Nat)
    (ceil : Nat) : Ctx :=
  let ts := imageTasks i n
  let bases := (List.range ts.length).map queueBase
  let c := { Ctx.reset with
    plot := some num, n := n, cycFrom := now, ramp := { Ramp.reset with ceil := ceil }
    binds := Vector.ofFn fun q : Fin 16 =>
      match ts[q.val]?, bases[q.val]? with
      | some t, some b => taskBind t g b
      | _, _ => (0, 0)
    stages := Vector.ofFn fun q : Fin 16 => ((ts[q.val]?).map fun (t : Task) => BitVec.ofNat 8 t.stage).getD 0 }
  let c := c.sections k (i.scratch.filter fun x => x.tile == n)
  ((ts.zip bases).zipIdx).foldl (fun c ((t, b), q) =>
    c.enter q b t (BitVec.ofNat 64 (loadBase k false + t.entry)) (taskValues t k handles) ready) c

/-- One object request: its handle for each tile, with the plot. A handle table that is full makes no object; no status of
spec/14 R256 names the case (DESIGN CHOICE: log 56). -/
def Plot.object (p : Plot) (cores : Nat) (o : ObjectReq) : List (Nat × Word) × Plot :=
  let bar := fun (wide : Bool) (n : Nat) => Obj.barrier ⟨wide, n, 0, o.expect.getD cores, 0, 0, none, false, []⟩
  if o.plotBarrier then
    match p.alloc (bar true 0) with
    | some (h, p) => ((List.range p.count).map fun n => (n, BitVec.ofNat 64 h), p)
    | none => ([], p)
  else
    (List.range p.count).foldl (fun (hs, p) n =>
      match p.alloc (bar false n) with
      | some (h, p) => (hs ++ [(n, BitVec.ofNat 64 h)], p)
      | none => (hs, p)) ([], p)

/-- Every object request: (parameter, tile, handle), with the plot. -/
def Plot.objects (p : Plot) (cores : Nat) (os : List ObjectReq) : List (Nat × Nat × Word) × Plot :=
  os.foldl (fun (hs, p) o =>
    let (h, p) := p.object cores o
    (hs ++ h.map fun x => (o.param, x.1, x.2), p)) ([], p)

/-- The initial vintage of an image with cask data (spec/19 R329). A reused plot that has a vintage on half A keeps it; one
whose current vintage lies on half B keeps that one current, and the initial vintage enters sealed (DESIGN CHOICE: log 45).
A handle table that is full takes none (DESIGN CHOICE: log 56). -/
def Plot.initialVintage (p : Plot) (i : Image) : Plot :=
  if i.cask.isEmpty || p.vintageOn false then p
  else
    match p.alloc (.vintage ⟨if p.current.isSome then 2 else 3, false, 0, 0, 0⟩) with
    | some (_, p) => p
    | none => p

/-- The cask of a tile as a launch finds it: for a reused plot its own, kept on the tile or in its save areas; else zero
(spec/14 R259; spec/18 R309). -/
def State.findCask (s : State) (p : Plot) (reuse : Bool) (t n : Nat) : State :=
  if reuse && (s.getTile t).ctx.ofPlot p.num then s else (s.restoreHalf t p n false).restoreHalf t p n true

/-- An image's cask data for a tile, written to half A. -/
def State.loadCask (s : State) (i : Image) (k : LaunchPacket) (t n : Nat) : State :=
  (i.cask.filter fun x => x.tile == n).foldl (fun s x =>
    let bs := resolved k x.relocs x.bytes
    (s.storePlace ⟨.cask t, x.off⟩ bs).rewritten ⟨.cask t, x.off⟩ bs.length) s

/-- The tile, its clock already that of the plot's mode, with a plot placed on it; a bind record of priority 3 lifts a reverse
bias (spec/16 R269). -/
def Tile.place (x : Tile) (c : Ctx) (num : Nat) : Tile :=
  let keep : Option Shadow → Option Shadow := fun y => y.filter fun z => !z.ctx.ofPlot num
  { x with
    ctx := c
    icache := []
    reverse := x.reverse && !c.urgent
    lifting := none
    frozen := false
    quiet := false
    swapping := false
    inReset := false
    shadowA := keep x.shadowA
    shadowB := keep x.shadowB }

/-- The plot that a launch makes or reuses, before its objects. -/
def State.newPlot (s : State) (k : LaunchPacket) (i : Image) (site : Site) (asid : Nat) : Option Plot :=
  let last := (i.tasks.map Task.stage).foldl max 0
  let epoch := s.wafer.time / 32768 * 32768
  match site with
  | .reuse p =>
    some { p.unclocked with
      plumb := i.plumb, epoch := epoch, lastStage := last, offers := [], digest := Config.shake256 i.raw, imageVa := k.imageVa
      frozen := false, frozenStages := [], clock := none, margin := none, marginTile := 0, strong := [], started := false }
  | .fresh x y w h =>
    some { num := s.wafer.nextPlot, tenant := k.tenant, asid := asid, x0 := x, y0 := y, w := w, h := h, plumb := i.plumb
           epoch := epoch, lastStage := last, handles := [], offers := [], nextOffer := 1, digest := Config.shake256 i.raw
           imageVa := k.imageVa, frozen := false, frozenStages := [], clock := none, margin := none, marginTile := 0, killing := none
           strong := [], casks := [], started := false }
  | .none => none

/-- The plot in the list of live plots. -/
def State.enterPlot (s : State) (p : Plot) (reuse : Bool) : State :=
  if reuse then s.setPlot p
  else { s with wafer := { s.wafer with plots := s.wafer.plots ++ [p], nextPlot := s.wafer.nextPlot + 1 } }

/-- An offset at which no record lies. -/
def noRecord : Nat := 2 ^ 20

/-- An access whose record has gone with the earlier use of its plot: it is made, and no record of the new load receives its value,
waits for it or is told of its failure. A call is executed without a place among the strong calls of the new load (spec/02 R35;
DEDUCED: log 78). -/
def Flight.orphan (f : Flight) : Flight :=
  { f with
    dest := .none, owner := noRecord
    req := match f.req with
      | .call num _ arg queue seq => .call num false arg queue seq
      | r => r }

/-- What an earlier use of the plot left parked at its banks or waiting elsewhere is discarded, with its rings and the windows
that it had offered: it keeps its cask halves and its handle table only (spec/14 R259; log 27). What its records had sent out goes
on without them. -/
def State.discardOld (s : State) (num : Nat) : State :=
  { s.freeGrants num none with
    flights := (s.flights.filter fun f => f.plot != num || (match f.st with
      | .parked _ => false
      | _ => true)).map fun f => if f.plot = num then f.orphan else f
    wafer := { (s.freeGrants num none).wafer with
      rings := s.wafer.rings.filter fun r => r.plot != num
      away := s.wafer.away.filter fun y => !y.2.2.ctx.ofPlot num } }

/-- A tile brought to the load state with what the image puts on it. Every byte of its scratchpad is rewritten. -/
def State.loadTile (s : State) (k : LaunchPacket) (i : Image) (p : Plot) (reuse : Bool) (t n : Nat)
    (handles : List (Nat × Word)) : State :=
  let now := s.wafer.time
  let s := (s.findCask p reuse t n).loadCask i k t n
  let x := (s.getTile t).handOver p.plumb now s.wafer.fine
  let c := imageContext i k s.wafer.grade p.num n handles (if p.plumb then now - p.epoch else 0) x.clk x.ctx.ramp.ceil
  (s.whole t fun s => s.onTile t fun x => (x.handOver p.plumb now s.wafer.fine).place c p.num).rewritten ⟨.spad t, 0⟩ 0x100000

/-- THE LOAD of an accepted launch. -/
def State.load (s : State) (k : LaunchPacket) (i : Image) (site : Site) (asid : Nat) : State :=
  match s.newPlot k i site asid with
  | none => s
  | some p =>
    let reuse := match site with
      | .reuse _ => true
      | _ => false
    let (objs, p) := p.objects s.wafer.grade.cores k.objects
    let p := p.initialVintage i
    let s := (s.enterPlot p reuse).discardOld p.num
    let s := s.loadAt p.asid permCode (loadBase k false) (resolved k i.codeRelocs (i.code.flatMap fun w => leBytes 4 w.toNat))
    let s := i.edge.foldl (fun s x => s.loadAt p.asid permData x.va (resolved k x.relocs x.bytes)) s
    let s := s.loadAt p.asid permData (loadBase k true) (resolved k i.dataRelocs i.data)
    p.tiles.zipIdx.foldl (fun s (t, n) =>
      let hs := (objs.filter fun o => o.2.1 == n).map fun o => (o.1, o.2.2)
      s.loadTile k i p reuse t n hs) s

/-- A launch: its status, and the machine. -/
def State.launch (s : State) (k : LaunchPacket) : Nat × State :=
  let st := s.launchStatus k
  match st, k.image, s.launchEntry k.tenant with
  | 0, some i, some (w0, _) => (0, (s.readImage k (bits w0 15 0)).2.load k i (s.siteOf k) (bits w0 15 0))
  | _, _, some (w0, _) => (st, if 4 ≤ st then (s.readImage k (bits w0 15 0)).2 else s)
  | _, _, none => (st, s)

/-- The plot that an accepted launch answers with. -/
def State.launched (s : State) (k : LaunchPacket) (before : State) : Option Plot :=
  match before.siteOf k with
  | .reuse p => s.plot p.num
  | .fresh .. => s.plot before.wafer.nextPlot
  | .none => none

/-- The tiles from which other plots are evicted before a launch: those of an accepted reuse on which another plot stands
(spec/14 R256; log 39). -/
def State.evictions (s : State) (k : LaunchPacket) : List Nat :=
  match s.siteOf k with
  | .reuse p => if s.launchStatus k != 0 then [] else p.tiles.filter fun t => (s.getTile t).ctx.plot.any fun n => n != p.num
  | _ => []

/-- The pages of virtual memory that the image of a launch occupies. -/
def imagePages (k : LaunchPacket) (i : Image) : List Nat :=
  pagesOf (loadBase k false) (4 * i.code.length) ++ (i.edge.flatMap fun x => pagesOf x.va x.bytes.length)
    ++ pagesOf (loadBase k true) i.data.length

/-- An accepted launch changes a mapping, through which an access may have been translated that is not acknowledged: the change
waits for it (spec/06 R111). -/
def State.remapWaits (s : State) (k : LaunchPacket) : Bool :=
  match k.image, s.launchEntry k.tenant with
  | some i, some (w0, _) =>
    let asid := match s.siteOf k with
      | .reuse p => p.asid
      | _ => bits w0 15 0
    s.launchStatus k == 0 && s.translatedOut (.asid asid) && (imagePages k i).any fun a => (s.mappedAt [] asid a).isSome
  | _, _ => false

/-- A launch can be made now. -/
def State.launchReady (s : State) (k : LaunchPacket) : Bool := (s.evictions k).isEmpty && !s.remapWaits k

/-- The evictions of a launch that have not begun and can. -/
def State.toEvict (s : State) (k : LaunchPacket) : List Nat :=
  (s.evictions k).filter fun t => !(s.getTile t).swapping && s.exchanges t

/-- A launch. One whose tiles other plots hold evicts them first, and comes again. -/
def execLaunch (s : State) : Out :=
  match s.arg with
  | .launch k =>
    if !s.launchReady k then
      .next { (s.toEvict k).foldl State.startSwap s with agenda := ⟨none, .launch, .launch k⟩ :: s.agenda }
    else
      let (st, s') := s.launch k
      .next (match (if st = 0 then s'.launched k s else none) with
        | some p => s'.report (.launch k.source 0 p.num p.ctxid)
        | none => s'.report (.launch k.source st 0 0))
  | _ => .next s

end Sys2Proof.Machine
end

