-- ==== Sys2Proof/Machine/EventsCalls.lean ====
section
/-!
DEFINITION. Sys2Proof/Machine/EventsCalls.lean: the calls that Rolruica executes, and their replies (spec/07 R342; spec/18
R296, R313; spec/19 R320 to R322, R326, R330, R338).
-/
namespace Sys2Proof.Machine

/-! ### Executing a call (spec/19 R320, R321) -/

/-- What a call comes to: it waits; it does a part of its work and comes again; it fails with a code, having changed nothing
but what the reads of its argument leave (spec/06 R107); or it gives its result and the machine. -/
inductive Called where
  | wait
  | again (s : State)
  | err (code : Nat) (s : State)
  | ok (result : Nat) (s : State)

/-- The error codes of spec/19 R321. -/
def errUnknown : Nat := 1
def errBusy : Nat := 2
def errNoResource : Nat := 3
def errArgument : Nat := 4
def errDenied : Nat := 5

/-- The key of the queue that issued a call. -/
def Plot.callKey (p : Plot) (f : Flight) (queue : Nat) : Nat := queueKey (p.logical f.tile) queue

/-- A strong call waits for the strong calls of its queue before it. -/
def Plot.callTurn (p : Plot) (f : Flight) (strong : Bool) (queue seq : Nat) : Bool :=
  !strong || (p.strongOf (p.callKey f queue)).2 == seq

/-- The reply to a call, on its way. -/
def State.answerCall (s : State) (f : Flight) (strong : Bool) (queue val : Nat) : State :=
  let s := { s with flights := s.flights.map fun (g : Flight) => if g.seq = f.seq then s.serve g val 0 else g }
  match s.plot f.plot with
  | some p =>
    if strong then
      let (i, c) := p.strongOf (p.callKey f queue)
      s.setPlot (p.setStrong (p.callKey f queue) (i, c + 1))
    else s
  | none => s

/-- A call of some numbers, executed where its turn has come. -/
def onCall (mine : Nat → Bool) (k : Word → Flight → Plot → State → Called) (s : State) : Out :=
  onFlight (fun _ f s =>
    match f.req, s.plot f.plot with
    | .call num strong arg queue seq, some p =>
      if !mine num || f.st != .going || !f.arrived || !p.callTurn f strong queue seq then .next s
      else
        .next (match k arg f p s with
          | .wait => s
          | .again s => s
          | .err c s => s.answerCall f strong queue (2 ^ 63 + c)
          | .ok v s => s.answerCall f strong queue (v % 2 ^ 63))
    | _, _ => .next s) s

/-! ### The memory of the calling plot (spec/19 R322) -/

/-- The places of n bytes that a pointer of the calling slot names, if they are the plot's memory, as the cellar that
polices the plot reaches them. -/
def State.callPlaces (s : State) (f : Flight) (p : Plot) (x : Word) (n : Nat) (use : XUse) : Option (List (Place × Nat)) × State :=
  if !wellFormed p.count x n then (none, s)
  else
    match win x with
    | 0x0 => s.cellarPages p.die p.asid use (pages (bits x 56 0) n (n / 4096 + 2))
    | 0x8 => (if bits x 35 32 = f.core ∧ bits x 31 30 = f.slot then some [(s.placeAt f.tile x, n)] else none, s)
    | 0x9 => (if p.at (bits x 47 32) = f.tile then some [(⟨.spad f.tile, bits x 19 0⟩, n)] else none, s)
    | 0xA => (some [(⟨.spad (p.at (bits x 47 32)), bits x 19 0⟩, n)], s)
    | 0xB => (if use = .write then none else some [(⟨.cask (p.at (bits x 47 32)), bits x 22 22 * 2 ^ 21 + bits x 20 0⟩, n)], s)
    | _ => (none, s)

/-- A block of n bytes that a pointer names, with its places, then what the call does with it. A bank that another access has, and
a cask in its refresh window, are waited for (spec/06 R96, R102, R103). No code of R321 names a block that cannot be read: it
answers as a bad argument does (spec/18 R305; DESIGN CHOICE: log 55). -/
def seeBlock (f : Flight) (p : Plot) (x : Word) (n : Nat) (k : List (Place × Nat) → List Byte → State → Called) (s : State) :
    Called :=
  match s.callPlaces f p x n .read with
  | (none, s) => .err errArgument s
  | (some ps, s) =>
    if !s.allHeld p.num ps || !s.banksFree ps || ps.any (fun a => s.refreshing a.1 a.2) then .wait
    else if s.unreadable ps then .err errArgument s
    else
      let (bs, s) := s.readRanges ps
      k ps bs s

/-- A block that is all that a call reaches: it takes its banks. -/
def withBlock (f : Flight) (p : Plot) (x : Word) (n : Nat) (k : List Byte → State → Called) (s : State) : Called :=
  seeBlock f p x n (fun ps bs s => k bs (s.takeBanks ps)) s

/-- Places that a call writes take its bytes with the banks of all that it reaches: no lease and no other access holds them (spec/06
R96; spec/07 R120). -/
def State.callWrite (s : State) (plot : Nat) (read ps : List (Place × Nat)) (bs : List Byte) : Option State :=
  if !s.allHeld plot ps || ps.any (fun a => s.leased a.1 a.2) || !s.banksFree ps then none
  else some ((s.takeBanks (read ++ ps)).writeRanges ps bs)

/-- Word i of a block. -/
def blockWord (bs : List Byte) (i : Nat) : Word := BitVec.ofNat 64 (leNat ((bs.drop (8 * i)).take 8))

/-- The pointer by which the cellar keeps a scratchpad range: window 0xA for windows 0x8 and 0x9. -/
def State.keptPtr (s : State) (f : Flight) (p : Plot) (x : Word) : Word :=
  let n := p.logical f.tile
  match win x with
  | 0x8 | 0x9 => BitVec.ofNat 64 (10 * 2 ^ 60 + n % 65536 * 2 ^ 32 + (s.placeAt f.tile x).off)
  | _ => x

/-- A handle made for an object of the plot, as the result of a call. -/
def State.made (s : State) (p : Plot) (o : Obj) (extra : Nat) : Called :=
  match p.alloc o with
  | some (h, p) => .ok (extra + h) (s.setPlot p)
  | none => .err errNoResource s

/-! ### Barriers and handles (spec/07 R342; spec/19 R322) -/

/-- Call 0x0001. -/
def createBarrierCall (x : Word) (_ : Flight) (p : Plot) (s : State) : Called :=
  let wide := bits x 63 48 == 1
  if 1 < bits x 63 48 ∨ bits x 31 16 ≠ 0 ∨ bits x 15 0 = 0 ∨ (wide ∧ bits x 47 32 ≠ 0) ∨ p.count ≤ bits x 47 32 then
    .err errArgument s
  else s.made p (.barrier ⟨wide, bits x 47 32, 0, bits x 15 0, 0, 0, none, false, []⟩) 0

def execCreateBarrier (s : State) : Out := onCall (fun n => n == 1) createBarrierCall s

/-- A `bwait` of the slot at hand released by the free of its barrier: DONE 1, FAULT 1, ARRIVED 0. -/
def State.releaseWait (s : State) (phase : Nat) : State :=
  match decode s.slot.ir with
  | some (.bwait d _ _ _ _) =>
    ({ s with slot := { s.slot.write d (BitVec.ofNat 64 (barStatus true true 0 phase)) with snap := [] } }).advance
  | _ => s

/-- Every `bwait` of a plot on a handle released. -/
def State.releaseWaits (s : State) (p : Plot) (h : Nat) : State :=
  ((s.resident p).flatMap slotLocs).foldl (fun s l =>
    match (s.getSlot l).mode, (s.getSlot l).bwait with
    | .running, some (k, ph) => if k = h then s.at l fun s => s.releaseWait ph else s
    | _, _ => s) s

/-- A record of a context waits in `susp.bar` on a handle (spec/02 R22). -/
def Ctx.onBarrier (c : Ctx) (h : Nat) (w : Wait) : Bool :=
  let (kind, param) := c.waitKind w.off
  kind == 4 && param % 2 ^ 32 == h

/-- Every record that waits in `susp.bar` on a handle made ready. -/
def Ctx.releaseRecords (c : Ctx) (h now : Nat) : Ctx :=
  (c.waits.filter (c.onBarrier h)).foldl (fun c w => c.makeReady now w.queue w.index w.off) c

/-- Every record of a plot that waits on a handle made ready, on the tiles where the plot stands. The records of a waiting context
do not change: they become ready when it returns, since the handle is stale then (spec/02 R39; spec/07 R342). -/
def State.releaseRecords (s : State) (p : Plot) (h : Nat) : State :=
  (s.resident p).foldl (fun s t =>
    let now := s.cycles t
    s.onCtx t fun c => c.releaseRecords h now) s

/-- The entry of a handle freed. -/
def Plot.freeEntry (p : Plot) (h : Nat) : Plot :=
  { p with handles := p.handles.map fun e => if e.index = h % 2 ^ 20 then e.free else e }

/-- A vintage that may be freed (spec/19 R330). -/
def Vintage.freeable (v : Vintage) : Bool := (v.state == 1 && v.pend == 0) || v.state == 2

/-- Call 0x0002. A barrier goes in one step with the release of all that waits on it (spec/07 R342). -/
def freeHandleCall (x : Word) (_ : Flight) (p : Plot) (s : State) : Called :=
  let h := handleOf x
  match (if bits x 63 32 = 0 then p.find h else none) with
  | none => .err errArgument s
  | some (.vintage v) => if v.freeable then .ok 0 (s.setPlot (p.freeEntry h)) else .err errBusy s
  | some (.barrier _) => .ok 0 (((s.setPlot (p.freeEntry h)).releaseWaits p h).releaseRecords p h)
  | some _ => .ok 0 (s.setPlot (p.freeEntry h))

def execFreeHandle (s : State) : Out := onCall (fun n => n == 2) freeHandleCall s

/-! ### Copy regions, replica sets and vintages (spec/07 R145, R147; spec/19 R322, R330) -/

/-- A range that a copy region may name: the calling plot's memory. Virtual addresses are translated when used. -/
def State.regionOk (s : State) (f : Flight) (p : Plot) (x : Word) (len : Nat) : Bool :=
  wellFormed p.count x (max 1 len) && (win x == 0 || (s.callPlaces f p x len .read).1.isSome)

/-- Call 0x0003. -/
def createCopyRegionCall (x : Word) (f : Flight) (p : Plot) (s : State) : Called :=
  withBlock f p x 24 (fun bs s =>
    let base := blockWord bs 0
    let len := (blockWord bs 1).toNat
    let w := blockWord bs 2
    if bits w 63 1 ≠ 0 ∨ !s.regionOk f p base len then .err errArgument s
    else s.made p (.region (.ptr (s.keptPtr f p base)) len (bits w 0 0 == 1)) 0) s

def execCreateCopyRegion (s : State) : Out := onCall (fun n => n == 3) createCopyRegionCall s

/-- The device that is home to a range of an address space, if it is another one (spec/19 R324). -/
def State.awayHome (s : State) (asid va n : Nat) : Option Nat :=
  ((s.wafer.sysRanges.find? fun r => r.asid == asid && decide (r.va ≤ va ∧ va + n ≤ r.va + r.len)).map SysRange.home).filter
    fun d => d != s.wafer.deviceId

/-- One member of a replica set: a base pointer in the own plot's windows, or a handle of a granted window. An address in a
system range whose home is another device names a member there (spec/19 R324; log 57). -/
def State.memberOf (s : State) (f : Flight) (p : Plot) (len : Nat) (x : Word) : Option Member × State :=
  if win x = 0xF then
    (if bits x 59 32 ≠ 0 then none
    else
      match p.find (handleOf x) with
      | some (.region (.grant tile off owner _) n _) =>
        if len ≤ n then some ⟨[(⟨.spad tile, off⟩, len)], some (handleOf x, owner), none⟩ else none
      | _ => none, s)
  else if win x = 0xB ∨ x.toNat % 8 ≠ 0 then (none, s)
  else
    match (if win x = 0 ∧ wellFormed p.count x len then s.awayHome p.asid (bits x 56 0) len else none) with
    | some d => (some ⟨[], none, some (d, bits x 56 0)⟩, s)
    | none =>
      match s.callPlaces f p x len .write with
      | (some ps, s) => (if ps.any fun a => a.1.sp == .host then none else some ⟨ps, none, none⟩, s)
      | (none, s) => (none, s)

/-- Members of a list of items; none where one is bad. -/
def State.membersOf (s : State) (f : Flight) (p : Plot) (len : Nat) : List Word → Option (List Member) × State
  | [] => (some [], s)
  | x :: xs =>
    match s.memberOf f p len x with
    | (none, s) => (none, s)
    | (some m, s) =>
      let (ms, s) := State.membersOf s f p len xs
      (ms.map fun ms => m :: ms, s)

/-- Call 0x0004. -/
def createReplicaSetCall (x : Word) (f : Flight) (p : Plot) (s : State) : Called :=
  seeBlock f p x 8 (fun _ bs s =>
    let n := (blockWord bs 0).toNat
    if n = 0 ∨ 16 < n then .err errArgument s
    else
      withBlock f p x (16 + 8 * n) (fun bs s =>
        let len := (blockWord bs 1).toNat
        if len = 0 then .err errArgument s
        else
          match s.membersOf f p len ((List.range n).map fun i => blockWord bs (2 + i)) with
          | (some ms, s) => s.made p (.replica len ms) 0
          | (none, s) => .err errArgument s) s) s

def execCreateReplicaSet (s : State) : Out := onCall (fun n => n == 4) createReplicaSetCall s

/-- The handle of the vintage on a half. -/
def Plot.onHalf (p : Plot) (half : Bool) : Option (Nat × Vintage) :=
  p.handles.findSome? fun e =>
    match e.obj with
    | some (.vintage v) => if v.half = half then some (e.handle, v) else none
    | _ => none

/-- A half takes a new vintage: it holds none, or a sealed one. -/
def Plot.qualifies (p : Plot) (half : Bool) : Bool := (p.onHalf half).all fun x => x.2.state == 2

/-- Call 0x0005. -/
def createVintageCall (x : Word) (_ : Flight) (p : Plot) (s : State) : Called :=
  if x ≠ 0 then .err errArgument s
  else
    match (if p.qualifies false then some false else if p.qualifies true then some true else none) with
    | none => .err errBusy s
    | some half =>
      let p := match p.onHalf half with
        | some (h, _) => p.freeEntry h
        | none => p
      s.made p (.vintage ⟨1, half, 0, 0, 0⟩) (half.toNat * 2 ^ 32)

def execCreateVintage (s : State) : Out := onCall (fun n => n == 5) createVintageCall s

/-! ### Rings, ramp tables and launches (spec/16 R278; spec/19 R322, R326) -/

/-- The lowest ring number that is not taken. -/
def State.ringNum (s : State) : Option Nat := (List.range 256).find? fun n => !(s.wafer.rings.any fun r => r.num == n)

/-- Call 0x0006. A key of another tenant is denied (log 29). -/
def createRingCall (x : Word) (f : Flight) (p : Plot) (s : State) : Called :=
  seeBlock f p x 24 (fun block bs s =>
    let base := blockWord bs 0
    let w := blockWord bs 1
    let k := blockWord bs 2
    let lb := bits w 63 48
    let ln := bits w 47 32
    let size := 64 + 2 ^ ln * 2 ^ lb
    if (win base ≠ 0x9 ∧ win base ≠ 0xA) ∨ base.toNat % 64 ≠ 0 ∨ lb < 6 ∨ 14 < lb ∨ ln < 1 ∨ 16 < ln ∨ bits w 31 16 ≠ 0
        ∨ bits k 63 12 ≠ 0 then .err errArgument s
    else
      match s.callPlaces f p base size .write with
      | (some ((⟨.spad t, off⟩, _) :: _), s) =>
        if !(s.wafer.ueKeys.any fun y => y.2.1 == bits k 11 0 && y.2.2 == p.tenant) then .err errDenied s
        else
          match s.ringNum, s.callWrite p.num block [(⟨.spad t, off⟩, 64)] (List.replicate 64 0) with
          | none, _ => .err errNoResource s
          | some _, none => .wait
          | some n, some s =>
            let r : Ring := ⟨n, p.num, p.tenant, t, off, 2 ^ lb, 2 ^ ln, bits w 15 0, bits k 11 0, 0, 0, 0⟩
            .ok n { s with wafer := { s.wafer with rings := s.wafer.rings ++ [r] } }
      | (_, s) => .err errArgument s) s

def execCreateRing (s : State) : Out := onCall (fun n => n == 6) createRingCall s

/-- Call 0x0007: in force from the next control interval. -/
def writeRampTableCall (x : Word) (_ : Flight) (p : Plot) (s : State) : Called :=
  let all := bits x 63 63 == 1
  let up := bits x 4 0
  let down := bits x 12 8
  if bits x 62 48 ≠ 0 ∨ bits x 31 13 ≠ 0 ∨ bits x 7 5 ≠ 0 ∨ up = 0 ∨ 16 < up ∨ down = 0 ∨ 16 < down
      ∨ p.count ≤ bits x 47 32 ∨ (all ∧ bits x 47 32 ≠ 0) then .err errArgument s
  else
    .ok 0 (s.onPlotCtx p fun c =>
      if all || c.n == bits x 47 32 then { c with ramp := { c.ramp with next := some (up, down) } } else c)

def execWriteRampTable (s : State) : Out := onCall (fun n => n == 7) writeRampTableCall s

/-- Call 0x0008: a launch of source 2, whose tenant must be the calling plot's. It waits for the launches that came before it,
and for the evictions that it begins (spec/14 R256). -/
def launchCallBody (x : Word) (f : Flight) (p : Plot) (s : State) : Called :=
  withBlock f p x Config.launchSize (fun bs s =>
    let k := Config.parseLaunch bs
    let k := { k with source := 2, peer := none, authentic := k.tenant == p.tenant }
    if s.agenda.any fun m => m.i == .launch then .wait
    else if !s.launchReady k then
      if (s.toEvict k).isEmpty then .wait else .again ((s.toEvict k).foldl State.startSwap s)
    else
      let (st, s) := s.launch k
      .ok st s) s

def execLaunchCall (s : State) : Out := onCall (fun n => n == 8) launchCallBody s

/-! ### Attestation and the console (spec/19 R322, R338) -/

/-- Bytes cut or filled with zeros to a length. -/
def padTo (n : Nat) (bs : List Byte) : List Byte := (bs ++ List.replicate n 0).take n

/-- Bytes 0 to 367 of the report. -/
def State.reportBody (s : State) (p : Plot) (nonce : List Byte) : List Byte :=
  leBytes 8 (1 * 2 ^ 48 + s.wafer.grade.cores * 2 ^ 40 + s.wafer.subst % 2 ^ 32)
    ++ padTo 32 (Config.shake256 Config.identityKey) ++ padTo 64 nonce
    ++ padTo 64 s.wafer.mfw ++ padTo 64 s.wafer.mkern ++ padTo 64 s.wafer.mcfg
    ++ padTo 64 p.digest ++ leBytes 8 p.ctxid.toNat

/-- Call 0x0009. -/
def attestCall (x : Word) (f : Flight) (p : Plot) (s : State) : Called :=
  seeBlock f p x 64 (fun block nonce s =>
    match (if wellFormed p.count x 1712 then s.callPlaces f p (plusOff x 64) 1648 .write else (none, s)) with
    | (some ps, s) =>
      let body := s.reportBody p nonce
      match s.callWrite p.num block ps (body ++ padTo 1280 (Config.falconSign body)) with
      | some s => .ok 1648 s
      | none => .wait
    | (none, s) => .err errArgument s) s

def execAttest (s : State) : Out := onCall (fun n => n == 9) attestCall s

/-- Call 0x000A. -/
def consoleWriteCall (x : Word) (f : Flight) (p : Plot) (s : State) : Called :=
  seeBlock f p x 8 (fun _ bs s =>
    let n := (blockWord bs 0).toNat
    if n = 0 ∨ 4096 < n then .err errArgument s
    else
      withBlock f p x (8 + n) (fun bs s =>
        .ok n { s with wafer := { s.wafer with console := s.wafer.console ++ [(p.num, bs.drop 8)] } }) s) s

def execConsoleWrite (s : State) : Out := onCall (fun n => n == 10) consoleWriteCall s

/-! ### Granted windows (spec/18 R296) -/

/-- Call 0x000B. -/
def offerWindowCall (x : Word) (f : Flight) (p : Plot) (s : State) : Called :=
  withBlock f p x 24 (fun bs s =>
    let base := blockWord bs 0
    let len := (blockWord bs 1).toNat
    let w := blockWord bs 2
    if win base ≠ 0xA ∨ base.toNat % 64 ≠ 0 ∨ len % 64 ≠ 0 ∨ len = 0 ∨ !wellFormed p.count base len ∨ bits w 51 1 ≠ 0 then
      .err errArgument s
    else if 65535 < p.nextOffer then .err errNoResource s
    else
      let o : Offer := ⟨p.nextOffer, p.at (bits base 47 32), bits base 19 0, len, bits w 63 52, bits w 0 0 == 1⟩
      .ok p.nextOffer (s.setPlot { p with offers := p.offers ++ [o], nextOffer := p.nextOffer + 1 })) s

def execOfferWindow (s : State) : Out := onCall (fun n => n == 11) offerWindowCall s

/-- Call 0x000C. -/
def acceptWindowCall (x : Word) (_ : Flight) (p : Plot) (s : State) : Called :=
  if bits x 63 48 ≠ 0 ∨ bits x 31 16 ≠ 0 then .err errArgument s
  else
    match (s.plot (bits x 47 32)).bind fun q => (q.offers.find? fun o => o.num == bits x 15 0).map fun o => (q, o) with
    | none => .err errArgument s
    | some (q, o) =>
      if o.grantee ≠ p.tenant then .err errDenied s
      else s.made p (.region (.grant o.tile o.off q.num o.num) o.len o.write) 0

def execAcceptWindow (s : State) : Out := onCall (fun n => n == 12) acceptWindowCall s

/-- Call 0x000D. -/
def withdrawWindowCall (x : Word) (_ : Flight) (p : Plot) (s : State) : Called :=
  if !(p.offers.any fun o => o.num == x.toNat) then .err errArgument s
  else
    .ok 0 ((s.setPlot { p with offers := p.offers.filter fun o => o.num != x.toNat }).freeGrants p.num (some x.toNat))

def execWithdrawWindow (s : State) : Out := onCall (fun n => n == 13) withdrawWindowCall s

/-- What a call of a number comes to. -/
def callOf (num : Nat) (x : Word) (f : Flight) (p : Plot) (s : State) : Called :=
  match num with
  | 1 => createBarrierCall x f p s
  | 2 => freeHandleCall x f p s
  | 3 => createCopyRegionCall x f p s
  | 4 => createReplicaSetCall x f p s
  | 5 => createVintageCall x f p s
  | 6 => createRingCall x f p s
  | 7 => writeRampTableCall x f p s
  | 8 => launchCallBody x f p s
  | 9 => attestCall x f p s
  | 10 => consoleWriteCall x f p s
  | 11 => offerWindowCall x f p s
  | 12 => acceptWindowCall x f p s
  | 13 => withdrawWindowCall x f p s
  | _ => .err errUnknown s

/-- A number that names no call. -/
def execUnknownCall (s : State) : Out := onCall (fun n => n == 0 || decide (13 < n)) (fun _ _ _ s => .err errUnknown s) s

/-! ### Replies (spec/18 R313; spec/02 R33, R35) -/

/-- A reply arrives: into the register of the slot that runs the record, or the carried word of a record that has left;
that for a retired record is discarded. A strong call's reply is an acquire. -/
def execSyscReply (s : State) : Out :=
  onFlight (fun n f s =>
    match f.req, f.st with
    | .call .., .served v flags => .next (if f.arrived && s.home f then s.arriveValue n f v flags else s)
    | _, _ => .next s) s

end Sys2Proof.Machine
end

