-- ==== Sys2Proof/Machine/EventsHost.lean ====
section
/-!
DEFINITION. Sys2Proof/Machine/EventsHost.lean: the ports and the host, jobs, boot, the settings that the firmware and the
kernel write, and the ILLEGAL trap of an undefined word (spec/03 R52; spec/14 R255; spec/19 R317 to R328, R337).
-/
namespace Sys2Proof.Machine

/-! ### Ultra Ethernet (spec/19 R325 to R327) -/

/-- An authentication failure, or a message without a ring, counted at its port. -/
def State.countAuth (s : State) (port : Nat) : State :=
  let n := ((s.wafer.authFail.find? fun x => x.1 == port).map Prod.snd).getD 0
  { s with wafer := { s.wafer with authFail := (port, n + 1) :: s.wafer.authFail.filter fun x => x.1 != port } }

/-- The ring that a message is steered to: by its key and flow id, of the key's tenant. -/
def State.ringFor (s : State) (m : UeMessage) : Option Ring :=
  match s.wafer.ueKeys.find? fun k => k.1 == m.port && k.2.1 == m.key with
  | some (_, _, tenant) => s.wafer.rings.find? fun r => r.tenant == tenant && r.key == m.key && r.flow == m.flow
  | none => none

/-- A ring replaced under its number. -/
def State.setRing (s : State) (r : Ring) : State :=
  { s with wafer := { s.wafer with rings := s.wafer.rings.map fun q => if q.num = r.num then r else q } }

/-- A word of a ring's header written by the port as `stf` writes it. -/
def State.ringWord (s : State) (r : Ring) (off x : Nat) : State := s.writeAt ⟨.spad r.tile, r.off + off⟩ (leBytes 8 x)

/-- TAIL of a ring. -/
def Ring.tailAt (r : Ring) : Place := ⟨.spad r.tile, r.off + 8⟩

/-- A ring takes no more messages: it is full, or its TAIL cannot be read (spec/18 R305; DESIGN CHOICE: log 55). -/
def State.ringFull (s : State) (r : Ring) : Bool :=
  s.unreadable [(r.tailAt, 8)] || decide (r.n ≤ (r.head + 2 ^ 64 - leNat (s.readAt r.tailAt 8).1) % 2 ^ 64)

/-- The slot of a ring that its next message takes. -/
def Ring.slotAt (r : Ring) : Place := ⟨.spad r.tile, r.off + 64 + r.head % r.n * r.slotb⟩

/-- A message is longer than a slot of its ring takes. -/
def Ring.oversize (r : Ring) (m : UeMessage) : Bool := decide (r.slotb - 8 < m.data.length)

/-- The lines that a message reaches at their banks: the header of its ring, and its slot if it gets one (spec/06 R96). -/
def State.ringPlaces (s : State) (r : Ring) (m : UeMessage) : List (Place × Nat) :=
  ((⟨.spad r.tile, r.off⟩ : Place), 32) ::
    if r.oversize m || s.ringFull r then [] else [(r.slotAt, 8 + m.data.length)]

/-- A message at its ring: TAIL is read at its bank. -/
def State.ringArrival (s : State) (r : Ring) (m : UeMessage) : State :=
  let full := s.ringFull r
  let s := s.takeBanks (s.ringPlaces r m)
  if r.oversize m then
    let n := (r.oversz + 1) % 2 ^ 64
    (s.ringWord r 24 n).setRing { r with oversz := n }
  else
    let (_, s) := s.readAt r.tailAt 8
    if full then
      let n := (r.drops + 1) % 2 ^ 64
      (s.ringWord r 16 n).setRing { r with drops := n }
    else
      let s := s.writeAt r.slotAt (leBytes 8 (m.key % 4096 * 2 ^ 52 + m.data.length % 65536) ++ m.data)
      let n := (r.head + 1) % 2 ^ 64
      (s.ringWord r 0 n).setRing { r with head := n }

/-- The port can act on a ring for a message: its tile holds the plot, no lease covers the ring, and the banks are free. -/
def State.ringOpen (s : State) (m : UeMessage) (r : Ring) : Bool :=
  s.holds r.tile r.plot && !(s.getTile r.tile).ctx.leased r.off (64 + r.n * r.slotb) && s.banksFree (s.ringPlaces r m)

/-- The message can be acted on now; the part has eight ports. -/
def State.ueReady (s : State) (m : UeMessage) : Bool := decide (8 ≤ m.port) || !m.authentic || (s.ringFor m).all (s.ringOpen m)

def execUeMessage (s : State) : Out :=
  match s.arg with
  | .ue m =>
    .next (if 8 ≤ m.port then s
      else if !m.authentic then s.countAuth m.port
      else
        match s.ringFor m with
        | none => s.countAuth m.port
        | some r => if s.ringOpen m r then s.ringArrival r m else s)
  | _ => .next s

/-! ### Storage (spec/06 R113, R115; spec/19 R328) -/

/-- What a translation of a DMA's range comes to: its places, a fault, or a denial. -/
inductive DmaWalk where
  | ok (ps : List (Place × Nat))
  | fault (f : FaultOf)
  | denied

/-- The translation cache of a storage port. -/
def State.portTlb (s : State) (port : Nat) : List Tlb := ((s.wafer.ioTlb.find? fun x => x.1 == port).map Prod.snd).getD []

/-- The range translated page by page through the port's cache; the first page that fails decides. The die's fault record
names unit 5 (spec/06 R110, R113). -/
def State.walkDma (s : State) (port asid : Nat) (write : Bool) : List (Nat × Nat) → DmaWalk × State
  | [] => (.ok [], s)
  | (a, m) :: ps =>
    let (o, tlb, s) := s.viaCache (s.portTlb port) asid a (if write then .write else .read)
    let s := { s with wafer := { s.wafer with ioTlb := (port, tlb) :: s.wafer.ioTlb.filter fun x => x.1 != port } }
    match o with
    | .ok e =>
      match State.walkDma s port asid write ps with
      | (.ok qs, s) => (.ok ((e.place a, m) :: qs), s)
      | o => o
    | .denied _ => (.denied, s)
    | o =>
      match o.fault? 5 write a with
      | some f => (.fault f, s)
      | none => (.denied, s)

/-- A DMA made: its bytes moved, or held for a fault answer, or aborted. The cellar of die 0 serves the storage ports
(log 30). One that reads bytes that cannot be read is aborted (spec/18 R305; DESIGN CHOICE: log 55). -/
def State.dma (s : State) (d : DmaRequest) : State :=
  let n := if d.write then d.data.length else d.len
  if !(s.wafer.ioQueues.any fun q =>
      q.1 == d.port && q.2.1 == d.asid && decide (q.2.2.1 ≤ d.va ∧ d.va + n ≤ q.2.2.1 + q.2.2.2)) then s.report (.dma false [])
  else
    match s.walkDma d.port d.asid d.write (pages d.va n (n / 4096 + 2)) with
    | (.denied, s) => s.report (.dma false [])
    | (.fault f, s) =>
      let (b, s) := s.sendBatch 0 d.asid (BitVec.ofNat 64 d.port) [f]
      ({ s with wafer := { s.wafer with heldDma := s.wafer.heldDma ++ [(⟨b, 0, d, none⟩ : HeldDma)] } } : State).report (.dmaFault d.port f.va)
    | (.ok ps, s) =>
      if d.write then (s.writeRanges ps d.data).report (.dma true [])
      else if s.unreadable ps then s.report (.dma false [])
      else
        let (bs, s) := s.readRanges ps
        s.report (.dma true bs)

/-- A device's DMA at one of the four root ports, or one that was held and has its answer. -/
def execStorageDma (s : State) : Out :=
  match s.arg with
  | .dma d => .next (if d.port < 4 then s.dma d else s)
  | .port port =>
    .next (match s.wafer.heldDma.findIdx? fun h => h.dma.port == port && h.answer.isSome with
      | some i =>
        match s.wafer.heldDma[i]? with
        | some h =>
          let s := { s with wafer := { s.wafer with heldDma := s.wafer.heldDma.eraseIdx i } }
          if h.answer = some true then s.dma h.dma else s.report (.dma false [])
        | none => s
      | none => s)
  | _ => .next s

/-! ### The host (spec/19 R317, R318) -/

/-- The features that a function offers: VIRTIO_F_VERSION_1, with VIRTIO_F_RING_PACKED, NET_F_MQ, NET_F_MTU and checksum
offload in both directions for the network; VIRTIO_F_RING_PACKED and stream sockets for the sockets; CONSOLE_F_MULTIPORT for
the console. Their bit numbers are those of VIRTIO 1.2 (PRESUMED: log 9). -/
def virtioFeatures (fn : Nat) : Nat :=
  match fn with
  | 0 => 2 ^ 32 + 2 ^ 34 + 2 ^ 22 + 2 ^ 3 + 2 ^ 1 + 2 ^ 0
  | 1 => 2 ^ 32 + 2 ^ 34 + 2 ^ 0
  | _ => 2 ^ 32 + 2 ^ 1

/-- What a function's register reads as where the specification gives it: 16 queue pairs and an MTU of 9,216 bytes for the
network, 8 ports for the console. -/
def virtioGiven (fn : Nat) (r : HostReg) : Option Nat :=
  match r, fn with
  | .features, _ => some (virtioFeatures fn)
  | .maxPairs, 0 => some 16
  | .mtu, 0 => some 9216
  | .maxPorts, 2 => some 8
  | _, _ => none

/-- A device's DMA to host memory, which is kind 1 memory, and the MSI-X interrupt of its function (spec/06 R105). -/
def State.hostDma (s : State) (d : HostDma) : State :=
  let s := if d.write then s.writeAt ⟨.host, d.addr⟩ d.data
    else s.report (.dma true (Memory.readN s.wafer.host d.addr d.len))
  if d.interrupt then s.report (.msix d.endpoint d.fn) else s

/-- A host access: served by a virtio function's registers, of which the VIRTIO standard describes those that the
specification does not (log 9), or answered Unsupported Request. Or DMA of a function. -/
def execHostAccess (s : State) : Out :=
  match s.arg with
  | .host a =>
    .next (if a.endpoint < 2 ∧ a.fn < 3 then
      match virtioGiven a.fn a.reg, a.reg with
      | some v, _ => s.report (.host (some (if a.write then 0 else BitVec.ofNat 64 v)))
      | none, .offset o =>
        if !Config.virtioHas a.fn o then s.report (.host none)
        else if a.write then ({ s with wafer := { s.wafer with hostWrites := s.wafer.hostWrites ++ [a] } }).report (.host (some 0))
        else ({ s with free := s.free + 1 }).report (.host (some (Config.virtioRead a.endpoint a.fn o s.free)))
      | none, _ => s.report (.host none)
    else s.report (.host none))
  | .hostDma d => .next (if d.endpoint < 2 ∧ d.fn < 3 then s.hostDma d else s)
  | _ => .next s

/-- A job's signature verifies under an enrolled key of its tenant, and every layer has the digest its manifest names. -/
def State.jobOk (s : State) (j : Job) : Bool :=
  s.wafer.boot == .running && s.wafer.enrolled.contains (j.tenant, j.key)
    && Config.falconVerify j.key (Config.shake256 j.manifest) j.signature && j.layers.map Config.shake256 == j.digests

def execJobSubmission (s : State) : Out :=
  match s.arg with
  | .job j =>
    .next (if s.jobOk j then ({ s with wafer := { s.wafer with jobs := s.wafer.jobs ++ [j] } }).report (.job true)
      else s.report (.job false))
  | _ => .next s

/-! ### Boot (spec/19 R337) -/

/-- The repair map of a tile whose fuses and tests name bad physical cores: its logical cores in order on those that work. A
tile with too few of them is lost, unless its column is shifted (spec/14 R249, R252; spec/19 R337). -/
def Tile.repaired (x : Tile) (bad : List Nat) (cores : Nat) (shifted : Bool) : Tile :=
  let sound := (List.range 9).filter fun k => !bad.contains k
  if shifted then x
  else { x with
    repair := Vector.ofFn fun k : Fin 8 => sound[k.val]?.getD k.val
    deadCores := bad
    lost := decide (sound.length < cores) }

/-- The repair maps and route tables that Pyunsin writes (spec/14 R249, R252; spec/18 R311; spec/19 R337). -/
def State.bootRepairs (s : State) (b : BootInput) : State :=
  let s := b.shifted.foldl (fun s x => s.shift x.1 x.2) s
  let s := (b.badCores.map Prod.fst).eraseDups.foldl (fun s t =>
    let bad := (b.badCores.filter fun x => x.1 == t).map Prod.snd
    s.onTile t fun x => x.repaired bad b.grade.cores (b.shifted.contains (dieOf t, t % 176))) s
  let s := b.badBanks.foldl (fun s t => s.spareBankFor t 0) s
  let s := b.badLanes.foldl (fun s x => s.spareLaneFor x.1 x.2) s
  let s := b.badPorts.foldl State.sparePortFor s
  b.badCellarCores.foldl (fun s x => s.spareCellarCoreFor x.1 x.2) s

/-- The boot ROM verifies Pyunsin, which tests and repairs the wafer, verifies Rolruica and starts the cellar cores. -/
def State.bootWith (s : State) (b : BootInput) : State :=
  let d := Config.shake256 b.pyunsin
  let k := Config.shake256 b.rolruica
  if !Config.falconVerify Config.bootKey d b.pyunsinSig then
    ({ s with wafer := { s.wafer with boot := .failed } }).report .bootFailed
  else
    let s := s.bootRepairs b
    let s := { s with wafer := { s.wafer with
      grade := b.grade, subst := b.substitutions, mfw := d, mcfg := Config.shake256 b.configData } }
    if !Config.falconVerify Config.bootKey k b.rolruicaSig then
      ({ s with wafer := { s.wafer with boot := .failed } }).report .bootFailed
    else { s with wafer := { s.wafer with boot := .running, mkern := k } }

def execModuleBoot (s : State) : Out :=
  match s.arg with
  | .boot b => .next (if s.wafer.boot = .inReset then s.bootWith b else s)
  | _ => .next s

/-! ### What Pyunsin and Rolruica write (spec/02 R26; spec/14 R255; spec/16 R269) -/

/-- A bind record written; one that is valid with no core to run it is not written (spec/02 R26). -/
def execBindRecordWrite (s : State) : Out :=
  match s.arg with
  | .bind t q w0 w1 =>
    let w0 := w0 &&& 0x80FFF8FF000FFFC0
    let w1 := w1 &&& 0xFFFFFFFF
    let b := Bind.of (w0, w1)
    .next (if q < 16 ∧ !(b.valid && b.mask % 2 ^ s.wafer.grade.cores == 0) then
      s.onTile t fun x =>
        { x with
          reverse := x.reverse && !(b.valid && b.prio == 3)
          ctx := { x.ctx with binds := vset x.ctx.binds q (w0, w1) } }
    else s)
  | _ => .next s

def execLaunchTableWrite (s : State) : Out :=
  match s.arg with
  | .launchTable n w0 w1 =>
    .next (if n < 4096 then
      { s with wafer := { s.wafer with launchTable :=
        (s.wafer.launchTable.filter fun e => e.1 != n) ++ [(n, w0 &&& 0xF80000000000FFFF, w1 &&& 0xFFFFFFFFFFFF0000)] } }
    else s)
  | _ => .next s

/-- A setting that has no row of its own. What it sets or measures of a tile or a die belongs to the interval that has begun
by now (spec/16 R273). -/
def State.setting (s : State) (g : Setting) : State :=
  let w := s.wafer
  match g with
  | .reserves t a b c d =>
    if a + b + c + d ≤ 16 then (s.entered t).onTile t fun x => { x with reserves := #v[a, b, c, d] } else s
  | .budgets t e i eb ib => (s.entered t).onTile t fun x => { x with enom := e, inom := i, eboost := eb, iboost := ib }
  | .dieLimit d n => s.diesEntered.onDie d fun x => { x with limit := n }
  | .tileLimit t n => (s.entered t).onTile t fun x => { x with limit := n }
  | .railPeak d n => s.diesEntered.onDie d fun x => { x with peak := max x.peak n }
  | .sensor t n => (s.entered t).onTile t fun x => { x with sensor := max x.sensor n }
  | .stagger p o =>
    if p = 0 ∨ (p % 8 = 0 ∧ p ≤ 65536 ∧ o < p) then { s with wafer := { w with staggerP := p, staggerO := o } } else s
  | .deviceId n => { s with wafer := { w with deviceId := n % 4096 } }
  | .ueKey port n tenant =>
    if port < 8 ∧ n < 4096 then
      { s with wafer := { w with ueKeys := (w.ueKeys.filter fun k => !(k.1 == port && k.2.1 == n)) ++ [(port, n, tenant)] } }
    else s
  | .launchPeer t d => { s with wafer := { w with launchPeers := w.launchPeers ++ [(t, d)] } }
  | .enrolKey t k => { s with wafer := { w with enrolled := w.enrolled ++ [(t, k)] } }
  | .systemRange a va len home =>
    if (w.sysRanges.filter fun r => r.asid == a).length < 64 then
      { s with wafer := { w with sysRanges := w.sysRanges ++ [⟨a, va, len, home⟩] } }
    else s
  | .ioQueues port a va len => if port < 4 then { s with wafer := { w with ioQueues := w.ioQueues ++ [(port, a, va, len)] } } else s
  | .breakpoint t c n x =>
    s.onCtx t fun y => { y with bps := vset y.bps c (vset (vget y.bps c (Vector.replicate 4 0)) n (x &&& 0x81FFFFFFFFFFFFFC)) }
  | .watchpoint t c n x0 x1 =>
    s.onCtx t fun y =>
      { y with wps := vset y.wps c (vset (vget y.wps c (Vector.replicate 4 (0, 0))) n (x0, x1 &&& 0x1DF)) }
  | .pageEntry pa e => s.setPte (pa / 8 * 8) e.toNat
  | .tableRoot a pa => { s with wafer := { w with roots := (w.roots.filter fun r => r.1 != a) ++ [(a, pa / 4096 * 4096)] } }

def execManagementSettingWrite (s : State) : Out :=
  match s.arg with
  | .setting g => .next (s.setting g)
  | _ => .next s

/-! ### Undefined words (spec/03 R52) -/

/-- A word that no encoding defines traps ILLEGAL, with the word in TRAPV. -/
def execIllegalWord (s : State) : Out := illegal s

end Sys2Proof.Machine
end

