-- ==== Sys2Proof/Machine/Fetch.lean ====
section
/-!
DEFINITION. Sys2Proof/Machine/Fetch.lean: fetching an instruction: the loop buffer, or translation, the instruction line
and the stored word; then address breakpoints (spec/03 R50, R54 items 1 and 2; spec/04 R78, R86; spec/06 R109; spec/18
R302, R303, R305).
-/
namespace Sys2Proof.Machine

/-- What the fetch at the PC of the slot at hand comes to: the slot halts or waits, or it runs an instruction. -/
inductive Fetched where
  | stop (s : State)
  | run (i : Instr) (s : State)

/-- An enabled address breakpoint of the core at an address (spec/18 R302). -/
def State.breaks (s : State) (pc : Word) : Bool :=
  !s.slot.skipBp && (vget s.tile.ctx.bps s.cur.core (Vector.replicate 4 0)).toList.any fun b =>
    bits b 63 63 == 1 && bits b 56 2 == bits pc 56 2

/-- The word at a place. -/
def State.wordAt (s : State) (p : Place) : Insn := BitVec.ofNat 32 (leNat (s.readPlace p 4))

/-- The slot at hand with the word that it runs. -/
def State.withIr (s : State) (w : Insn) : State := { s with slot := { s.slot with ir := w } }

/-- The word that the loop buffer holds for an address (spec/03 R50, spec/04 R78). -/
def Slot.buffered (x : Slot) (pc : Word) : Option Insn := (x.buf.find? fun b => b.1 == pc).map Prod.snd

/-- The first pass through the body of an active level fills the loop buffer (spec/04 R78). -/
def Slot.fillBuf (x : Slot) (w : Insn) : Slot :=
  if x.loops.any fun l => l.has x.pc then { x with buf := x.buf ++ [(x.pc, w)] } else x

/-- A word that has been fetched: an address breakpoint comes first, then the instruction that it encodes runs. -/
def State.runWord (s : State) (w : Insn) : Fetched :=
  if s.breaks s.slot.pc then .stop (s.takeTrapWith .breakpoint s.slot.pc w true)
  else .run (decodeOrIllegal w) (s.withIr w)

/-- FETCHING at the PC of the slot at hand. A word of the loop buffer needs no fetch. A denied or failed fetch reports no
word; a missing translation comes before a refusal, and that before an error of the stored word (spec/03 R54 item 1). -/
def State.fetch (s : State) : Fetched :=
  let pc := s.slot.pc
  let va := bits pc 56 0
  match s.slot.buffered pc with
  | some w => s.runWord w
  | none =>
    match lookupIn s.slotTlb (s.asid s.cur.tile) va with
    | none => .stop (s.onCur (Slot.hold · s.now) |>.miss s.cur.tile (.slot s.cur.core s.cur.slot) va .fetch)
    | some e =>
      if !e.x then .stop (s.takeTrapWith .protection pc 0 false)
      else if !s.lineIn s.cur.tile pc then .stop (s.onCur (Slot.hold · s.now))
      else if s.unreadable [(e.place va, 4)] then .stop (s.takeTrapWith .ecc pc 0 false)
      else
        let w := s.wordAt (e.place va)
        (s.onCur fun x => x.fillBuf w).runWord w

end Sys2Proof.Machine
end

