-- ==== Sys2Proof/Machine/Schedule.lean ====
section
/-!
DEFINITION. Sys2Proof/Machine/Schedule.lean: which step comes next: a move from outside, a step that the part makes of
itself, a slot's turn, or the passing of time (spec/02 R31; spec/17 R288; spec/18 R295; log 31).
-/
namespace Sys2Proof.Machine

/-! ### Moves from outside -/

/-- The slots that a move is aimed at. -/
def State.targets (s : State) (m : Move) : List SlotLoc :=
  match m.loc, m.arg with
  | some l, _ => [l]
  | none, .slot l | none, .read l _ | none, .write l _ _ _ | none, .step (.slot l) | none, .scope (.slot l) => [l]
  | none, .step (.stage p st) => s.scopeSlots (.stage p st)
  | _, _ => []

/-- Some other slot of the plot of a slot executes one stepped instruction. -/
def State.otherSteps (s : State) (l : SlotLoc) : Bool :=
  (((s.plotOf l.tile).map s.resident).getD []).any fun t => (slotLocs t).any fun k => k != l && (s.getSlot k).stepping

/-- A record of a queue stands in a slot that waits for an answer, or that executes a stepped instruction. -/
def State.queueWaits (s : State) (t q : Nat) : Bool :=
  (slotLocs t).any fun l =>
    (s.getSlot l).mode != .free && (s.getSlot l).run.queue == q && ((s.getSlot l).mode == .sendWait || (s.getSlot l).stepping)

/-- The scope that a `resume` of the cellar names, if it names one. -/
def State.resumeScope (s : State) (l : SlotLoc) (a : Reg) : Option FreezeScope :=
  (s.plotOf l.tile).bind fun p => haltTarget s.wafer.grade p ((s.getSlot l).s a)

/-- A move can be made now. -/
def State.mayMove (s : State) (m : Move) : Bool :=
  ((s.targets m).all fun l => !(s.getSlot l).stepping) &&
    match m.i, m.arg with
    | .resume _ a _, _ => (m.loc.bind fun l => s.resumeScope l a).all s.thawReady
    | .thaw, .scope sc => s.thawReady sc
    | .cellarResume, .slot l => !s.recordHeld l
    | .cellarStep, .step (.slot l) => !s.recordHeld l
    | .cellarStep, .scope (.slot l) => !s.recordHeld l && !s.otherSteps l
    | .taskKill, .queue t q => !s.queueWaits t q
    | .translationInvalidation, .inv i => !s.translatedOut i
    | .ueMessage, .ue m => s.ueReady m
    | .atomicAtHome, .peer r => !(peerAmo r && s.portHeld (some r.port))
    | .launch, .launch k => s.launchReady k || !(s.toEvict k).isEmpty
    | _, _ => true

/-- A move is a launch. -/
def Move.isLaunch (m : Move) : Bool := m.i == .launch

/-- The first move that can be made, such that none before it is aimed at a slot of its own; launches are served in their order
(spec/14 R256; spec/17 R288). -/
def State.nextMove (s : State) : List Move → List Move → Option (Move × List Move)
  | _, [] => none
  | seen, m :: ms =>
    if s.mayMove m && !(seen.any fun n => (n.isLaunch && m.isLaunch) || (s.targets n).any fun l => (s.targets m).contains l) then some (m, ms)
    else (State.nextMove s (m :: seen) ms).map fun x => (x.1, m :: x.2)

/-! ### Accesses in flight -/

/-- A step of the part, with what it is about. -/
abbrev Auto := Option (Instr × EvArg)

/-- A step if a test says so. -/
def when (b : Bool) (i : Instr) (a : EvArg) : Auto := if b then some (i, a) else none

/-- A full/empty request would have to be parked, and its bank's queue of 32 is full (spec/07 R124). -/
def State.parkFull (s : State) (f : Flight) (op : FeOp) (p : Place) : Bool :=
  match p.sp with
  | .spad t =>
    !op.ok ((s.getTile t).ctx.full p.off) && decide (32 ≤ (s.flights.filter fun g =>
      match g.st, g.req with
      | .parked _, .fe _ q _ => g.plot == f.plot && q.sp == p.sp && bankOf q.off == bankOf p.off
      | _, _ => false).length)
  | _ => false

/-- The bank that an access lands on does not take it for now. -/
def State.blocked (s : State) (f : Flight) : Bool :=
  !s.present f ||
    match f.req with
    | .write ps => ps.any fun a => s.heldOff f a.1 a.2.length
    | .member p _ _ => s.heldOff f p 8
    | .chunk _ _ ps => ps.any fun a => s.heldOff f a.1 a.2.length
    | .fe op p _ => (op == .ldfe || op == .ste || op == .stf || op == .clr) && s.heldOff f p 8 || s.parkFull f op p
    | .amo _ ty _ p _ _ => !s.placeHeld p f.plot || s.heldOff f p ty.size
    | .red _ ty p _ => s.heldOff f p ty.size
    | .deposit p data _ => s.heldOff f p data.length
    | .msg .. => s.bufferHeld f
    | .vbind => (s.bindAt f).isNone
    | _ => false

/-- The step that executes a call by its number. -/
def callInstr (num : Nat) : Instr :=
  match num with
  | 1 => .createBarrier | 2 => .freeHandle | 3 => .createCopyRegion | 4 => .createReplicaSet | 5 => .createVintage
  | 6 => .createRing | 7 => .writeRampTable | 8 => .launchCall | 9 => .attest | 10 => .consoleWrite
  | 11 => .offerWindow | 12 => .acceptWindow | 13 => .withdrawWindow
  | _ => .unknownCall

/-- A call can be executed now. -/
def State.callReady (s : State) (f : Flight) : Auto :=
  match f.req, s.plot f.plot with
  | .call num strong arg q k, some p =>
    if p.callTurn f strong q k then
      match callOf num arg f p s with
      | .wait => none
      | _ => some (callInstr num, .none)
    else none
  | _, _ => none

/-- What becomes next of an access that has been applied where it landed. -/
def State.afterService (s : State) (n : Nat) (f : Flight) : Auto :=
  if s.clk f.tile < f.due then none
  else if f.posted then when (f.st != .bad || f.pkt.unit != 0 || s.home f) .accessAcknowledge (.flight n)
  else if !s.home f then none
  else
    match f.req, f.st with
    | .msg .., _ => some (.sendAnswer, .flight n)
    | .call .., _ => some (.syscReply, .flight n)
    | .fetch .., _ => none
    | .arrive .., .refused _ => when ((s.runner f).all fun l => (s.getSlot l).atBoundary) .barrierRefusal (.flight n)
    | _, _ => some (.lateDelivery, .flight n)

/-- What an access that stands where it lands does next. -/
def State.onLanding (s : State) (n : Nat) (f : Flight) : Auto :=
  match f.req with
  | .read .. | .write .. | .fe .. | .member .. | .chunk .. | .fetch .. | .deposit .. | .away .. =>
    if s.present f && s.lacksLine f then some (.instructionLineFill, .flight n)
    else when (!s.present f || s.hasTurn f) .bankAccess (.flight n)
  | .amo _ ty sc p _ _ =>
    when (s.blocked f || (s.banksFree [(p, ty.size)] && !s.waitsAtPort f sc) || (sc == .plot && p.tile f.tile != f.pkt.to_))
      .atomicAtHome (.flight n)
  | .red .. => when (s.blocked f || s.banksFree f.req.ranges) .reductionContribution (.flight n)
  | .spawn .. => when (!s.present f || s.banksFree (s.recordLine f)) .spawnRequest (.flight n)
  | .wake .. => when (!s.present f || s.banksFree (s.recordLine f)) .wakeRequest (.flight n)
  | .vbind => some (.lateDelivery, .flight n)
  | .msg .. =>
    let left := s.msgLines f
    when (s.blocked f || left.isEmpty || left.any s.lineFree) .messageArrival (.flight n)
  | .arrive _ _ _ engine => when (!engine || s.present f) .barrierArrival (.flight n)
  | .bini .. | .btst .. => some (.barrierArrival, .flight n)
  | .rack h =>
    let waits := (((s.plot f.plot).bind fun p => p.find h).bind Obj.vintage?).any fun v => v.pend != 0
    when (!waits && (s.plot f.plot).isSome) .lateDelivery (.flight n)
  | .call .. => (s.callReady f).map fun x => (x.1, .flight n)
  | .reply => none

/-- The hop of a packet by its number, along x first. -/
def State.hopStep (s : State) (n : Nat) (p : Packet) : Auto :=
  if (s.hopTo p false).isSome then some (.packetHop, .hop n false)
  else when (s.hopTo p true).isSome .packetHop (.hop n true)

/-- What becomes next of an access in flight. -/
def State.flightStep (s : State) (n : Nat) (f : Flight) : Auto :=
  if s.refusable f then some (.boundaryRefusal, .flight n)
  else if s.canHop f then s.hopStep n f.pkt
  else
    match f.st with
    | .going => if s.landed n f then s.onLanding n f else none
    | .retry => when (f.arrived && !s.blocked f && s.inOrder n f) .accessRetry (.flight n)
    | .parked _ => none
    | _ => if f.arrived then s.afterService n f else none

/-- The barrier that an access reaches, by its plot and its handle, and its place in the order in which a cycle's accesses reach
it: counts before arrivals, cores by logical tile, core and slot, then engines by tile (spec/07 R139). -/
def State.barKey (s : State) (f : Flight) : Option ((Nat × Nat) × Nat) :=
  let k := (s.getTile f.tile).ctx.n * 32 + slotIx ⟨f.tile, f.core, f.slot⟩
  match f.st, f.req with
  | .going, .bini h _ => some ((f.plot, h), k)
  | .going, .arrive h _ _ false | .going, .btst h _ => some ((f.plot, h), 2 ^ 24 + k)
  | .going, .arrive h _ _ true => some ((f.plot, h), 2 ^ 25 + k)
  | _, _ => none

/-- What becomes next of a translation miss, by its place in their list. -/
def State.missStep (s : State) (n : Nat) (x : Xlate) : Auto :=
  if s.missHops x then s.hopStep (s.flights.length + n) x.pkt
  else if x.pkt.at_ != x.pkt.to_ then none
  else if x.out.isNone then some (.translationMiss, .flight n)
  else some (.translationFill, .flight n)

/-- A step that a packet or an access competes for. -/
structure Claim where
  pkt : Packet
  /-- the barrier that it reaches, and its place in the order there -/
  bar : Option ((Nat × Nat) × Nat)
  i : Instr
  arg : EvArg

/-- The first of some claims that a comparison picks. -/
def firstOf (wins : Claim → Claim → Bool) (cs : List Claim) : Option Claim :=
  cs.foldl (fun b c =>
    match b with
    | some x => if wins x c then some x else some c
    | none => some c) none

/-- The claims at the barrier that a claim reaches, itself among them. -/
def Claim.peers (x : Claim) (cs : List Claim) : List Claim :=
  match x.bar with
  | some (b, _) => cs.filter fun c => c.bar.any fun y => y.1 == b
  | none => [x]

/-- A claim's place at its barrier is not after another's. -/
def Claim.before (a b : Claim) : Bool := decide ((a.bar.map Prod.snd).getD 0 ≤ (b.bar.map Prod.snd).getD 0)

/-- The claim that wins: the oldest (spec/18 R295); where it is one at a barrier, the first of those there by R139. -/
def State.winner (s : State) (cs : List Claim) : Option Claim :=
  (firstOf (fun a b => a.pkt.wins s.stampTime b.pkt) cs).bind fun x => firstOf Claim.before (x.peers cs)

/-- The claims of accesses, by their places in the list of accesses in flight. -/
def State.flightClaims (s : State) : Nat → List Flight → List Claim
  | _, [] => []
  | n, f :: fs => ((s.flightStep n f).map fun x => ⟨f.pkt, s.barKey f, x.1, x.2⟩).toList ++ State.flightClaims s (n + 1) fs

/-- The claims of translation misses. -/
def State.missClaims (s : State) : Nat → List Xlate → List Claim
  | _, [] => []
  | n, x :: xs => ((s.missStep n x).map fun y => ⟨x.pkt, none, y.1, y.2⟩).toList ++ State.missClaims s (n + 1) xs

/-- The array step of a tile that reads lines of a cask has some line's turn: the step competes for the bank with the time of
its grant (spec/06 R102; spec/13 R245). -/
def State.caskClaim (s : State) (t : Nat) : Option Claim :=
  let x := (s.getTile t).ctx
  (x.arrayArb.running.bind x.mxHead).bind fun c =>
    if (s.caskTurn t c).1.isEmpty || (s.matrixStepEnd t .array).isNone then none
    else some ⟨{ s.packet t t 3 1 2 with ts := c.ts }, none, .matrixStepEnd, .path t .array⟩

/-- The claim that wins among all. -/
def State.claimed (s : State) : Auto :=
  (s.winner (s.flightClaims 0 s.flights ++ s.missClaims 0 s.wafer.xlates ++ s.tileList.filterMap s.caskClaim)).map fun c => (c.i, c.arg)

/-! ### Tiles and plots -/

/-- The cores of a tile issue: it works, no swap has begun, and no margin event halts its plot (spec/16 R268; spec/18 R306,
R308, R310). -/
def State.issues (s : State) (t : Nat) : Bool :=
  let x := s.getTile t
  !x.lost && !x.inReset && !x.swapping && (s.plotOf t).any fun p => p.margin.isNone

/-- What a slot waits for. -/
def State.slotStep (s : State) (l : SlotLoc) : Auto :=
  let x := s.getSlot l
  if x.mode = .running then
    if x.overStalled (s.clk l.tile) then some (.stallLimitExpiry, .slot l)
    else if x.idleTo.any (fun t => decide (t ≤ s.wafer.time)) then some (.idleTimeReached, .slot l)
    else when (s.codeHere l && !s.lineHere l) .instructionLineFill (.slot l)
  else none

/-- What a waiting record does next. -/
def State.waitStep (s : State) (t : Nat) (w : Wait) : Auto :=
  if s.timeHolds t w then some (.timeWaitExpiry, .record t w.off)
  else when (s.waitHolds t w || (s.takesNotice t w).isSome) .waitConditionMet (.record t w.off)

/-- What an engine of a tile does next. -/
def State.engineStep (s : State) (t : Nat) : Auto :=
  let c := (s.getTile t).ctx
  let copy : Auto :=
    if c.ceq.isEmpty then none
    else if (s.engineRefused t).isSome then some (.engineRefusal, .tile t)
    else if (s.copyStep t).isSome then some (.copyChunk, .tile t)
    else when (s.copyEnd t).isSome .copyCompletion (.tile t)
  let decant : Auto :=
    if c.deq.isEmpty then none
    else if (s.decantStep t).isSome then some (.decantChunk, .tile t)
    else when (s.decantEnd t).isSome .decantCompletion (.tile t)
  copy <|> decant

/-- What a matrix unit does next: of one cycle, its level first, then what ends, then what is granted. -/
def State.matrixNext (s : State) (t : Nat) : Auto :=
  let c := (s.getTile t).ctx
  if c.mq.toList.all (fun q => q.isEmpty) && !c.ramp.tail then none
  else
    when (s.rampPeriod t).isSome .rampPeriod (.tile t)
      <|> when (s.tailPeriod t).isSome .skimTailPeriod (.tile t)
      <|> ([MxPath.array, .transfer].findSome? fun p => when (s.matrixStepEnd t p).isSome .matrixStepEnd (.path t p))
      <|> ((List.range 8).findSome? fun k => when (s.mxEnd t k).isSome .matrixCommandCompletion (.core t k))
      <|> ([MxPath.array, .transfer].findSome? fun p => when (s.matrixGrant t p).isSome .matrixGrant (.path t p))

/-- What a tile that holds a plot does next. -/
def State.tileStep (s : State) (t : Nat) : Auto :=
  let x := s.getTile t
  if s.intervalDue t then some (.controlIntervalStart, .tile t)
  else if x.swapping && (!s.exchanges t || s.swappable t) then some (.swap, .tile t)
  else if x.ctx.plot.isNone then none
  else if s.stepHeld t && s.slotTime then some (.staggerSlotTime, .tile t)
  else if s.quiesceLate t then some (.quiesceTimeout, .tile t)
  else
    (if s.issues t then (slotLocs t).findSome? fun l => s.slotStep l else none)
      <|> (x.ctx.waits.findSome? fun w => s.waitStep t w)
      <|> s.engineStep t <|> s.matrixNext t
      <|> (x.ctx.ready.findSome? fun r => when (s.mayAge t r) .ageingPromotion (.record t r.off))
      <|> (if x.ctx.ready.isEmpty then none else when (s.nextDispatch t).isSome .dispatch (.tile t))
      <|> when (s.takesBias t) .reverseBias (.tile t)

/-- What a plot does next. -/
def State.plotStep (s : State) (p : Plot) : Auto :=
  if p.killing.isSome && s.killMoves p.num then some (.plotKill, .plot p.num)
  else when (s.marginOver p) .elasticResume (.plot p.num)

/-- A refresh window that begins or ends. -/
def State.refreshStep (s : State) : Auto :=
  (List.range 8).findSome? fun b =>
    if inWindow b s.wafer.time = s.wafer.refresh.getLsbD b then none
    else if inWindow b s.wafer.time then some (.refreshWindowStart, .refresh b)
    else some (.refreshWindowEnd, .refresh b)

/-- The next step that the part makes of itself. -/
def State.autoStep (s : State) : Auto :=
  s.refreshStep
    <|> when s.diesDue .controlIntervalStart .none
    <|> s.claimed
    <|> (s.wafer.heldDma.findSome? fun h => when h.answer.isSome .storageDma (.port h.dma.port))
    <|> (s.wafer.heldPeer.findSome? fun h => when h.answer.isSome .atomicAtHome (.port h.req.port))
    <|> (s.wafer.plots.findSome? fun p => s.plotStep p)
    <|> (s.tileList.findSome? fun t => s.tileStep t)

/-! ### Turns of slots (spec/02 R31) -/

/-- A slot can take a turn. -/
def State.mayIssue (s : State) (l : SlotLoc) : Bool :=
  let x := s.getSlot l
  let t := s.getTile l.tile
  x.mode == .running && decide (x.notBefore ≤ t.clk) && x.idleTo.isNone && s.issues l.tile

/-- A stalled `bwait` of a slot delivers now (spec/15 R261). -/
def State.bwaitDue (s : State) (l : SlotLoc) : Bool :=
  match (s.getSlot l).bwait with
  | some (h, p) =>
    let s := s.focus l
    ((s.own.bind fun q => q.find h).bind Obj.barrier?).any fun b => b.completed p && decide (s.bwaitAt b s.waitStart p ≤ s.now)
  | none => false

/-- The slot of a core that issues next: the first after the last issuer. A core issues at most once in a cycle, but a
`bwait` that has stalled delivers in place (spec/04 R86; spec/15 R261). -/
def State.coreTurn (s : State) (t core : Nat) : Option SlotLoc :=
  let c := (s.getTile t).ctx
  let last := vget c.lastIssue core 3
  let busy := decide (s.clk t < vget c.nextIssue core 0)
  ((List.range 4).map fun i => (⟨t, core, (last + 1 + i) % 4⟩ : SlotLoc)).find? fun l =>
    s.mayIssue l && (!busy || s.bwaitDue l)

/-- The cores of listed tiles, those after the core of the slot at hand first. -/
def State.coreOrder (s : State) : List (Nat × Nat) :=
  let own := (List.range 8).map fun c => (s.cur.tile, c)
  let others := s.wafer.tiles.map Prod.fst
  let cores := fun (ts : List Nat) => ts.flatMap fun t => (List.range 8).map fun c => (t, c)
  own.drop (s.cur.core + 1) ++ cores (others.filter fun t => decide (s.cur.tile < t))
    ++ cores (others.filter fun t => decide (t < s.cur.tile)) ++ own.take (s.cur.core + 1)

/-- The slot that takes the next turn. -/
def State.nextSlot (s : State) : Option SlotLoc := s.coreOrder.findSome? fun (t, c) => s.coreTurn t c

/-- The tiles whose clocks run: those that hold a plot. -/
def State.clocks (s : State) : List Nat := s.tileList.filter fun t => (s.getTile t).ctx.plot.isSome

/-- A cycle of a tile begins while a reverse bias is being lifted: it does not count for the slot that waits for that, and the
bias is gone once its time has passed (spec/16 R269). -/
def State.liftBias (s : State) (t at_ : Nat) : State :=
  match (s.getTile t).lifting with
  | none => s
  | some (k, till) =>
    (s.onSlot ⟨t, k / 4, k % 4⟩ fun x => { x with notBefore := x.notBefore + 1 }).onTile t fun x =>
      { x with lifting := if till ≤ at_ then none else some (k, till) }

/-- Time passes up to the next nanosecond, or to the next cycle of some tile before it. A tile whose cycle begins counts
it, and counts cycles without work (spec/16 R266, R267, R269, R270). -/
def State.tick (s : State) : State :=
  let at_ := s.instant
  let ts := s.clocks
  let next := ts.foldl (fun m t => let e := (s.getTile t).edge; if at_ < e then min m e else m) ((s.wafer.time + 1) * 968)
  let s := ts.foldl (fun s t =>
    if next < (s.getTile t).edge then s
    else
      let b := s.busy t
      let p := s.period t
      (s.liftBias t next).onTile t fun x =>
        { x with clk := x.clk + 1, edge := next + p + x.droop * p / 8, droop := 0, idle := if b then 0 else x.idle + 1 }) s
  { s with wafer := { s.wafer with time := next / 968, fine := next % 968 } }

/-- A slot's turn begins. -/
def State.takeTurn (s : State) (l : SlotLoc) : State :=
  let s := s.focus l
  { s with arg := .none, slot := { s.slot with held := false } }

/-- A slot's turn ends: unless it issued nothing, the slot is its core's last issuer, and the core issues again in the
next cycle (spec/02 R31, spec/04 R86). -/
def State.endTurn (l : SlotLoc) (s : State) : State :=
  if (s.getSlot l).held then s
  else s.onCtx l.tile fun c =>
    { c with lastIssue := vset c.lastIssue l.core l.slot, nextIssue := vset c.nextIssue l.core (s.clk l.tile + 1) }

/-- Which step comes next. -/
inductive Turn where
  | move (m : Move) (rest : List Move)
  | auto (i : Instr) (a : EvArg)
  | issue (l : SlotLoc)
  | idle

/-- THE ORDER OF STEPS: a move that can be made; else what the part does of itself; else a slot's turn; else time. -/
def State.turn (s : State) : Turn :=
  match s.nextMove [] s.agenda with
  | some (m, rest) => .move m rest
  | none =>
    match s.autoStep with
    | some (i, a) => .auto i a
    | none =>
      match s.nextSlot with
      | some l => .issue l
      | none => .idle

/-- A step of the part that is no instruction word. -/
def isEvent (i : Instr) : Bool := (encodeNat i).isNone && i != .illegalWord

/-- An instruction that the cellar executes on a halted slot (spec/16 R283, spec/18 R316). -/
def isCellars : Instr → Bool
  | .halt .. | .resume .. | .clkm .. => true
  | _ => false

end Sys2Proof.Machine
end

