-- ==== Sys2Proof/Machine/Special.lean ====
section
/-!
DEFINITION. Sys2Proof/Machine/Special.lean: the special functions, major 0x2A (spec/11 R218, R219). The exact cases and
the special operands are computed. Elsewhere the specification fixes a result only to within a bound: the result is the
value of a constant of Config that has no body, where that value lies within the bound, and else the correctly rounded
one, which always does (log 7).
-/
namespace Sys2Proof.Machine

/-! ### Fixed point with 128 fraction bits -/

/-- 2^128. -/
def one128 : Nat := 2 ^ 128

/-- The integer square root, bit by bit from bit n − 1 down. -/
def isqrtFrom (x : Nat) : Nat → Nat → Nat
  | 0, r => r
  | n + 1, r => isqrtFrom x n (if (r + 2 ^ n) * (r + 2 ^ n) ≤ x then r + 2 ^ n else r)

/-- The integer square root. -/
def isqrt (x : Nat) : Nat := isqrtFrom x (Nat.log2 x / 2 + 1) 0

/-- 2^f for a fraction f: bit by bit, with `c` the root of 2 that the next bit stands for. -/
def pow2Loop : Nat → Nat → Nat → Nat → Nat
  | 0, _, _, acc => acc
  | n + 1, f, c, acc =>
    let c := isqrt (c * one128)
    let f2 := 2 * f
    if one128 ≤ f2 then pow2Loop n (f2 - one128) c (acc * c / one128) else pow2Loop n f2 c acc

/-- 2^f for f below 1. -/
def pow2Frac (f : Nat) : Nat := pow2Loop 96 f (2 * one128) one128

/-- The first n fraction bits of log2 m, for m from 1 below 2. -/
def log2Loop : Nat → Nat → Nat → Nat
  | 0, _, acc => acc
  | n + 1, m, acc =>
    let q := m * m / one128
    if 2 * one128 ≤ q then log2Loop n (q / 2) (2 * acc + 1) else log2Loop n q (2 * acc)

/-- log2 e. -/
def log2e : Nat := 490923683258796565746369346286093237521

/-- num ÷ den × 2^e as a fixed-point number, truncated. -/
def toFixed (num den : Nat) (e : Int) : Nat :=
  let (p, q) := inUnits num den e (-128)
  p / q

/-! ### Close approximations -/

/-- 2^x of a finite x, to far more bits than a result has. A power below a whole one stays below it, however close. -/
def exp2Val (neg : Bool) (num den : Nat) (e : Int) : Val :=
  let x := toFixed num den e
  let k : Int := x / one128
  let f := x % one128
  let (p, q) := inUnits num den e 0
  if neg then
    if p % q = 0 then .fin false 1 1 (-k)
    else if f = 0 then .fin false (one128 - 1) 1 (-128 - k)
    else .fin false (pow2Frac (one128 - f)) 1 (-128 - k - 1)
  else .fin false (pow2Frac f) 1 (k - 128)

/-- log2 x of a positive finite x. -/
def log2Val (num den : Nat) (e : Int) : Val :=
  let k := floorLog2 num den e
  let m := toFixed num den (e - k)
  let z : Int := k * 2 ^ 60 + log2Loop 60 m 0
  .fin (decide (z < 0)) z.natAbs 1 (-60)

/-- tanh x of a finite x: by series below 2^−20, as 1 above 20, else from 2^(2x log2 e). -/
def tanhVal (neg : Bool) (num den : Nat) (e : Int) : Val :=
  if floorLog2 num den e < -20 then
    -- x − x³ ÷ 3 + 2x⁵ ÷ 15 over the common denominator 15 den⁵
    let n2 := num * num
    let d2 := den * den
    let a := if e < 0 then 15 * d2 * d2 * 2 ^ (4 * e.natAbs) - 5 * n2 * d2 * 2 ^ (2 * e.natAbs) + 2 * n2 * n2 else 0
    .fin neg (num * a) (15 * d2 * d2 * den) (e - 4 * e.natAbs)
  else
    let x := min (toFixed num den e) (20 * one128)
    let t := 2 * x * log2e / one128
    let p := pow2Frac (t % one128) * 2 ^ (t / one128)
    .fin neg (p - one128) (p + one128) 0

/-- √x of a positive finite x with den 1, with a low bit that stands for what is lost. -/
def sqrtVal (num : Nat) (e : Int) : Val :=
  let (n, e) := if e % 2 = 0 then (num, e) else (2 * num, e - 1)
  let big := n * 2 ^ 128
  let r := isqrt big
  .fin false (2 * r + (if r * r = big then 0 else 1)) 1 (e / 2 - 65)

/-- 1 ÷ √x likewise. -/
def rsqrtVal (num : Nat) (e : Int) : Val :=
  match sqrtVal num e with
  | .fin _ a d k => .fin false d a (-k)
  | v => v

/-! ### Within the bound -/

/-- The value of a code lies within a bound of an exact result: an absolute 2^−k where the table gives one for the
operand, else `ulps` units of the type's spacing there. Any value within the bound is a result, whatever its sign (spec/11
R218). -/
def within (t : Ty) (c : Nat) (v : Val) (ulps : Nat) (abs : Option Nat) : Bool :=
  match t.bin, t.decode c, v with
  | some b, .fin n1 a1 d1 e1, .fin n2 a2 d2 e2 =>
    match finAdd .rne n1 a1 d1 e1 (!n2) a2 d2 e2 with
    | .fin _ a d e =>
      let q := max (floorLog2 a2 d2 e2) b.emin - b.m
      let le := fun (k : Int) (m : Nat) =>
        let (p, r) := inUnits a d e k
        decide (p ≤ m * r)
      match abs with
      | some k => le (-(k : Int)) 1
      | none => le q ulps
    | _ => false
  | _, _, _ => false

/-- A result that the bound leaves open: the free code where it lies within the bound, else the rounded one; the flags
are those of a result that is not exact. -/
def openResult (t : ElemTy) (free : Nat) (v : Val) (ulps : Nat) (abs : Option Nat) : Nat × Nat :=
  let (c, f) := Ty.round (.el t) .rne v
  let x := free % 2 ^ t.bits
  (if within (.el t) x v ulps abs then x else c, f ||| fNX)

/-- The function on a finite operand that is not zero, with ABSENT and NaN taken first. -/
def special (t : ElemTy) (zero inf : Bool → Nat × Nat) (f : Bool → Nat → Nat → Int → Nat × Nat) (x : Nat) : Nat × Nat :=
  let ty : Ty := .el t
  match ty.decode x with
  | .absent => (ty.absent.getD 0, 0)
  | .nan sig => (ty.nan, if sig then fNV else 0)
  | .inf n => inf n
  | .fin n a d e => if a = 0 then zero n else f n a d e

/-- A value as its code, exactly. -/
def code (t : ElemTy) (v : Val) : Nat := (Ty.round (.el t) .rne v).1

/-- The canonical NaN with NV. -/
def invalid (t : ElemTy) : Nat × Nat := (Ty.nan (.el t), fNV)

/-- ULPs of f32 and of the narrower types. -/
def ulps (t : ElemTy) (wide narrow : Nat) : Nat := if t = .f32 then wide else narrow

/-! ### The functions (spec/11 R218, R219) -/

/-- 1 ÷ x: correctly rounded for bf16 and h16. -/
def rcpCode (t : ElemTy) (x : Nat) : Nat × Nat :=
  special t (fun n => (code t (.inf n), fDZ)) (fun n => (code t (.fin n 0 1 0), 0))
    (fun n a d e =>
      let v := Val.fin n d a (-e)
      let (c, f) := Ty.round (.el t) .rne v
      if f = 0 ∨ t ≠ .f32 ∨ f &&& fOF ≠ 0 then (c, f) else openResult t (Config.rcp t x) v 1 none) x

/-- 1 ÷ √x. -/
def rsqCode (t : ElemTy) (x : Nat) : Nat × Nat :=
  special t (fun n => (code t (.inf n), fDZ)) (fun n => if n then invalid t else (code t (.fin false 0 1 0), 0))
    (fun n a _ e =>
      if n then invalid t
      else
        let v := rsqrtVal a e
        let (c, f) := Ty.round (.el t) .rne v
        if f = 0 then (c, 0) else openResult t (Config.rsq t x) v (ulps t 2 1) none) x

/-- √x, correctly rounded. -/
def sqrtCode (t : ElemTy) (r : Rnd) (x : Nat) : Nat × Nat :=
  special t (fun n => (code t (.fin n 0 1 0), 0)) (fun n => if n then invalid t else (code t (.inf false), 0))
    (fun n a _ e => if n then invalid t else Ty.round (.el t) r (sqrtVal a e)) x

/-- The exponent from which 2^x lies beyond the largest finite value. -/
def exp2Top (t : ElemTy) : Nat := if t = .h16 then 16 else 128

/-- 2^x. A result below every bound's reach is taken as 2^−400. -/
def exp2Code (t : ElemTy) (x : Nat) : Nat × Nat :=
  special t (fun _ => (code t (.int 1), 0)) (fun n => (if n then code t (.fin false 0 1 0) else code t (.inf false), 0))
    (fun n a d e =>
      let (p, q) := inUnits a d e 0
      if n = false ∧ exp2Top t * q ≤ p then (code t (.inf false), fOF ||| fNX)
      else
        let v := if n = true ∧ 400 * q ≤ p then Val.fin false 1 1 (-400) else exp2Val n a d e
        let (c, f) := Ty.round (.el t) .rne v
        if p % q = 0 ∧ f = 0 then (c, 0) else openResult t (Config.exp2 t x) v (ulps t 2 1) none) x

/-- The absolute bound of `vlog2`, which holds for x from 0.5 below 2. -/
def logAbs (t : ElemTy) (k : Int) : Option Nat :=
  if k = 0 ∨ k = -1 then some (if t = .f32 then 22 else if t = .bf16 then 9 else 12) else none

/-- log2 x. -/
def log2Code (t : ElemTy) (x : Nat) : Nat × Nat :=
  special t (fun _ => (code t (.inf true), fDZ)) (fun n => if n then invalid t else (code t (.inf false), 0))
    (fun n a d e =>
      if n then invalid t
      else
        let k := floorLog2 a d e
        let (p, q) := inUnits a d e k
        if p = q then Ty.round (.el t) .rne (.int k)
        else openResult t (Config.log2 t x) (log2Val a d e) (ulps t 2 1) (logAbs t k)) x

/-- tanh x. -/
def tanhCode (t : ElemTy) (x : Nat) : Nat × Nat :=
  special t (fun n => (code t (.fin n 0 1 0), 0)) (fun n => (code t (.int (if n then -1 else 1)), 0))
    (fun n a d e => openResult t (Config.tanh t x) (tanhVal n a d e) (ulps t 4 1) none) x

def execVrcp (vd va : VNum) (t : ElemTy) (s : State) : Out := vop1 vecLong vd va (lanewise1 t (rcpCode t)) s
def execVrsq (vd va : VNum) (t : ElemTy) (s : State) : Out := vop1 vecLong vd va (lanewise1 t (rsqCode t)) s
def execVsqrt (vd va : VNum) (t : ElemTy) (r : Rnd) (s : State) : Out := vop1 vecLong vd va (lanewise1 t (sqrtCode t r)) s
def execVexp2 (vd va : VNum) (t : ElemTy) (s : State) : Out := vop1 vecLong vd va (lanewise1 t (exp2Code t)) s
def execVlog2 (vd va : VNum) (t : ElemTy) (s : State) : Out := vop1 vecLong vd va (lanewise1 t (log2Code t)) s
def execVtanh (vd va : VNum) (t : ElemTy) (s : State) : Out := vop1 vecLong vd va (lanewise1 t (tanhCode t)) s

end Sys2Proof.Machine
end

