-- ==== Sys2Proof/Machine/VectorArith.lean ====
section
/-!
DEFINITION. Sys2Proof/Machine/VectorArith.lean: vector arithmetic, logic, compares and select, majors 0x22 to 0x26
(spec/11 R206 to R210).
-/
namespace Sys2Proof.Machine

/-! ### Floats (spec/11 R206, R207) -/

/-- A binary operation: ABSENT first, then the exact result rounded. -/
def flt2 (t : Ty) (r : Rnd) (op : Val → Val → Val × Nat) (x y : Nat) : Nat × Nat :=
  if t.isAbsent x ∨ t.isAbsent y then (t.absent.getD 0, 0)
  else
    let (v, f) := op (t.decode x) (t.decode y)
    let (c, g) := t.round r v
    (c, f ||| g)

/-- The smaller or the larger, −0 below +0; a NaN gives the canonical NaN. -/
def fltPick (t : Ty) (isMin : Bool) (x y : Nat) : Nat × Nat :=
  if t.isAbsent x ∨ t.isAbsent y then (t.absent.getD 0, 0) else fmaxCode t isMin x y

/-- A sign operation: a NaN gives the canonical NaN with no flag, a signalling one too. R206 says so of the sign operations, and
R174 of `vscl`, while R181 names no such exception (DEDUCED: log 67). -/
def fltSign (t : Ty) (op : Val → Val) (x : Nat) : Nat × Nat :=
  if t.isAbsent x then (x, 0)
  else
    match t.decode x with
    | .nan _ => (t.nan, 0)
    | v => t.round .rne (op v)

/-- A fused multiply-add: (±)a × b + (±)d, rounded once. -/
def fltFma (t : Ty) (r : Rnd) (negProd negAdd : Bool) (x y z : Nat) : Nat × Nat :=
  if t.isAbsent x ∨ t.isAbsent y ∨ t.isAbsent z then (t.absent.getD 0, 0)
  else
    let (p, f) := Val.mul (t.decode x) (t.decode y)
    let d := t.decode z
    let (v, g) := Val.add r (if negProd then p.neg else p) (if negAdd then d.neg else d)
    let (c, h) := t.round r v
    (c, f ||| g ||| h)

/-- A float instruction of two operands. -/
def vflt2 (tm : VecTime) (vd va vb : VNum) (t : ElemTy) (f : Nat → Nat → Nat × Nat) (s : State) : Out :=
  vop2 tm vd va vb (lanewise2 t f) s

def execVadd (vd va vb : VNum) (t : ElemTy) (r : Rnd) (s : State) : Out := vflt2 vecPlain vd va vb t (flt2 (.el t) r (Val.add r)) s
def execVsub (vd va vb : VNum) (t : ElemTy) (r : Rnd) (s : State) : Out :=
  vflt2 vecPlain vd va vb t (flt2 (.el t) r fun x y => Val.add r x y.neg) s
def execVmul (vd va vb : VNum) (t : ElemTy) (r : Rnd) (s : State) : Out := vflt2 vecPlain vd va vb t (flt2 (.el t) r Val.mul) s
def execVdiv (vd va vb : VNum) (t : ElemTy) (r : Rnd) (s : State) : Out := vflt2 vecLong vd va vb t (flt2 (.el t) r Val.div) s
def execVmin (vd va vb : VNum) (t : ElemTy) (s : State) : Out := vflt2 vecPlain vd va vb t (fltPick (.el t) true) s
def execVmax (vd va vb : VNum) (t : ElemTy) (s : State) : Out := vflt2 vecPlain vd va vb t (fltPick (.el t) false) s
def execVmag (vd va : VNum) (t : ElemTy) (s : State) : Out := vop1 vecPlain vd va (lanewise1 t (fltSign (.el t) Val.abs)) s
def execVneg (vd va : VNum) (t : ElemTy) (s : State) : Out := vop1 vecPlain vd va (lanewise1 t (fltSign (.el t) Val.neg)) s
def execVfma (vd va vb : VNum) (t : ElemTy) (r : Rnd) (s : State) : Out :=
  vop3 vecFused vd va vb (lanewise3 t (fltFma (.el t) r false false)) s
def execVfms (vd va vb : VNum) (t : ElemTy) (r : Rnd) (s : State) : Out :=
  vop3 vecFused vd va vb (lanewise3 t (fltFma (.el t) r false true)) s
def execVfnma (vd va vb : VNum) (t : ElemTy) (r : Rnd) (s : State) : Out :=
  vop3 vecFused vd va vb (lanewise3 t (fltFma (.el t) r true false)) s

/-! ### Integers (spec/11 R208) -/

/-- An exact integer result: i4 and i8 saturate with ISAT, the others wrap. -/
def intResult (t : ElemTy) (z : Int) : Nat × Nat :=
  if t = .i4 ∨ t = .i8 then
    let (lo, hi) := t.range
    if hi < z then (t.ofInt hi, fISAT) else if z < lo then (t.ofInt lo, fISAT) else (t.ofInt z, 0)
  else (t.ofInt z, 0)

/-- A binary integer operation. -/
def int2 (t : ElemTy) (op : Int → Int → Int) (x y : Nat) : Nat × Nat :=
  if Ty.isAbsent (.el t) x ∨ Ty.isAbsent (.el t) y then ((Ty.absent (.el t)).getD 0, 0)
  else intResult t (op (t.toInt x) (t.toInt y))

/-- A unary integer operation. -/
def int1 (t : ElemTy) (op : Int → Int) (x : Nat) : Nat × Nat :=
  if Ty.isAbsent (.el t) x then (x, 0) else intResult t (op (t.toInt x))

def execVaddInt (vd va vb : VNum) (t : ElemTy) (s : State) : Out := vop2 vecPlain vd va vb (lanewise2 t (int2 t (· + ·))) s
def execVsubInt (vd va vb : VNum) (t : ElemTy) (s : State) : Out := vop2 vecPlain vd va vb (lanewise2 t (int2 t (· - ·))) s
def execVmulInt (vd va vb : VNum) (t : ElemTy) (s : State) : Out := vop2 vecPlain vd va vb (lanewise2 t (int2 t (· * ·))) s
def execVminInt (vd va vb : VNum) (t : ElemTy) (s : State) : Out := vop2 vecPlain vd va vb (lanewise2 t (int2 t min)) s
def execVmaxInt (vd va vb : VNum) (t : ElemTy) (s : State) : Out := vop2 vecPlain vd va vb (lanewise2 t (int2 t max)) s
def execVmagInt (vd va : VNum) (t : ElemTy) (s : State) : Out := vop1 vecPlain vd va (lanewise1 t (int1 t fun z => z.natAbs)) s
def execVnegInt (vd va : VNum) (t : ElemTy) (s : State) : Out := vop1 vecPlain vd va (lanewise1 t (int1 t fun z => -z)) s

/-! ### Logic and shifts (spec/11 R209) -/

def execVand (vd va vb : VNum) (s : State) : Out := vop2 vecPlain vd va vb (fun x y => (x &&& y, 0)) s
def execVor (vd va vb : VNum) (s : State) : Out := vop2 vecPlain vd va vb (fun x y => (x ||| y, 0)) s
def execVxor (vd va vb : VNum) (s : State) : Out := vop2 vecPlain vd va vb (fun x y => (x ^^^ y, 0)) s
def execVnot (vd va : VNum) (s : State) : Out := vop1 vecPlain vd va (fun x => (~~~x, 0)) s
def execVshl (vd va vb : VNum) (t : ElemTy) (s : State) : Out :=
  vop2 vecPlain vd va vb (lanewise2 t fun x y => (x * 2 ^ (y % t.bits) % 2 ^ t.bits, 0)) s
def execVshr (vd va vb : VNum) (t : ElemTy) (s : State) : Out :=
  vop2 vecPlain vd va vb (lanewise2 t fun x y => (x / 2 ^ (y % t.bits), 0)) s
def execVsra (vd va vb : VNum) (t : ElemTy) (s : State) : Out :=
  vop2 vecPlain vd va vb (lanewise2 t fun x y => (t.ofInt (t.toInt x / 2 ^ (y % t.bits)), 0)) s

/-! ### Compares and select (spec/11 R210) -/

/-- All ones when true. -/
def maskLane (t : ElemTy) (b : Bool) : Nat := if b then 2 ^ t.bits - 1 else 0

/-- A compare of two lanes: false for ABSENT; for a NaN true for `ne` only, a signalling one setting NV. -/
def cmpLane (t : ElemTy) (ne : Bool) (ok : Ordering → Bool) (x y : Nat) : Nat × Nat :=
  let ty : Ty := .el t
  if ty.isAbsent x ∨ ty.isAbsent y then (0, 0)
  else
    let a := ty.decode x
    let b := ty.decode y
    if a.isNan ∨ b.isNan then (maskLane t ne, if a.isSig || b.isSig then fNV else 0)
    else (maskLane t (ok (a.cmp b)), 0)

/-- A compare instruction. -/
def vcmp (vd va vb : VNum) (t : ElemTy) (ne : Bool) (ok : Ordering → Bool) (s : State) : Out :=
  vop2 vecPlain vd va vb (lanewise2 t (cmpLane t ne ok)) s

def execVcmpEq (vd va vb : VNum) (t : ElemTy) (s : State) : Out := vcmp vd va vb t false (fun o => o == .eq) s
def execVcmpNe (vd va vb : VNum) (t : ElemTy) (s : State) : Out := vcmp vd va vb t true (fun o => o != .eq) s
def execVcmpLt (vd va vb : VNum) (t : ElemTy) (s : State) : Out := vcmp vd va vb t false (fun o => o == .lt) s
def execVcmpLe (vd va vb : VNum) (t : ElemTy) (s : State) : Out := vcmp vd va vb t false (fun o => o != .gt) s
def execVcmpGt (vd va vb : VNum) (t : ElemTy) (s : State) : Out := vcmp vd va vb t false (fun o => o == .gt) s
def execVcmpGe (vd va vb : VNum) (t : ElemTy) (s : State) : Out := vcmp vd va vb t false (fun o => o != .lt) s
def execVcmpAb (vd va : VNum) (t : ElemTy) (s : State) : Out :=
  vop1 vecPlain vd va (lanewise1 t fun x => (maskLane t (Ty.isAbsent (.el t) x), 0)) s
def execVcmpNan (vd va : VNum) (t : ElemTy) (s : State) : Out :=
  vop1 vecPlain vd va (lanewise1 t fun x => (maskLane t (Ty.decode (.el t) x).isNan, 0)) s

/-- The old lane of vD is the mask, true when its top bit is 1. -/
def execVsel (vd va vb : VNum) (t : ElemTy) (s : State) : Out :=
  vop3 vecPlain vd va vb (lanewise3 t fun x y m => (if 2 ^ (t.bits - 1) ≤ m then x else y, 0)) s

end Sys2Proof.Machine
end

