-- ==== Sys2Proof/Machine/VectorConv.lean ====
section
/-!
DEFINITION. Sys2Proof/Machine/VectorConv.lean: conversions, dequantisation and quantisation, majors 0x27 and 0x28
(spec/09 R174 to R177; spec/10 R186; spec/11 R201, R211 to R216).
-/
namespace Sys2Proof.Machine

/-! ### Widening, pairs and quads (spec/11 R201) -/

/-- The registers from vd on. -/
def groupDests (vd : VNum) (n : Nat) : List Dest := (List.range n).map fun k => .v (vNext vd k)

/-- Every n-th element from the k-th on. -/
def everyNth (n k : Nat) (xs : List Nat) : List Nat :=
  (xs.zipIdx.filter fun x => x.2 % n == k).map Prod.fst

/-- Elements written to n registers, element i in lane i ÷ n of register i mod n; a register's other bytes are zero. -/
def Slot.writeGroup (x : Slot) (vd : VNum) (n w : Nat) (codes : List Nat) (at_ : Nat) : Slot :=
  (List.range n).foldl (fun x k => x.vwriteFrom (vNext vd k) (vecOf w (everyNth n k codes)) at_) x

/-- Elements written to n registers with their flags, after the latency of a conversion. -/
def groupDone (vd : VNum) (n w : Nat) (codes : List Nat) (fl : Nat) (s : State) : Out :=
  done { s with slot := (s.slot.writeGroup vd n w codes (s.now + (vecConv n).lat)).raise fl }

/-- Two lists taken in turn. -/
def interleave : List Nat → List Nat → List Nat
  | x :: xs, y :: ys => x :: y :: interleave xs ys
  | _, _ => []

/-- The elements of a source pair. -/
def Slot.pair (x : Slot) (t : ElemTy) (va : VNum) : List Nat := interleave (lanes t (x.v va)) (lanes t (x.v (vNext va 1)))

/-! ### `vcvt` (spec/11 R211, R212) -/

/-- One element converted (spec/10 R191). -/
def cvt1 (st dt : Ty) (r : Rnd) (x : Nat) : Nat × Nat := dt.round r (st.decode x)

def execVcvt (vd va : VNum) (src dst : ElemTy) (r : Rnd) (p : BitVec 5) (s : State) : Out :=
  let n := if src.bits < dst.bits then dst.bits / src.bits else 1
  gate [.v va] (groupDests vd n) (vecPath (vecConv n).cyc fun s =>
    let d := p.toNat
    let (cs, fl) := gather (((lanes src (s.slot.v va)).take (n * dst.lanes)).map (cvt1 (Ty.of src d) (Ty.of dst d) r))
    groupDone vd n dst.bits cs fl s) s

/-! ### `vcvt.x3109` (spec/10 R186, spec/11 R213) -/

/-- A device code as a standard code. -/
def toStd (uns ext : Bool) (c : Nat) : Nat × Nat :=
  match uns, ext with
  | false, false => (if c = 0xFF then 0x80 else c, 0)
  | false, true => (if c = 0xFE then 0xFF else if c = 0xFF then 0x80 else c, 0)
  | true, false => (if c = 0xFE then 0xFF else c, 0)
  | true, true => (if c = 0xFD then 0xFE else if c = 0xFE then 0xFF else c, 0)

/-- A standard code as a device code. -/
def toDev (uns ext : Bool) (c : Nat) : Nat × Nat :=
  match uns, ext with
  | false, false => if c = 0xFF then (0xFE, fOF ||| fNX) else (c, 0)
  | false, true => if c = 0xFF then (0xFE, 0) else if c = 0xFE then (0xFD, fOF ||| fNX) else (c, 0)
  | true, false => if c = 0xFE then (0xFD, fOF ||| fNX) else (c, 0)
  | true, true => if c = 0xFE then (0xFD, 0) else if c = 0xFD then (0xFC, fOF ||| fNX) else (c, 0)

def execVcvtX3109Std (vd va : VNum) (p : BitVec 5) (s : State) : Out :=
  vop1 (vecConv 1) vd va (lanewise1 .n8 (toStd (p.getLsbD 1) (p.getLsbD 0))) s

def execVcvtX3109Dev (vd va : VNum) (p : BitVec 5) (s : State) : Out :=
  vop1 (vecConv 1) vd va (lanewise1 .n8 (toDev (p.getLsbD 1) (p.getLsbD 0))) s

/-! ### Block scales (spec/10 R188) -/

/-- A finite value scaled by a power of two. -/
def Val.shift (v : Val) (k : Int) : Val :=
  match v with
  | .fin n a d e => .fin n a d (e + k)
  | o => o

/-- The value of a scaled element. -/
def scaled (v : Val) (e : Nat) : Val :=
  if v = .absent ∨ e = 0xFE then .absent
  else if e = 0xFF then .nan false
  else v.shift ((e : Int) - 127)

/-- Element position i of a register, for an element of 8 or 4 bits. -/
def elemCodes (t : Ty) (n : Nat) (v : VReg) : List Nat := lanesFrom t.bits n v.toNat

/-- The scale bytes of a register. -/
def scaleAt (v : VReg) (i : Nat) : Nat := laneAt .n8 v i

/-! ### `vdqnt` (spec/11 R214) -/

/-- Elements expanded; `blk` is the block length. -/
def dequant (et : Ty) (dt : ElemTy) (r : Rnd) (n blk : Nat) (x y : VReg) : List Nat × Nat :=
  gather ((elemCodes et n x).zipIdx.map fun (q, i) => Ty.round (.el dt) r (scaled (et.decode q) (scaleAt y (i / blk))))

def execVdqntMx (vd va vb : VNum) (t : ElemTy) (r : Rnd) (p : BitVec 5) (s : State) : Out :=
  vop2 (vecConv 1) vd va vb (fun x y =>
    let (cs, fl) := dequant (Ty.ofElem p.toNat) t r t.lanes 32 x y
    (vecOf t.bits cs, fl)) s

def execVdqntNat (vd va vb : VNum) (t : ElemTy) (r : Rnd) (p : BitVec 5) (s : State) : Out :=
  let n := if t = .f32 then 2 else 1
  gate [.v va, .v vb] (groupDests vd n) (vecPath (vecConv n).cyc fun s =>
    let (cs, fl) := dequant (Ty.ofElem p.toNat) t r 256 256 (s.slot.v va) (s.slot.v vb)
    groupDone vd n t.bits cs fl s) s

/-! ### `vscl` (spec/09 R174, spec/11 R216) -/

/-- emax of an element type: the exponent of its largest finite positive value. -/
def emaxOf (et : Ty) : Int :=
  match et with
  | .el .i8 => 6
  | .el .i4 => 2
  | _ =>
    match et.bin with
    | some b => match et.decode b.maxPos with
      | .fin _ a d e => floorLog2 a d e
      | _ => 0
    | none => 0

/-- The scale of a block of values. -/
def blockScale (et : Ty) (vs : List Val) : Nat :=
  let present := vs.filter fun v => v != .absent
  let logs := present.filterMap fun v => match v with
    | .fin _ a d e => if a = 0 then none else some (floorLog2 a d e)
    | _ => none
  if present = [] then 0xFE
  else
    match logs with
    | l :: ls => (max 0 (min 0xFD (ls.foldl max l - emaxOf et + 127))).toNat
    | [] => if present.all Val.isNan then 0xFF else 0x7F

/-- Blocks of n values. The fuel is the number of values. -/
def blocksOf (n : Nat) : Nat → List Val → List (List Val)
  | 0, _ => []
  | k + 1, vs => if vs = [] then [] else vs.take n :: blocksOf n k (vs.drop n)

/-- The scales of source elements. -/
def scalesOf (et : Ty) (t : ElemTy) (blk : Nat) (xs : List Nat) : VReg :=
  vecOf 8 ((blocksOf blk xs.length (xs.map (Ty.decode (.el t)))).map (blockScale et))

def execVsclMx (vd va : VNum) (t : ElemTy) (p : BitVec 5) (s : State) : Out :=
  vop1 (vecConv 1) vd va (fun x => (scalesOf (Ty.ofElem p.toNat) t 32 (lanes t x), 0)) s

/-- The sources of a native block: a register, or a pair for f32. -/
def natSrcs (t : ElemTy) (va : VNum) : List Src := if t = .f32 then [.v va, .v (vNext va 1)] else [.v va]

/-- The datapath cycles and latency of a native block. -/
def natTime (t : ElemTy) : VecTime := vecConv (if t = .f32 then 2 else 1)

/-- The 256 elements of a native block. -/
def natElems (t : ElemTy) (va : VNum) (x : Slot) : List Nat := if t = .f32 then x.pair t va else lanes t (x.v va)

def execVsclNat (vd va : VNum) (t : ElemTy) (p : BitVec 5) (s : State) : Out :=
  gate (natSrcs t va) [.v vd] (vecPath (natTime t).cyc fun s =>
    vecDone (natTime t).lat vd (scalesOf (Ty.ofElem p.toNat) t 256 (natElems t va s.slot)) 0 s) s

/-! ### `vqnt` (spec/09 R175, spec/11 R216) -/

/-- One element encoded under a scale. In a NaN block a signalling NaN sets NV too: R175's branch for the scale 0xFF names no
flag, and R181's exceptions do not name it (DEDUCED: log 67). -/
def quant1 (et : Ty) (t : ElemTy) (r : Rnd) (e x : Nat) : Nat × Nat :=
  match Ty.decode (.el t) x with
  | .absent => (et.absent.getD 0, 0)
  | v =>
    if e = 0xFF then (if et.bin.isNone then (0, fNV) else (et.nan, if v.isSig then fNV else 0))
    else et.round r (v.shift (127 - (e : Int)))

/-- Elements encoded, with the scale of each one's block. -/
def quant (et : Ty) (t : ElemTy) (r : Rnd) (blk : Nat) (xs : List Nat) (y : VReg) : VReg × Nat :=
  let (cs, fl) := gather (xs.zipIdx.map fun (x, i) => quant1 et t r (scaleAt y (i / blk)) x)
  (vecOf et.bits cs, fl)

def execVqntMx (vd va vb : VNum) (t : ElemTy) (r : Rnd) (p : BitVec 5) (s : State) : Out :=
  vop2 (vecConv 1) vd va vb (fun x y => quant (Ty.ofElem p.toNat) t r 32 (lanes t x) y) s

def execVqntNat (vd va vb : VNum) (t : ElemTy) (r : Rnd) (p : BitVec 5) (s : State) : Out :=
  gate (natSrcs t va ++ [.v vb]) [.v vd] (vecPath (natTime t).cyc fun s =>
    let (x, fl) := quant (Ty.ofElem p.toNat) t r 256 (natElems t va s.slot) (s.slot.v vb)
    vecDone (natTime t).lat vd x fl s) s

end Sys2Proof.Machine
end

