-- ==== Sys2Proof/Machine/VectorMove.lean ====
section
/-!
DEFINITION. Sys2Proof/Machine/VectorMove.lean: permutes, absent operations and moves between scalar and vector
registers, majors 0x2B to 0x2D (spec/11 R220 to R222). None sets a flag.
-/
namespace Sys2Proof.Machine

/-! ### Permutes (spec/11 R220) -/

/-- A register whose lane i is given by a function. -/
def tabulate (t : ElemTy) (f : Nat → Nat) : VReg := vecOf t.bits ((List.range t.lanes).map f)

/-- The lane that `vperm` takes for lane i from its index. -/
def permIndex (t : ElemTy) (i k : Nat) : Nat := if t.bits = 8 then 256 * (i / 256) + k else k % t.lanes

def execVperm (vd va vb : VNum) (t : ElemTy) (s : State) : Out :=
  vop2 vecPlain vd va vb (fun x y => (tabulate t fun i => laneAt t x (permIndex t i (laneAt t y i)), 0)) s

def execVshufZl (vd va vb : VNum) (t : ElemTy) (s : State) : Out :=
  vop2 vecPlain vd va vb (fun x y => (tabulate t fun i => laneAt t (if i % 2 = 0 then x else y) (i / 2), 0)) s
def execVshufZh (vd va vb : VNum) (t : ElemTy) (s : State) : Out :=
  vop2 vecPlain vd va vb (fun x y => (tabulate t fun i => laneAt t (if i % 2 = 0 then x else y) (t.lanes / 2 + i / 2), 0)) s
def execVshufUe (vd va vb : VNum) (t : ElemTy) (s : State) : Out :=
  vop2 vecPlain vd va vb (fun x y =>
    (tabulate t fun i => if i < t.lanes / 2 then laneAt t x (2 * i) else laneAt t y (2 * i - t.lanes), 0)) s
def execVshufUo (vd va vb : VNum) (t : ElemTy) (s : State) : Out :=
  vop2 vecPlain vd va vb (fun x y =>
    (tabulate t fun i => if i < t.lanes / 2 then laneAt t x (2 * i + 1) else laneAt t y (2 * i + 1 - t.lanes), 0)) s

/-- Lanes turned by n. -/
def rotate (t : ElemTy) (x : VReg) (n : Nat) : VReg := tabulate t fun i => laneAt t x ((i + n) % t.lanes)

def execVrot (vd va sb : VNum) (t : ElemTy) (s : State) : Out :=
  gate [.s (sOf sb) false, .v va] [.v vd] (vecPath vecPlain.cyc fun s =>
    vecDone vecPlain.lat vd (rotate t (s.slot.v va) (s.slot.s (sOf sb)).toNat) 0 s) s

def execVrotImm (vd va : VNum) (t : ElemTy) (i7 : BitVec 7) (s : State) : Out :=
  vop1 vecPlain vd va (fun x => (rotate t x i7.toNat, 0)) s

def execViota (vd sa : VNum) (t : ElemTy) (s : State) : Out :=
  vopS vd sa (fun x => tabulate t fun i => (x.toNat + i) % 2 ^ t.bits) s

/-- The code of the constant of `vfill`: a factor for e8s, else the value. -/
def fillCode (t : ElemTy) (k : Int) : Nat :=
  if t = .e8s then 127 + Nat.log2 k.toNat else (Ty.round (.el t) .rne (.int k)).1

def execVfill (vd : VNum) (t : ElemTy) (i7 : BitVec 7) (s : State) : Out :=
  gate [] [.v vd] (vecPath vecPlain.cyc fun s =>
    vecDone vecPlain.lat vd (tabulate t fun _ => fillCode t i7.toInt) 0 s) s

/-! ### Absent operations (spec/11 R221) -/

/-- Lanes of a register made ABSENT where a predicate holds. -/
def makeAbsent (t : ElemTy) (p : BitVec 5) (x : VReg) (on : Nat → Bool) : VReg :=
  tabulate t fun i => if on i then (Ty.of t p.toNat).absent.getD 0 else laneAt t x i

def execVmkab (vd va : VNum) (t : ElemTy) (p : BitVec 5) (s : State) : Out :=
  gate [.v va, .v vd] [.v vd] (vecPath vecPlain.cyc fun s =>
    let m := s.slot.v va
    vecDone vecPlain.lat vd (makeAbsent t p (s.slot.v vd) fun i => m.getLsbD i) 0 s) s

def execVmkabTail (vd sa : VNum) (t : ElemTy) (p : BitVec 5) (s : State) : Out :=
  gate [.s (sOf sa) false, .v vd] [.v vd] (vecPath vecPlain.cyc fun s =>
    let n := (s.slot.s (sOf sa)).toNat
    vecDone vecPlain.lat vd (makeAbsent t p (s.slot.v vd) fun i => decide (n ≤ i)) 0 s) s

def execVtsab (vd va : VNum) (t : ElemTy) (p : BitVec 5) (s : State) : Out :=
  vop1 vecPlain vd va (fun x => (vecOf 1 ((lanes t x).map fun c => ((Ty.of t p.toNat).isAbsent c).toNat), 0)) s

/-! ### Moves (spec/11 R222) -/

def execVbcast (vd sa : VNum) (t : ElemTy) (s : State) : Out :=
  vopS vd sa (fun x => tabulate t fun _ => x.toNat % 2 ^ t.bits) s

/-- A lane as a scalar: sign-extended for i4 to i64. -/
def laneWord (t : ElemTy) (c : Nat) : Word := BitVec.ofInt 64 (t.toInt c)

/-- A register with lane n replaced. -/
def setLane (t : ElemTy) (x : VReg) (n : Nat) (w : Word) : VReg :=
  tabulate t fun i => if i = n then w.toNat % 2 ^ t.bits else laneAt t x i

def execVext (sd va sb : VNum) (t : ElemTy) (s : State) : Out :=
  gate [.s (sOf sb) false, .v va] [.s (sOf sd)] (vecPath 1 fun s =>
    writeAfter 5 (sOf sd) (laneWord t (laneAt t (s.slot.v va) ((s.slot.s (sOf sb)).toNat % t.lanes))) s) s

def execVextImm (sd va : VNum) (t : ElemTy) (i7 : BitVec 7) (s : State) : Out :=
  gate [.v va] [.s (sOf sd)] (vecPath 1 fun s =>
    writeAfter 5 (sOf sd) (laneWord t (laneAt t (s.slot.v va) i7.toNat)) s) s

def execVins (vd sa sb : VNum) (t : ElemTy) (s : State) : Out :=
  gate [.s (sOf sa) false, .s (sOf sb) false, .v vd] [.v vd] (vecPath vecPlain.cyc fun s =>
    let n := (s.slot.s (sOf sb)).toNat % t.lanes
    vecDone vecPlain.lat vd (setLane t (s.slot.v vd) n (s.slot.s (sOf sa))) 0 s) s

def execVinsImm (vd sa : VNum) (t : ElemTy) (i7 : BitVec 7) (s : State) : Out :=
  gate [.s (sOf sa) false, .v vd] [.v vd] (vecPath vecPlain.cyc fun s =>
    vecDone vecPlain.lat vd (setLane t (s.slot.v vd) i7.toNat (s.slot.s (sOf sa))) 0 s) s

end Sys2Proof.Machine
end

