-- ==== Sys2Proof/Machine/VectorReduce.lean ====
section
/-!
DEFINITION. Sys2Proof/Machine/VectorReduce.lean: reductions over the lanes of a register, major 0x29 (spec/11 R217).
-/
namespace Sys2Proof.Machine

/-- The present lanes of a register. -/
def presentLanes (t : ElemTy) (x : VReg) : List Nat := (lanes t x).filter fun c => !Ty.isAbsent (.el t) c

/-- The exact sum of float values, and NV for infinities of both signs or a signalling NaN. An exact zero is −0 if
every lane is −0, or under RDN. -/
def sumVals (r : Rnd) (vs : List Val) : Val × Nat :=
  if vs.any Val.isNan then (.nan false, if vs.any Val.isSig then fNV else 0)
  else
    let infs := vs.filter fun v => !v.isFin
    if infs.any Val.isNeg ∧ infs.any (fun v => !v.isNeg) then (.nan false, fNV)
    else
      match infs with
      | v :: _ => (v, 0)
      | [] =>
        let sum := vs.foldl (fun a v => (Val.add .rne a v).1) (.fin false 0 1 0)
        if sum.isZero then (.fin (vs.all (fun v => v.isZero && v.isNeg) || r == .rdn) 0 1 0, 0) else (sum, 0)

/-- A value divided exactly by a count. -/
def Val.over (v : Val) (n : Nat) : Val :=
  match v with
  | .fin s a d e => .fin s a (d * n) e
  | o => o

/-- Lane 0 of a float sum or mean. -/
def fltSum (t : ElemTy) (r : Rnd) (mean : Bool) (x : VReg) : VReg × Nat :=
  match presentLanes t x with
  | [] => (vecOf t.bits [(Ty.absent (.el t)).getD 0], 0)
  | cs =>
    let (v, f) := sumVals r (cs.map (Ty.decode (.el t)))
    let (c, g) := Ty.round (.el t) r (if mean then v.over cs.length else v)
    (vecOf t.bits [c], f ||| g)

/-- Lane 0 of an integer sum, modulo 2^64. -/
def intSum (t : ElemTy) (x : VReg) : VReg × Nat :=
  match presentLanes t x with
  | [] => (0, fNV)
  | cs => (vecOf 64 [((cs.map t.toInt).foldl (· + ·) 0 % 2 ^ 64).toNat], 0)

def execVsum (vd va : VNum) (t : ElemTy) (r : Rnd) (s : State) : Out :=
  vop1 vecReduce vd va (if t.isFloat then fltSum t r false else intSum t) s

/-- The larger or smaller of two codes of a type. -/
def pick (t : ElemTy) (isMin : Bool) (a b : Nat) : Nat × Nat :=
  if t.isFloat then fmaxCode (.el t) isMin a b
  else if isMin then (if t.toInt b < t.toInt a then b else a, 0) else (if t.toInt a < t.toInt b then b else a, 0)

/-- Lane 0 of an extremum; a single NaN gives the canonical NaN. -/
def extremum (t : ElemTy) (isMin : Bool) (x : VReg) : VReg × Nat :=
  match presentLanes t x with
  | [] => (vecOf t.bits [(Ty.absent (.el t)).getD 0], 0)
  | c :: cs =>
    let (m, f) := cs.foldl (fun (a, f) b =>
      let (r, g) := pick t isMin a b
      (r, f ||| g)) (pick t isMin c c)
    (vecOf t.bits [m], f)

def execVrmax (vd va : VNum) (t : ElemTy) (s : State) : Out := vop1 vecReduce vd va (extremum t false) s
def execVrmin (vd va : VNum) (t : ElemTy) (s : State) : Out := vop1 vecReduce vd va (extremum t true) s
def execVmean (vd va : VNum) (t : ElemTy) (r : Rnd) (s : State) : Out := vop1 vecReduce vd va (fltSum t r true) s
def execVcntp (vd va : VNum) (t : ElemTy) (s : State) : Out :=
  vop1 vecReduce vd va (fun x => (vecOf 32 [(presentLanes t x).length], 0)) s

end Sys2Proof.Machine
end

