-- ==== Sys2Proof/Machine/Dispatch.lean ====
section
/-!
DEFINITION. Sys2Proof/Machine/Dispatch.lean: one arm for each instruction and each other step of the part.
-/
namespace Sys2Proof.Machine

def exec (i : Instr) (s : State) : Host.Outcome State Fault Refusal :=
  match i with
  | .add d a b wa wb => Sys2Proof.Machine.execAdd d a b wa wb s
  | .sub d a b wa wb => Sys2Proof.Machine.execSub d a b wa wb s
  | .mul d a b wa wb => Sys2Proof.Machine.execMul d a b wa wb s
  | .mulh d a b wa wb => Sys2Proof.Machine.execMulh d a b wa wb s
  | .mulhn d a b wa wb => Sys2Proof.Machine.execMulhn d a b wa wb s
  | .div d a b wa wb => Sys2Proof.Machine.execDiv d a b wa wb s
  | .divn d a b wa wb => Sys2Proof.Machine.execDivn d a b wa wb s
  | .rem d a b wa wb => Sys2Proof.Machine.execRem d a b wa wb s
  | .remn d a b wa wb => Sys2Proof.Machine.execRemn d a b wa wb s
  | .and d a b wa wb => Sys2Proof.Machine.execAnd d a b wa wb s
  | .or d a b wa wb => Sys2Proof.Machine.execOr d a b wa wb s
  | .xor d a b wa wb => Sys2Proof.Machine.execXor d a b wa wb s
  | .andn d a b wa wb => Sys2Proof.Machine.execAndn d a b wa wb s
  | .orn d a b wa wb => Sys2Proof.Machine.execOrn d a b wa wb s
  | .shl d a b wa wb => Sys2Proof.Machine.execShl d a b wa wb s
  | .shr d a b wa wb => Sys2Proof.Machine.execShr d a b wa wb s
  | .sra d a b wa wb => Sys2Proof.Machine.execSra d a b wa wb s
  | .rol d a b wa wb => Sys2Proof.Machine.execRol d a b wa wb s
  | .ror d a b wa wb => Sys2Proof.Machine.execRor d a b wa wb s
  | .clz d a wa => Sys2Proof.Machine.execClz d a wa s
  | .ctz d a wa => Sys2Proof.Machine.execCtz d a wa s
  | .popc d a wa => Sys2Proof.Machine.execPopc d a wa s
  | .min d a b wa wb => Sys2Proof.Machine.execMin d a b wa wb s
  | .max d a b wa wb => Sys2Proof.Machine.execMax d a b wa wb s
  | .minn d a b wa wb => Sys2Proof.Machine.execMinn d a b wa wb s
  | .maxn d a b wa wb => Sys2Proof.Machine.execMaxn d a b wa wb s
  | .sext d a b wa wb => Sys2Proof.Machine.execSext d a b wa wb s
  | .zext d a b wa wb => Sys2Proof.Machine.execZext d a b wa wb s
  | .slt d a b wa wb => Sys2Proof.Machine.execSlt d a b wa wb s
  | .sltn d a b wa wb => Sys2Proof.Machine.execSltn d a b wa wb s
  | .seq d a b wa wb => Sys2Proof.Machine.execSeq d a b wa wb s
  | .sne d a b wa wb => Sys2Proof.Machine.execSne d a b wa wb s
  | .addi d a imm wa => Sys2Proof.Machine.execAddi d a imm wa s
  | .andi d a imm wa => Sys2Proof.Machine.execAndi d a imm wa s
  | .ori d a imm wa => Sys2Proof.Machine.execOri d a imm wa s
  | .xori d a imm wa => Sys2Proof.Machine.execXori d a imm wa s
  | .shli d a n wa => Sys2Proof.Machine.execShli d a n wa s
  | .shri d a n wa => Sys2Proof.Machine.execShri d a n wa s
  | .srai d a n wa => Sys2Proof.Machine.execSrai d a n wa s
  | .slti d a imm wa => Sys2Proof.Machine.execSlti d a imm wa s
  | .sltni d a imm wa => Sys2Proof.Machine.execSltni d a imm wa s
  | .lih d a imm wa => Sys2Proof.Machine.execLih d a imm wa s
  | .lea d h off => Sys2Proof.Machine.execLea d h off s
  | .winq d a wa => Sys2Proof.Machine.execWinq d a wa s
  | .wincLc d a wa => Sys2Proof.Machine.execWincLc d a wa s
  | .wincSh d a wa => Sys2Proof.Machine.execWincSh d a wa s
  | .addp d a b wa wb => Sys2Proof.Machine.execAddp d a b wa wb s
  | .ldl d z off => Sys2Proof.Machine.execLdl d z off s
  | .brEq a b off => Sys2Proof.Machine.execBrEq a b off s
  | .brNe a b off => Sys2Proof.Machine.execBrNe a b off s
  | .brLt a b off => Sys2Proof.Machine.execBrLt a b off s
  | .brGe a b off => Sys2Proof.Machine.execBrGe a b off s
  | .brLtn a b off => Sys2Proof.Machine.execBrLtn a b off s
  | .brGen a b off => Sys2Proof.Machine.execBrGen a b off s
  | .jmp off => Sys2Proof.Machine.execJmp off s
  | .jal off => Sys2Proof.Machine.execJal off s
  | .jr a wa => Sys2Proof.Machine.execJr a wa s
  | .jalr d a wa => Sys2Proof.Machine.execJalr d a wa s
  | .loop lvl a len => Sys2Proof.Machine.execLoop lvl a len s
  | .loopi lvl count len => Sys2Proof.Machine.execLoopi lvl count len s
  | .lbrk lvl => Sys2Proof.Machine.execLbrk lvl s
  | .yield => Sys2Proof.Machine.execYield s
  | .suspTag d a wa => Sys2Proof.Machine.execSuspTag d a wa s
  | .suspFull a wa => Sys2Proof.Machine.execSuspFull a wa s
  | .suspChg a b wa wb => Sys2Proof.Machine.execSuspChg a b wa wb s
  | .suspBar a wa => Sys2Proof.Machine.execSuspBar a wa s
  | .suspEng a wa => Sys2Proof.Machine.execSuspEng a wa s
  | .suspCall => Sys2Proof.Machine.execSuspCall s
  | .suspTime a wa => Sys2Proof.Machine.execSuspTime a wa s
  | .retire => Sys2Proof.Machine.execRetire s
  | .spawn d a b wa wb => Sys2Proof.Machine.execSpawn d a b wa wb s
  | .wake d a wa => Sys2Proof.Machine.execWake d a wa s
  | .recp d => Sys2Proof.Machine.execRecp d s
  | .topo d => Sys2Proof.Machine.execTopo d s
  | .ctxid d => Sys2Proof.Machine.execCtxid d s
  | .stage d => Sys2Proof.Machine.execStage d s
  | .time d => Sys2Proof.Machine.execTime d s
  | .cyc d => Sys2Proof.Machine.execCyc d s
  | .csrrd d c => Sys2Proof.Machine.execCsrrd d c s
  | .csrwr d c a wa => Sys2Proof.Machine.execCsrwr d c a wa s
  | .csrset d c a wa => Sys2Proof.Machine.execCsrset d c a wa s
  | .csrclr d c a wa => Sys2Proof.Machine.execCsrclr d c a wa s
  | .ld d base wa z off => Sys2Proof.Machine.execLd d base wa z off s
  | .st d base wa z off => Sys2Proof.Machine.execSt d base wa z off s
  | .ldf d base wa off => Sys2Proof.Machine.execLdf d base wa off s
  | .ldfe d base wa off => Sys2Proof.Machine.execLdfe d base wa off s
  | .ste d base wa off => Sys2Proof.Machine.execSte d base wa off s
  | .stf d base wa off => Sys2Proof.Machine.execStf d base wa off s
  | .feClr d base wa off => Sys2Proof.Machine.execFeClr d base wa off s
  | .feTst d base wa off => Sys2Proof.Machine.execFeTst d base wa off s
  | .waita d base wa off => Sys2Proof.Machine.execWaita d base wa off s
  | .pref base wa off => Sys2Proof.Machine.execPref base wa off s
  | .refq d base wa off => Sys2Proof.Machine.execRefq d base wa off s
  | .amoAdd d a b wa wb sc ty => Sys2Proof.Machine.execAmoAdd d a b wa wb sc ty s
  | .amoAnd d a b wa wb sc ty => Sys2Proof.Machine.execAmoAnd d a b wa wb sc ty s
  | .amoOr d a b wa wb sc ty => Sys2Proof.Machine.execAmoOr d a b wa wb sc ty s
  | .amoXor d a b wa wb sc ty => Sys2Proof.Machine.execAmoXor d a b wa wb sc ty s
  | .amoMin d a b wa wb sc ty => Sys2Proof.Machine.execAmoMin d a b wa wb sc ty s
  | .amoMax d a b wa wb sc ty => Sys2Proof.Machine.execAmoMax d a b wa wb sc ty s
  | .amoMinn d a b wa wb sc ty => Sys2Proof.Machine.execAmoMinn d a b wa wb sc ty s
  | .amoMaxn d a b wa wb sc ty => Sys2Proof.Machine.execAmoMaxn d a b wa wb sc ty s
  | .amoXchg d a b wa wb sc ty => Sys2Proof.Machine.execAmoXchg d a b wa wb sc ty s
  | .amoCas d a b wa wb sc ty => Sys2Proof.Machine.execAmoCas d a b wa wb sc ty s
  | .amoFadd d a b wa wb sc ty => Sys2Proof.Machine.execAmoFadd d a b wa wb sc ty s
  | .amoFmax d a b wa wb sc ty => Sys2Proof.Machine.execAmoFmax d a b wa wb sc ty s
  | .amoFmin d a b wa wb sc ty => Sys2Proof.Machine.execAmoFmin d a b wa wb sc ty s
  | .amoAmaxx d a wa sc ty => Sys2Proof.Machine.execAmoAmaxx d a wa sc ty s
  | .redAdd a b wa wb ty => Sys2Proof.Machine.execRedAdd a b wa wb ty s
  | .redFadd a b wa wb ty => Sys2Proof.Machine.execRedFadd a b wa wb ty s
  | .redFmax a b wa wb ty => Sys2Proof.Machine.execRedFmax a b wa wb ty s
  | .fence pred succ peng seng sc => Sys2Proof.Machine.execFence pred succ peng seng sc s
  | .fenceSc sc => Sys2Proof.Machine.execFenceSc sc s
  | .bini a b wa wb => Sys2Proof.Machine.execBini a b wa wb s
  | .barv d a wa => Sys2Proof.Machine.execBarv d a wa s
  | .bard d a wa => Sys2Proof.Machine.execBard d a wa s
  | .bwait d a b wa wb => Sys2Proof.Machine.execBwait d a b wa wb s
  | .btst d a b wa wb => Sys2Proof.Machine.execBtst d a b wa wb s
  | .pbarv d a wa => Sys2Proof.Machine.execPbarv d a wa s
  | .send d a b wa wb => Sys2Proof.Machine.execSend d a b wa wb s
  | .sendv v a b wa wb => Sys2Proof.Machine.execSendv v a b wa wb s
  | .post a b wa wb => Sys2Proof.Machine.execPost a b wa wb s
  | .unpost d a wa => Sys2Proof.Machine.execUnpost d a wa s
  | .probe d a wa => Sys2Proof.Machine.execProbe d a wa s
  | .leesPop d a wa => Sys2Proof.Machine.execLeesPop d a wa s
  | .leesCnt d => Sys2Proof.Machine.execLeesCnt d s
  | .mcst d a b wa wb => Sys2Proof.Machine.execMcst d a b wa wb s
  | .sysc d a b wa wb => Sys2Proof.Machine.execSysc d a b wa wb s
  | .trap a wa => Sys2Proof.Machine.execTrap a wa s
  | .brk n => Sys2Proof.Machine.execBrk n s
  | .idle a wa => Sys2Proof.Machine.execIdle a wa s
  | .halt d a wa => Sys2Proof.Machine.execHalt d a wa s
  | .resume d a wa => Sys2Proof.Machine.execResume d a wa s
  | .pwrqF d => Sys2Proof.Machine.execPwrqF d s
  | .rampq d => Sys2Proof.Machine.execRampq d s
  | .skim a b wa wb => Sys2Proof.Machine.execSkim a b wa wb s
  | .clkm d a wa => Sys2Proof.Machine.execClkm d a wa s
  | .pwrqN d => Sys2Proof.Machine.execPwrqN d s
  | .vld vd sa i7 => Sys2Proof.Machine.execVld vd sa i7 s
  | .vst vd sa i7 => Sys2Proof.Machine.execVst vd sa i7 s
  | .vlds vd sa sb t => Sys2Proof.Machine.execVlds vd sa sb t s
  | .vsts vd sa sb t => Sys2Proof.Machine.execVsts vd sa sb t s
  | .vgath vd sa vb t => Sys2Proof.Machine.execVgath vd sa vb t s
  | .vscat vd sa vb t => Sys2Proof.Machine.execVscat vd sa vb t s
  | .vadd vd va vb t r => Sys2Proof.Machine.execVadd vd va vb t r s
  | .vsub vd va vb t r => Sys2Proof.Machine.execVsub vd va vb t r s
  | .vmul vd va vb t r => Sys2Proof.Machine.execVmul vd va vb t r s
  | .vdiv vd va vb t r => Sys2Proof.Machine.execVdiv vd va vb t r s
  | .vmin vd va vb t => Sys2Proof.Machine.execVmin vd va vb t s
  | .vmax vd va vb t => Sys2Proof.Machine.execVmax vd va vb t s
  | .vmag vd va t => Sys2Proof.Machine.execVmag vd va t s
  | .vneg vd va t => Sys2Proof.Machine.execVneg vd va t s
  | .vfma vd va vb t r => Sys2Proof.Machine.execVfma vd va vb t r s
  | .vfms vd va vb t r => Sys2Proof.Machine.execVfms vd va vb t r s
  | .vfnma vd va vb t r => Sys2Proof.Machine.execVfnma vd va vb t r s
  | .vaddInt vd va vb t => Sys2Proof.Machine.execVaddInt vd va vb t s
  | .vsubInt vd va vb t => Sys2Proof.Machine.execVsubInt vd va vb t s
  | .vmulInt vd va vb t => Sys2Proof.Machine.execVmulInt vd va vb t s
  | .vminInt vd va vb t => Sys2Proof.Machine.execVminInt vd va vb t s
  | .vmaxInt vd va vb t => Sys2Proof.Machine.execVmaxInt vd va vb t s
  | .vmagInt vd va t => Sys2Proof.Machine.execVmagInt vd va t s
  | .vnegInt vd va t => Sys2Proof.Machine.execVnegInt vd va t s
  | .vand vd va vb => Sys2Proof.Machine.execVand vd va vb s
  | .vor vd va vb => Sys2Proof.Machine.execVor vd va vb s
  | .vxor vd va vb => Sys2Proof.Machine.execVxor vd va vb s
  | .vnot vd va => Sys2Proof.Machine.execVnot vd va s
  | .vshl vd va vb t => Sys2Proof.Machine.execVshl vd va vb t s
  | .vshr vd va vb t => Sys2Proof.Machine.execVshr vd va vb t s
  | .vsra vd va vb t => Sys2Proof.Machine.execVsra vd va vb t s
  | .vcmpEq vd va vb t => Sys2Proof.Machine.execVcmpEq vd va vb t s
  | .vcmpNe vd va vb t => Sys2Proof.Machine.execVcmpNe vd va vb t s
  | .vcmpLt vd va vb t => Sys2Proof.Machine.execVcmpLt vd va vb t s
  | .vcmpLe vd va vb t => Sys2Proof.Machine.execVcmpLe vd va vb t s
  | .vcmpGt vd va vb t => Sys2Proof.Machine.execVcmpGt vd va vb t s
  | .vcmpGe vd va vb t => Sys2Proof.Machine.execVcmpGe vd va vb t s
  | .vcmpAb vd va t => Sys2Proof.Machine.execVcmpAb vd va t s
  | .vcmpNan vd va t => Sys2Proof.Machine.execVcmpNan vd va t s
  | .vsel vd va vb t => Sys2Proof.Machine.execVsel vd va vb t s
  | .vcvt vd va src dst r p => Sys2Proof.Machine.execVcvt vd va src dst r p s
  | .vcvtX3109Std vd va p => Sys2Proof.Machine.execVcvtX3109Std vd va p s
  | .vcvtX3109Dev vd va p => Sys2Proof.Machine.execVcvtX3109Dev vd va p s
  | .vdqntMx vd va vb t r p => Sys2Proof.Machine.execVdqntMx vd va vb t r p s
  | .vdqntNat vd va vb t r p => Sys2Proof.Machine.execVdqntNat vd va vb t r p s
  | .vsclMx vd va t p => Sys2Proof.Machine.execVsclMx vd va t p s
  | .vsclNat vd va t p => Sys2Proof.Machine.execVsclNat vd va t p s
  | .vqntMx vd va vb t r p => Sys2Proof.Machine.execVqntMx vd va vb t r p s
  | .vqntNat vd va vb t r p => Sys2Proof.Machine.execVqntNat vd va vb t r p s
  | .vsum vd va t r => Sys2Proof.Machine.execVsum vd va t r s
  | .vrmax vd va t => Sys2Proof.Machine.execVrmax vd va t s
  | .vrmin vd va t => Sys2Proof.Machine.execVrmin vd va t s
  | .vmean vd va t r => Sys2Proof.Machine.execVmean vd va t r s
  | .vcntp vd va t => Sys2Proof.Machine.execVcntp vd va t s
  | .vrcp vd va t => Sys2Proof.Machine.execVrcp vd va t s
  | .vrsq vd va t => Sys2Proof.Machine.execVrsq vd va t s
  | .vsqrt vd va t r => Sys2Proof.Machine.execVsqrt vd va t r s
  | .vexp2 vd va t => Sys2Proof.Machine.execVexp2 vd va t s
  | .vlog2 vd va t => Sys2Proof.Machine.execVlog2 vd va t s
  | .vtanh vd va t => Sys2Proof.Machine.execVtanh vd va t s
  | .vperm vd va vb t => Sys2Proof.Machine.execVperm vd va vb t s
  | .vshufZl vd va vb t => Sys2Proof.Machine.execVshufZl vd va vb t s
  | .vshufZh vd va vb t => Sys2Proof.Machine.execVshufZh vd va vb t s
  | .vshufUe vd va vb t => Sys2Proof.Machine.execVshufUe vd va vb t s
  | .vshufUo vd va vb t => Sys2Proof.Machine.execVshufUo vd va vb t s
  | .vrot vd va sb t => Sys2Proof.Machine.execVrot vd va sb t s
  | .viota vd sa t => Sys2Proof.Machine.execViota vd sa t s
  | .vrotImm vd va t i7 => Sys2Proof.Machine.execVrotImm vd va t i7 s
  | .vfill vd t i7 => Sys2Proof.Machine.execVfill vd t i7 s
  | .vmkab vd va t p => Sys2Proof.Machine.execVmkab vd va t p s
  | .vmkabTail vd sa t p => Sys2Proof.Machine.execVmkabTail vd sa t p s
  | .vtsab vd va t p => Sys2Proof.Machine.execVtsab vd va t p s
  | .vbcast vd sa t => Sys2Proof.Machine.execVbcast vd sa t s
  | .vext sd va sb t => Sys2Proof.Machine.execVext sd va sb t s
  | .vins vd sa sb t => Sys2Proof.Machine.execVins vd sa sb t s
  | .vextImm sd va t i7 => Sys2Proof.Machine.execVextImm sd va t i7 s
  | .vinsImm vd sa t i7 => Sys2Proof.Machine.execVinsImm vd sa t i7 s
  | .ecw e a n => Sys2Proof.Machine.execEcw e a n s
  | .ecr e d n => Sys2Proof.Machine.execEcr e d n s
  | .mma a b p => Sys2Proof.Machine.execMma a b p s
  | .mmas a b p => Sys2Proof.Machine.execMmas a b p s
  | .mzero p => Sys2Proof.Machine.execMzero p s
  | .mwait d => Sys2Proof.Machine.execMwait d s
  | .mqry d => Sys2Proof.Machine.execMqry d s
  | .mld a p => Sys2Proof.Machine.execMld a p s
  | .mdrain a p => Sys2Proof.Machine.execMdrain a p s
  | .mldRaw a p => Sys2Proof.Machine.execMldRaw a p s
  | .mdrainRaw a p => Sys2Proof.Machine.execMdrainRaw a p s
  | .mdrainRows a p => Sys2Proof.Machine.execMdrainRows a p s
  | .cpy a b d => Sys2Proof.Machine.execCpy a b d s
  | .cpyHs a b d => Sys2Proof.Machine.execCpyHs a b d s
  | .cpyHd a b d => Sys2Proof.Machine.execCpyHd a b d s
  | .cpyHsd a b d => Sys2Proof.Machine.execCpyHsd a b d s
  | .cpyb a b d => Sys2Proof.Machine.execCpyb a b d s
  | .cpybHs a b d => Sys2Proof.Machine.execCpybHs a b d s
  | .cpybHd a b d => Sys2Proof.Machine.execCpybHd a b d s
  | .cpybHsd a b d => Sys2Proof.Machine.execCpybHsd a b d s
  | .dcnt a b d => Sys2Proof.Machine.execDcnt a b d s
  | .rack d a => Sys2Proof.Machine.execRack d a s
  | .vntqBind d => Sys2Proof.Machine.execVntqBind d s
  | .vntqDrop a => Sys2Proof.Machine.execVntqDrop a s
  | .vntqCur d => Sys2Proof.Machine.execVntqCur d s
  | .vntqSt d a => Sys2Proof.Machine.execVntqSt d a s
  | .ewait e d => Sys2Proof.Machine.execEwait e d s
  | .eqry e d => Sys2Proof.Machine.execEqry e d s
  | .launch => Sys2Proof.Machine.execLaunch s
  | .dispatch => Sys2Proof.Machine.execDispatch s
  | .controlIntervalStart => Sys2Proof.Machine.execControlIntervalStart s
  | .ageingPromotion => Sys2Proof.Machine.execAgeingPromotion s
  | .waitConditionMet => Sys2Proof.Machine.execWaitConditionMet s
  | .timeWaitExpiry => Sys2Proof.Machine.execTimeWaitExpiry s
  | .lateDelivery => Sys2Proof.Machine.execLateDelivery s
  | .stallLimitExpiry => Sys2Proof.Machine.execStallLimitExpiry s
  | .instructionLineFill => Sys2Proof.Machine.execInstructionLineFill s
  | .messageArrival => Sys2Proof.Machine.execMessageArrival s
  | .sendAnswer => Sys2Proof.Machine.execSendAnswer s
  | .spawnRequest => Sys2Proof.Machine.execSpawnRequest s
  | .wakeRequest => Sys2Proof.Machine.execWakeRequest s
  | .bankAccess => Sys2Proof.Machine.execBankAccess s
  | .accessRetry => Sys2Proof.Machine.execAccessRetry s
  | .atomicAtHome => Sys2Proof.Machine.execAtomicAtHome s
  | .reductionContribution => Sys2Proof.Machine.execReductionContribution s
  | .accessAcknowledge => Sys2Proof.Machine.execAccessAcknowledge s
  | .barrierArrival => Sys2Proof.Machine.execBarrierArrival s
  | .barrierRefusal => Sys2Proof.Machine.execBarrierRefusal s
  | .copyChunk => Sys2Proof.Machine.execCopyChunk s
  | .copyCompletion => Sys2Proof.Machine.execCopyCompletion s
  | .decantChunk => Sys2Proof.Machine.execDecantChunk s
  | .decantCompletion => Sys2Proof.Machine.execDecantCompletion s
  | .matrixGrant => Sys2Proof.Machine.execMatrixGrant s
  | .matrixStepEnd => Sys2Proof.Machine.execMatrixStepEnd s
  | .matrixCommandCompletion => Sys2Proof.Machine.execMatrixCommandCompletion s
  | .rampPeriod => Sys2Proof.Machine.execRampPeriod s
  | .skimTailPeriod => Sys2Proof.Machine.execSkimTailPeriod s
  | .translationMiss => Sys2Proof.Machine.execTranslationMiss s
  | .translationFill => Sys2Proof.Machine.execTranslationFill s
  | .faultBatchAnswer => Sys2Proof.Machine.execFaultBatchAnswer s
  | .translationInvalidation => Sys2Proof.Machine.execTranslationInvalidation s
  | .trapRingSpace => Sys2Proof.Machine.execTrapRingSpace s
  | .cellarRead => Sys2Proof.Machine.execCellarRead s
  | .cellarWrite => Sys2Proof.Machine.execCellarWrite s
  | .cellarStep => Sys2Proof.Machine.execCellarStep s
  | .cellarResume => Sys2Proof.Machine.execCellarResume s
  | .freeze => Sys2Proof.Machine.execFreeze s
  | .thaw => Sys2Proof.Machine.execThaw s
  | .cellarRetireRecord => Sys2Proof.Machine.execCellarRetireRecord s
  | .taskKill => Sys2Proof.Machine.execTaskKill s
  | .plotKill => Sys2Proof.Machine.execPlotKill s
  | .quiesceTimeout => Sys2Proof.Machine.execQuiesceTimeout s
  | .containmentReset => Sys2Proof.Machine.execContainmentReset s
  | .packetHop => Sys2Proof.Machine.execPacketHop s
  | .boundaryRefusal => Sys2Proof.Machine.execBoundaryRefusal s
  | .engineRefusal => Sys2Proof.Machine.execEngineRefusal s
  | .engineResume => Sys2Proof.Machine.execEngineResume s
  | .engineCommandDiscard => Sys2Proof.Machine.execEngineCommandDiscard s
  | .linkRetry => Sys2Proof.Machine.execLinkRetry s
  | .uncorrectableError => Sys2Proof.Machine.execUncorrectableError s
  | .swap => Sys2Proof.Machine.execSwap s
  | .contextMove => Sys2Proof.Machine.execContextMove s
  | .coreLost => Sys2Proof.Machine.execCoreLost s
  | .columnShift => Sys2Proof.Machine.execColumnShift s
  | .bankRepair => Sys2Proof.Machine.execBankRepair s
  | .laneRepair => Sys2Proof.Machine.execLaneRepair s
  | .cellarCoreSpare => Sys2Proof.Machine.execCellarCoreSpare s
  | .trellisPortSpare => Sys2Proof.Machine.execTrellisPortSpare s
  | .droopStretch => Sys2Proof.Machine.execDroopStretch s
  | .plumbMargin => Sys2Proof.Machine.execPlumbMargin s
  | .elasticResume => Sys2Proof.Machine.execElasticResume s
  | .reverseBias => Sys2Proof.Machine.execReverseBias s
  | .boostGrant => Sys2Proof.Machine.execBoostGrant s
  | .staggerSlotTime => Sys2Proof.Machine.execStaggerSlotTime s
  | .refreshWindowStart => Sys2Proof.Machine.execRefreshWindowStart s
  | .refreshWindowEnd => Sys2Proof.Machine.execRefreshWindowEnd s
  | .timeSyncMessage => Sys2Proof.Machine.execTimeSyncMessage s
  | .ueMessage => Sys2Proof.Machine.execUeMessage s
  | .storageDma => Sys2Proof.Machine.execStorageDma s
  | .hostAccess => Sys2Proof.Machine.execHostAccess s
  | .jobSubmission => Sys2Proof.Machine.execJobSubmission s
  | .createBarrier => Sys2Proof.Machine.execCreateBarrier s
  | .freeHandle => Sys2Proof.Machine.execFreeHandle s
  | .createCopyRegion => Sys2Proof.Machine.execCreateCopyRegion s
  | .createReplicaSet => Sys2Proof.Machine.execCreateReplicaSet s
  | .createVintage => Sys2Proof.Machine.execCreateVintage s
  | .createRing => Sys2Proof.Machine.execCreateRing s
  | .writeRampTable => Sys2Proof.Machine.execWriteRampTable s
  | .launchCall => Sys2Proof.Machine.execLaunchCall s
  | .attest => Sys2Proof.Machine.execAttest s
  | .consoleWrite => Sys2Proof.Machine.execConsoleWrite s
  | .offerWindow => Sys2Proof.Machine.execOfferWindow s
  | .acceptWindow => Sys2Proof.Machine.execAcceptWindow s
  | .withdrawWindow => Sys2Proof.Machine.execWithdrawWindow s
  | .unknownCall => Sys2Proof.Machine.execUnknownCall s
  | .syscReply => Sys2Proof.Machine.execSyscReply s
  | .bindRecordWrite => Sys2Proof.Machine.execBindRecordWrite s
  | .launchTableWrite => Sys2Proof.Machine.execLaunchTableWrite s
  | .managementSettingWrite => Sys2Proof.Machine.execManagementSettingWrite s
  | .moduleBoot => Sys2Proof.Machine.execModuleBoot s
  | .illegalWord => Sys2Proof.Machine.execIllegalWord s
  | .idleTimeReached => Sys2Proof.Machine.execIdleTimeReached s
  | .tileLost => Sys2Proof.Machine.execTileLost s

end Sys2Proof.Machine
end

