-- ==== Sys2Proof/Machine/Step.lean ====
section
/-!
DEFINITION. Sys2Proof/Machine/Step.lean: one step of the machine, and a state whose next step runs a given word.
-/
namespace Sys2Proof.Machine

/-- A move made: an instruction that the cellar executes on a halted slot, or another step of the part. Nothing else can
be asked for from outside. -/
def runMove (m : Move) (s : State) : Host.Outcome State Fault Refusal :=
  match m.loc with
  | some l =>
    if isCellars m.i && (s.getSlot l).mode == .halted then exec m.i (({ s with arg := .none } : State).focus l) else .next s
  | none => if isEvent m.i then exec m.i { s with arg := m.arg } else .next s

/-- A slot's turn: the instruction at its PC is fetched and run, or the slot halts or waits. -/
def runTurn (s : State) : Host.Outcome State Fault Refusal :=
  match s.fetch with
  | .stop t => .next (t.endTurn s.cur)
  | .run i t =>
    match exec i t with
    | .next u => .next (u.endTurn s.cur)
    | o => o

/-- ONE STEP. -/
def step (s : State) : Host.Outcome State Fault Refusal :=
  match s.turn with
  | .move m rest => runMove m { s with agenda := rest }
  | .auto i a => exec i { s with arg := a }
  | .issue l => runTurn (s.takeTurn l)
  | .idle => .next s.tick

/-! ### A word where the next step fetches it (log 32) -/

/-- A plot of one tile at the origin. -/
def wordPlot : Plot where
  num := 0
  tenant := 0
  asid := 0
  x0 := 0
  y0 := 0
  w := 1
  h := 1
  plumb := false
  epoch := 0
  lastStage := 0
  handles := []
  offers := []
  nextOffer := 1
  digest := []
  imageVa := 0
  frozen := false
  frozenStages := []
  clock := none
  margin := none
  marginTile := 0
  killing := none
  strong := []
  casks := []
  started := true

/-- The record that runs: record 0 of queue 0 at 0x4_0000, in state 2. -/
def wordCtx : Ctx :=
  { Ctx.reset with
    plot := some 0
    binds := vset Ctx.reset.binds 0 (BitVec.ofNat 64 (2 ^ 63 + 2 ^ 48 + 0x40000), BitVec.ofNat 64 (2 ^ 16 + 1))
    spad := Memory.writeN [] 0x40000 (leBytes 8 (2 * 2 ^ 60)) }

/-- The refresh windows as they stand at a time (spec/06 R103). -/
def windowsAt (now : Nat) : BitVec 8 :=
  (List.range 8).foldl (fun r b => setBit r b (inWindow b now)) 0

/-- The machine with a word stored at virtual address 0 of a running record, in translated and resident code, with
nothing else to be done before its turn. -/
def State.withFetchWord (s : State) (nbits w : Nat) : State :=
  let x : Tile := { Tile.reset with
    ctx := wordCtx
    interval := intervalOf s.wafer.time
    tlb := [⟨0, 0, 12, 0, 0, true, false, true⟩]
    icache := [(0, 0)] }
  { s with
    cur := ⟨0, 0, 0⟩
    slot := { Slot.reset with mode := .running, run := ⟨0, 0, 0x40000⟩ }
    tile := x
    wafer := { s.wafer with
      boot := .running
      tiles := []
      plots := [wordPlot]
      xlates := []
      heldDma := []
      heldPeer := []
      interval := intervalOf s.wafer.time
      refresh := windowsAt s.wafer.time
      edge := Memory.writeN s.wafer.edge 0 (leBytes (nbits / 8) w) }
    flights := []
    agenda := [] }

end Sys2Proof.Machine
end

