-- ==== Sys2Proof/Safety.lean ====
section
/-!
DEFINITION. Sys2Proof/Safety.lean: what counts as a well-kept state and as a safe run, in the terms that claims use.
-/
namespace Sys2Proof.Machine

/-- The scratchpad of a context is in canonical form. -/
def Ctx.memWf (c : Ctx) : Bool := Memory.wf c.spad

/-- The memories of a tile are in canonical form: scratchpad, both cask halves, and the waiting contexts. -/
def Tile.memWf (x : Tile) : Bool :=
  x.ctx.memWf && Memory.wf x.caskA && Memory.wf x.caskB
    && x.shadowA.all (fun y => y.ctx.memWf) && x.shadowB.all fun y => y.ctx.memWf

/-- Every byte memory of the machine and its tables of tiles and dies are in canonical form, so that equal memories are
equal data. -/
def State.memWf (s : State) : Bool :=
  Sparse.wf Tile.reset s.wafer.tiles && Sparse.wf Die.reset s.wafer.dies && Memory.wf s.wafer.edge && Memory.wf s.wafer.host && s.tile.memWf && (s.wafer.tiles.all fun x => x.2.memWf)
    && s.wafer.away.all fun y => y.2.2.ctx.memWf

/-- An instruction is held up by none of its registers: every source is full and its value is readable in this cycle, no
source and no destination was left empty by a failed load, and no destination is still owed by a long-latency producer
(spec/03 R43, R44; spec/04 R86; spec/18 R305). -/
def State.ready (s : State) (srcs : List Src) (dests : List Dest) : Bool :=
  srcs.all (fun a => !s.slot.srcEmpty a && s.slot.srcReady s.now a)
    && (s.slot.failedReg (srcs.map Src.dest ++ dests)).isNone && dests.all fun d => !s.producing d

/-- Wafer time does not go back from one state to another (spec/16 R270). -/
def timeKept (s s' : State) : Prop := s.wafer.time ≤ s'.wafer.time

/-- A run of steps. -/
inductive Reaches : State → State → Prop where
  | refl (s : State) : Reaches s s
  | next {s t u : State} (h : Reaches s t) (e : step t = .next u) : Reaches s u

/-- A state from which the machine goes on for good: no step of a run from it stops. -/
def Safe (s : State) : Prop := ∀ t, Reaches s t → ∃ u, step t = .next u

end Sys2Proof.Machine
end

