-- ==== Sys2Proof/Certificates/Slice0/Obligations.lean ====
section
/-!
DEFINITION. Sys2Proof/Certificates/Slice0/Obligations.lean: the statements for the provers, and the shapes they share.
Each cites the rules of spec/ that it formalises.
-/
namespace Sys2Proof.Claims
open Sys2Proof.Machine Host

/-! ### Shapes that statements share -/

/-- An instruction of two sources and a destination, with its w bits. -/
abbrev Form2 := Reg → Reg → Reg → Bool → Bool → Instr

/-- The amount of a shift, rotate or extension: s[b][5:0] (spec/04 R65). -/
def amount (y : Word) : Nat := y.toNat % 64

/-- Major 0x01 but for products, quotients, remainders and bit counts: each mnemonic with its result, exact and then
narrowed, as spec/04 R65 writes it. -/
def aluRows : List (Form2 × (Word → Word → Word)) := [
  (.add, fun x y => BitVec.ofNat 64 (x.toNat + y.toNat)),
  (.sub, fun x y => BitVec.ofInt 64 ((x.toNat : Int) - y.toNat)),
  (.and, fun x y => x &&& y),
  (.or, fun x y => x ||| y),
  (.xor, fun x y => x ^^^ y),
  (.andn, fun x y => x &&& ~~~y),
  (.orn, fun x y => x ||| ~~~y),
  (.shl, fun x y => BitVec.ofNat 64 (x.toNat * 2 ^ amount y)),
  (.shr, fun x y => BitVec.ofNat 64 (x.toNat / 2 ^ amount y)),
  (.sra, fun x y => BitVec.ofInt 64 (x.toInt / 2 ^ amount y)),
  (.rol, fun x y => x.rotateLeft (amount y)),
  (.ror, fun x y => x.rotateRight (amount y)),
  (.min, fun x y => if x.toInt ≤ y.toInt then x else y),
  (.max, fun x y => if x.toInt ≥ y.toInt then x else y),
  (.minn, fun x y => if x.toNat ≤ y.toNat then x else y),
  (.maxn, fun x y => if x.toNat ≥ y.toNat then x else y),
  (.sext, fun x y => if amount y = 0 then x else (x.setWidth (amount y)).signExtend 64),
  (.zext, fun x y => if amount y = 0 then x else (x.setWidth (amount y)).setWidth 64),
  (.slt, fun x y => if x.toInt < y.toInt then 1 else 0),
  (.sltn, fun x y => if x.toNat < y.toNat then 1 else 0),
  (.seq, fun x y => if x = y then 1 else 0),
  (.sne, fun x y => if x = y then 0 else 1)]

/-- The products (spec/04 R65): the low half, and the high halves of the 128-bit signed and unsigned products. -/
def mulRows : List (Form2 × (Word → Word → Word)) := [
  (.mul, fun x y => BitVec.ofNat 64 (x.toNat * y.toNat)),
  (.mulh, fun x y => ((x.signExtend 128 * y.signExtend 128) >>> 64).setWidth 64),
  (.mulhn, fun x y => ((x.setWidth 128 * y.setWidth 128) >>> 64).setWidth 64)]

/-- The quotients and remainders (spec/04 R65), with the divisor 0 and −2^63 ÷ −1 apart. -/
def divRows : List (Form2 × (Word → Word → Word)) := [
  (.div, fun x y => if y = 0 then BitVec.allOnes 64 else if x.toInt = -2 ^ 63 ∧ y.toInt = -1 then x
    else BitVec.ofInt 64 (x.toInt.tdiv y.toInt)),
  (.rem, fun x y => if y = 0 then x else if x.toInt = -2 ^ 63 ∧ y.toInt = -1 then 0
    else BitVec.ofInt 64 (x.toInt - y.toInt * x.toInt.tdiv y.toInt)),
  (.divn, fun x y => if y = 0 then BitVec.allOnes 64 else BitVec.ofNat 64 (x.toNat / y.toNat)),
  (.remn, fun x y => if y = 0 then x else BitVec.ofNat 64 (x.toNat - y.toNat * (x.toNat / y.toNat)))]

end Sys2Proof.Claims

open Sys2Proof Sys2Proof.Machine Sys2Proof.Claims in
/-- Majors 0x01 and its products and quotients: results, latencies and whole next state.
mul, mulh and mulhn write the halves of the product, readable 3 cycles after issue; div, divn, rem and remn write the
quotient or remainder of R65 (divisor 0 and the one signed overflow included), readable 34 cycles after issue, and
take the divider of the core for 34 cycles; while it is taken, a divide stalls: the slot holds and nothing else
changes. For add, sub, and, or, xor, andn, orn, shl, shr, sra, rol, ror, min, max, minn, maxn, sext, zext, slt, sltn,
seq and sne, with every operand and w bit: where both sources are full and readable and the destination is owed
nothing, the step answers the state with the result of R65 written to sD (s0 discards it) and the instruction
completed, and nothing else changed. clz, ctz and popc write the number of leading zero bits, of trailing zero bits
(64 each when the source is 0) and of one bits, and complete with nothing else changed.
(R63, R64, R65, R86.) -/
def Obligations.AluResult : Prop :=
  ((∀ row ∈ mulRows, ∀ (d a b : Reg) (wa wb : Bool) (s : State), s.ready [.s a wa, .s b wb] [.s d] = true →
    exec (row.1 d a b wa wb) s =
      .next (s.onCur fun x => x.writeFrom d (row.2 (s.slot.s a) (s.slot.s b)) (s.now + 3)).advance) ∧
  (∀ row ∈ divRows, ∀ (d a b : Reg) (wa wb : Bool) (s : State), s.ready [.s a wa, .s b wb] [.s d] = true →
    (vget s.tile.ctx.divAt s.cur.core 0 ≤ s.now →
      exec (row.1 d a b wa wb) s =
        .next (s.divide.onCur fun x => x.writeFrom d (row.2 (s.slot.s a) (s.slot.s b)) (s.now + 34)).advance) ∧
    (s.now < vget s.tile.ctx.divAt s.cur.core 0 → exec (row.1 d a b wa wb) s = stalled s))) ∧
  ((∀ row ∈ aluRows, ∀ (d a b : Reg) (wa wb : Bool) (s : State), s.ready [.s a wa, .s b wb] [.s d] = true →
    exec (row.1 d a b wa wb) s = .next (s.write d (row.2 (s.slot.s a) (s.slot.s b))).advance) ∧
  (∀ (d a : Reg) (wa : Bool) (s : State), s.ready [.s a wa] [.s d] = true →
    exec (.clz d a wa) s = .next (s.write d (s.slot.s a).clz).advance ∧
    exec (.ctz d a wa) s = .next (s.write d (s.slot.s a).ctz).advance ∧
    exec (.popc d a wa) s = .next (s.write d (s.slot.s a).cpop).advance))

open Sys2Proof Sys2Proof.Machine Sys2Proof.Claims in
/-- The immediate forms, majors 0x02 to 0x09.
addi, andi, ori and xori with the immediate sign-extended from 15 bits; shli, shri and srai with a constant amount;
slti with a signed and sltni with an unsigned 14-bit immediate; lih with the sign-extended immediate shifted left by
49: each writes its result and completes with nothing else changed. lea writes the PC with bits [2:0] cleared + off ×
8 + 4 × size[18], and completes with nothing else changed, whatever the page of its target: that it makes no access
and so takes no PAGE_FAULT or PROTECTION, which R51 names for it and R70 does not, is the model's choice (log 62).
(R51, R66, R67, R68, R69, R70.) -/
def Obligations.ImmediateResult : Prop :=
  (∀ (d a : Reg) (imm : BitVec 15) (k : BitVec 14) (n : BitVec 6) (wa : Bool) (s : State), s.ready [.s a wa] [.s d] = true →
    let x := s.slot.s a
    exec (.addi d a imm wa) s = .next (s.write d (BitVec.ofInt 64 (x.toNat + imm.toInt))).advance ∧
    exec (.andi d a imm wa) s = .next (s.write d (x &&& imm.signExtend 64)).advance ∧
    exec (.ori d a imm wa) s = .next (s.write d (x ||| imm.signExtend 64)).advance ∧
    exec (.xori d a imm wa) s = .next (s.write d (x ^^^ imm.signExtend 64)).advance ∧
    exec (.shli d a n wa) s = .next (s.write d (BitVec.ofNat 64 (x.toNat * 2 ^ n.toNat))).advance ∧
    exec (.shri d a n wa) s = .next (s.write d (BitVec.ofNat 64 (x.toNat / 2 ^ n.toNat))).advance ∧
    exec (.srai d a n wa) s = .next (s.write d (BitVec.ofInt 64 (x.toInt / 2 ^ n.toNat))).advance ∧
    exec (.slti d a k wa) s = .next (s.write d (if x.toInt < k.toInt then 1 else 0)).advance ∧
    exec (.sltni d a k wa) s = .next (s.write d (if x.toNat < k.toNat then 1 else 0)).advance ∧
    exec (.lih d a imm wa) s = .next (s.write d (BitVec.ofInt 64 (x.toNat + imm.toInt * 2 ^ 49))).advance) ∧
  (∀ (d : Reg) (h : Bool) (off : BitVec 18) (s : State), s.ready [] [.s d] = true →
    exec (.lea d h off) s = .next (s.write d
      (BitVec.ofInt 64 ((s.slot.pc.toNat : Int) - s.slot.pc.toNat % 8 + off.toInt * 8 + (if h then 4 else 0)))).advance)

open Sys2Proof Sys2Proof.Machine Sys2Proof.Claims in
/-- winq classifies a pointer.
winq writes a word with the window in [3:0], WELL in [4] (a 1-byte access would pass step 1 of R93), HERE in [5]
(WELL, and neither a window 0x9 pointer to another tile nor a window 0x8 pointer to another slot), REMOTE in [6]
(WELL, and window 0xA or 0xB naming another tile), WRITE in [7] (window 0x0, 0x8, 0x9 or 0xA) and zeros above, and
completes with nothing else changed, whatever the translation cache holds.
(R99.) -/
def Obligations.WinqResult : Prop :=
  ∀ (d a : Reg) (wa : Bool) (s : State), s.ready [.s a wa] [.s d] = true →
    let p := s.slot.s a
    let well := wellFormed s.tiles p 1 = true
    let away := (win p = 0x9 ∧ bits p 47 32 ≠ s.tile.ctx.n) ∨
      (win p = 0x8 ∧ (bits p 35 32 ≠ s.cur.core ∨ bits p 31 30 ≠ s.cur.slot))
    ∃ r : Word, exec (.winq d a wa) s = .next (s.write d r).advance ∧
      bits r 63 8 = 0 ∧ bits r 3 0 = win p ∧
      (r.getLsbD 4 = true ↔ well) ∧
      (r.getLsbD 5 = true ↔ well ∧ ¬away) ∧
      (r.getLsbD 6 = true ↔ well ∧ (win p = 0xA ∨ win p = 0xB) ∧ bits p 47 32 ≠ s.tile.ctx.n) ∧
      (r.getLsbD 7 = true ↔ win p = 0x0 ∨ win p = 0x8 ∨ win p = 0x9 ∨ win p = 0xA)

namespace Sys2Proof.Claims
open Sys2Proof.Machine Host

/-- The two casts with their window codes (spec/06 R98). -/
def wincRows : List ((Reg → Reg → Bool → Instr) × Nat) := [(.wincLc, 9), (.wincSh, 10)]

/-- The three fields of a pointer of window 0x9 or 0xA (spec/06 R92). -/
def pointer (window tile off : Nat) : Word := BitVec.ofNat 64 (window * 2 ^ 60 + tile * 2 ^ 32 + off)

end Sys2Proof.Claims

open Sys2Proof Sys2Proof.Machine Sys2Proof.Claims in
/-- winc casts a pointer to the same byte, or traps.
winc.lc and winc.sh, the cases of R100 one by one: not well formed, WINDOW_RANGE; window 0x8 of another slot,
FOREIGN_WINDOW; window 0x8 of the own slot, the tile pointer to (4 × core + slot) × 0x2000 + offset; window 0x9 or 0xA
where the source or the goal is window 0x9 and the tile is another, FOREIGN_WINDOW; else the same tile and offset
under the goal; windows 0x0 and 0xB, WINDOW_RANGE. TRAPV is the pointer.
(R100.) -/
def Obligations.WincResult : Prop :=
  ∀ row ∈ wincRows, ∀ (d a : Reg) (wa : Bool) (s : State), s.ready [.s a wa] [.s d] = true →
    let p := s.slot.s a
    let own := s.tile.ctx.n
    (wellFormed s.tiles p 1 = false → exec (row.1 d a wa) s = .next (s.takeTrap .windowRange p)) ∧
    (wellFormed s.tiles p 1 = true → win p = 0x8 →
      (bits p 35 32 ≠ s.cur.core ∨ bits p 31 30 ≠ s.cur.slot → exec (row.1 d a wa) s = .next (s.takeTrap .foreignWindow p)) ∧
      (bits p 35 32 = s.cur.core → bits p 31 30 = s.cur.slot → exec (row.1 d a wa) s =
        .next (s.write d (pointer row.2 own ((4 * bits p 35 32 + bits p 31 30) * 0x2000 + bits p 12 0))).advance)) ∧
    (wellFormed s.tiles p 1 = true → win p = 0x9 ∨ win p = 0xA →
      ((win p = 0x9 ∨ row.2 = 9) ∧ bits p 47 32 ≠ own → exec (row.1 d a wa) s = .next (s.takeTrap .foreignWindow p)) ∧
      (¬((win p = 0x9 ∨ row.2 = 9) ∧ bits p 47 32 ≠ own) → exec (row.1 d a wa) s =
        .next (s.write d (pointer row.2 (bits p 47 32) (bits p 19 0))).advance)) ∧
    (wellFormed s.tiles p 1 = true → win p = 0x0 ∨ win p = 0xB →
      exec (row.1 d a wa) s = .next (s.takeTrap .windowRange p))

namespace Sys2Proof.Claims
open Sys2Proof.Machine Host

/-- The width in bits of the offset field that `addp` adds to, by window (spec/06 R101). -/
def offWidth (w : Nat) : Nat := if w = 0x0 then 57 else if w = 0x8 then 13 else if w = 0xB then 22 else 20

/-- The greatest offset that `addp` may give, by window (spec/06 R101). -/
def offLimit (w : Nat) : Nat :=
  if w = 0x0 then 2 ^ 57 - 1 else if w = 0x8 then 0x1FFF else if w = 0xB then 0x1FFFFF else 0xFFFFF

end Sys2Proof.Claims

open Sys2Proof Sys2Proof.Machine Sys2Proof.Claims in
/-- addp adds to the offset field and keeps every other field, or traps.
addp of a pointer that is not well formed, or whose offset field plus the signed s[b] is negative or above the limit
of its window, traps WINDOW_RANGE with the pointer; else it writes the pointer with that sum as its offset field and
every higher bit kept, and completes.
(R101.) -/
def Obligations.AddpResult : Prop :=
  ∀ (d a b : Reg) (wa wb : Bool) (s : State), s.ready [.s a wa, .s b wb] [.s d] = true →
    let p := s.slot.s a
    let n : Int := (p.toNat % 2 ^ offWidth (win p) : Nat) + (s.slot.s b).toInt
    (wellFormed s.tiles p 1 = false ∨ n < 0 ∨ (offLimit (win p) : Int) < n →
      exec (.addp d a b wa wb) s = .next (s.takeTrap .windowRange p)) ∧
    (wellFormed s.tiles p 1 = true → 0 ≤ n → n ≤ offLimit (win p) →
      exec (.addp d a b wa wb) s = .next (s.write d
        (BitVec.ofNat 64 (p.toNat / 2 ^ offWidth (win p) * 2 ^ offWidth (win p) + n.toNat))).advance)

namespace Sys2Proof.Claims
open Sys2Proof.Machine Host

/-- The conditional branches with what each tests (spec/04 R73). -/
def branchRows : List ((Reg → Reg → BitVec 13 → Instr) × (Word → Word → Bool)) := [
  (.brEq, fun x y => decide (x = y)),
  (.brNe, fun x y => decide (x ≠ y)),
  (.brLt, fun x y => decide (x.toInt < y.toInt)),
  (.brGe, fun x y => decide (x.toInt ≥ y.toInt)),
  (.brLtn, fun x y => decide (x.toNat < y.toNat)),
  (.brGen, fun x y => decide (x.toNat ≥ y.toNat))]

/-- A body holds an address (spec/04 R76). -/
def inBody (l : Loop) (a : Word) : Prop := l.first.toNat ≤ a.toNat ∧ a.toNat ≤ l.last.toNat

/-- The levels that stay active are those that spec/04 R79 keeps: all of them where the transfer stands outside every
active body, else those whose body holds the target, in their order. -/
def keeps (pc target : Word) (ls kept : List Loop) : Prop :=
  ((∀ l ∈ ls, ¬inBody l pc) → kept = ls) ∧
    ((∃ l ∈ ls, inBody l pc) → kept.Sublist ls ∧ ∀ l, l ∈ kept ↔ l ∈ ls ∧ inBody l target)

/-- A taken transfer: the PC at the target, the levels that stay, and no issue of the slot before 3 cycles are over
(spec/04 R79, R86). -/
def takesTo (s : State) (target : Word) (out : Out) : Prop :=
  ∃ kept, keeps s.slot.pc target s.slot.loops kept ∧ out = .next (s.goTo target kept s.slot.lc).taken

end Sys2Proof.Claims

open Sys2Proof Sys2Proof.Machine Sys2Proof.Claims in
/-- The conditional branches; jmp, jal, jr and jalr.
br.eq, br.ne, br.lt, br.ge, br.ltn and br.gen: where the condition fails, the branch completes without transferring;
where it holds and bits [63:57] of its address + 4 × off are zero, the PC goes there and the levels that R79 names are
popped; where they are not zero, WINDOW_RANGE with the target. A branch that is not taken never traps on its target.
jmp and jr transfer, popping the levels of R79; jal and jalr pop none, write the address after them to s31 or sD (sA
is read first) and transfer; a target with bits [63:57] set traps WINDOW_RANGE and a register target that is not word-
aligned traps MISALIGNED; jal and jalr at the last address of an active body trap ILLEGAL with the word.
(R72, R73, R74, R75, R79.) -/
def Obligations.JumpResult : Prop :=
  (∀ row ∈ branchRows, ∀ (a b : Reg) (off : BitVec 13) (s : State), s.ready [.s a false, .s b false] [] = true →
    let target := BitVec.ofInt 64 (s.slot.pc.toNat + off.toInt * 4)
    (row.2 (s.slot.s a) (s.slot.s b) = false → exec (row.1 a b off) s = .next s.advance) ∧
    (row.2 (s.slot.s a) (s.slot.s b) = true → bits target 63 57 ≠ 0 →
      exec (row.1 a b off) s = .next (s.takeTrap .windowRange target)) ∧
    (row.2 (s.slot.s a) (s.slot.s b) = true → bits target 63 57 = 0 → s.slot.pc.toNat % 4 = 0 →
      takesTo s target (exec (row.1 a b off) s))) ∧
  (∀ (d a : Reg) (wa : Bool) (off : BitVec 26) (s : State),
    let near := BitVec.ofInt 64 (s.slot.pc.toNat + off.toInt * 4)
    let far := s.slot.s a
    let foot := ∃ l ∈ s.slot.loops, l.last = s.slot.pc
    (bits near 63 57 = 0 → s.slot.pc.toNat % 4 = 0 → takesTo s near (exec (.jmp off) s)) ∧
    (bits near 63 57 ≠ 0 → exec (.jmp off) s = .next (s.takeTrap .windowRange near)) ∧
    (¬foot → bits near 63 57 = 0 → s.slot.pc.toNat % 4 = 0 → s.ready [] [.s 31] = true → exec (.jal off) s =
      .next ((s.write 31 (s.slot.pc + 4)).goTo near s.slot.loops s.slot.lc).taken) ∧
    (¬foot → bits near 63 57 ≠ 0 → s.ready [] [.s 31] = true → exec (.jal off) s = .next (s.takeTrap .windowRange near)) ∧
    (s.ready [.s a wa] [] = true →
      (bits far 63 57 = 0 → far.toNat % 4 = 0 → takesTo s far (exec (.jr a wa) s)) ∧
      (bits far 63 57 ≠ 0 → exec (.jr a wa) s = .next (s.takeTrap .windowRange far)) ∧
      (bits far 63 57 = 0 → far.toNat % 4 ≠ 0 → exec (.jr a wa) s = .next (s.takeTrap .misaligned far))) ∧
    (¬foot → s.ready [.s a wa] [.s d] = true →
      (bits far 63 57 = 0 → far.toNat % 4 = 0 → exec (.jalr d a wa) s =
        .next ((s.write d (s.slot.pc + 4)).goTo far s.slot.loops s.slot.lc).taken) ∧
      (bits far 63 57 ≠ 0 → exec (.jalr d a wa) s = .next (s.takeTrap .windowRange far)) ∧
      (bits far 63 57 = 0 → far.toNat % 4 ≠ 0 → exec (.jalr d a wa) s = .next (s.takeTrap .misaligned far))) ∧
    (foot → exec (.jal off) s = .next (s.takeTrap .illegal (s.slot.ir.setWidth 64)) ∧
      exec (.jalr d a wa) s = .next (s.takeTrap .illegal (s.slot.ir.setWidth 64))))

namespace Sys2Proof.Claims
open Sys2Proof.Machine Host

/-- What a loop instruction with a count does once its checks have passed (spec/04 R76): a count of 0 passes the body
over as a taken transfer, any other one pushes a level and goes on at the body. -/
def startsLoop (s : State) (lvl : BitVec 2) (len : BitVec 9) (count : Word) (out : Out) : Prop :=
  (count = 0 → out = .next (s.goTo (s.slot.pc + BitVec.ofNat 64 (4 * (len.toNat + 1))) s.slot.loops s.slot.lc).taken) ∧
    (count ≠ 0 → out = .next (s.goTo (s.slot.pc + 4)
      (⟨lvl.toNat, s.slot.pc + 4, s.slot.pc + BitVec.ofNat 64 (4 * len.toNat)⟩ :: s.slot.loops)
      (vset s.slot.lc lvl.toNat count)))

/-- The body of a loop instruction ends no later than the innermost active body (spec/03 R50). -/
def bodyFits (s : State) (len : BitVec 9) : Prop :=
  ∀ l, s.slot.loops.head? = some l → (s.slot.pc + BitVec.ofNat 64 (4 * len.toNat)).toNat ≤ l.last.toNat

/-- A level is free and the counter is not in use (spec/04 R77). -/
def levelFree (s : State) (lvl : BitVec 2) : Prop := s.slot.loops.length < 3 ∧ ∀ l ∈ s.slot.loops, l.ctr ≠ lvl.toNat

end Sys2Proof.Claims

open Sys2Proof Sys2Proof.Machine Sys2Proof.Claims in
/-- lbrk leaves the level that holds a counter.
Where active levels are split into those inside, the level that holds the counter and those outside it, lbrk pops the
first two, keeps every counter and goes on after the body of that level as a taken transfer; where no active level
holds the counter it traps ILLEGAL with the word. The PC at which it stands plays no part.
(R80.) -/
def Obligations.LbrkResult : Prop :=
  ∀ (lvl : BitVec 2) (s : State),
    (∀ (inner outer : List Loop) (l : Loop), s.slot.loops = inner ++ l :: outer → l.ctr = lvl.toNat →
      (∀ k ∈ inner, k.ctr ≠ lvl.toNat) → exec (.lbrk lvl) s = .next (s.goTo (l.last + 4) outer s.slot.lc).taken) ∧
    ((∀ l ∈ s.slot.loops, l.ctr ≠ lvl.toNat) → exec (.lbrk lvl) s = .next (s.takeTrap .illegal (s.slot.ir.setWidth 64)))

open Sys2Proof Sys2Proof.Machine Sys2Proof.Claims in
/-- loop and loopi start a loop, or trap; the end of a pass.
A loop or loopi whose body would end after the innermost active body traps ILLEGAL with the word; one with three
levels active, or whose counter an active level uses, traps LOOP_DEPTH; else a count of 0 goes on after the body with
no level pushed, and any other count sets the counter, pushes the level and goes on at the body. When an instruction
completes without transferring: outside the last address of the innermost body the PC goes on by 4 and loops and
counters stay; at it the counter of the level falls by one, and if it is not 0 the PC goes to the first address of the
body, else the level is popped and the step repeats on the next level if its body ends there too, or the PC goes on by
4.
(R50, R76, R77, R78.) -/
def Obligations.LoopResult : Prop :=
  (∀ (lvl : BitVec 2) (a : Reg) (cnt : BitVec 14) (len : BitVec 9) (s : State),
    (¬bodyFits s len →
      exec (.loop lvl a len) s = .next (s.takeTrap .illegal (s.slot.ir.setWidth 64)) ∧
      exec (.loopi lvl cnt len) s = .next (s.takeTrap .illegal (s.slot.ir.setWidth 64))) ∧
    (bodyFits s len → ¬levelFree s lvl →
      exec (.loop lvl a len) s = .next (s.takeTrap .loopDepth 0) ∧
      exec (.loopi lvl cnt len) s = .next (s.takeTrap .loopDepth 0)) ∧
    (bodyFits s len → levelFree s lvl →
      (s.ready [.s a false] [] = true → startsLoop s lvl len (s.slot.s a) (exec (.loop lvl a len) s)) ∧
      startsLoop s lvl len (cnt.setWidth 64) (exec (.loopi lvl cnt len) s))) ∧
  (∀ (s : State) (l : Loop) (outer : List Loop),
    ((∀ k, s.slot.loops.head? = some k → k.last ≠ s.slot.pc) →
      s.advance = s.goTo (s.slot.pc + 4) s.slot.loops s.slot.lc) ∧
    (s.slot.loops = l :: outer → l.last = s.slot.pc →
      (vget s.slot.lc l.ctr 0 ≠ 1 →
        s.advance = s.goTo l.first (l :: outer) (vset s.slot.lc l.ctr (vget s.slot.lc l.ctr 0 - 1))) ∧
      (vget s.slot.lc l.ctr 0 = 1 →
        s.advance = (s.onCur fun x => { x with loops := outer, lc := vset x.lc l.ctr 0 }).advance)))

namespace Sys2Proof.Claims
open Sys2Proof.Machine Host

/-- No hidden reduction covers a word of a range of a scratchpad (spec/07 R133). -/
def noHidden (s : State) (p : Place) (n : Nat) : Prop :=
  ∀ t, p.sp = .spad t → ∀ e ∈ (s.getTile t).ctx.red, ¬(p.off / 8 ≤ e.off / 8 ∧ e.off / 8 * 8 < p.off + n)

/-- A destination as an access in flight keeps it: s0 receives nothing (spec/03 R44). -/
def late (d : Dest) : Dest := if d = .s 0 then .none else d

/-- An instruction completes with one access of the slot at hand sent: what it is of, where its value goes, its class,
whether it is a release and an acquire, the tile it goes to and what it does there. `State.send` appends it to the
accesses in flight and marks its destination empty (spec/03 R44); nothing else changes but that the instruction
completes. -/
def sends (s : State) (dest : Dest) (cls : Cls) (rel acq : Bool) (goal : Nat) (req : Req) (out : Out) : Prop :=
  ∃ f : Flight, out = .next (s.send f).advance ∧
    f.tile = s.cur.tile ∧ f.core = s.cur.core ∧ f.slot = s.cur.slot ∧ f.owner = s.slot.run.off ∧ f.seq = s.stamp ∧
    f.dest = late dest ∧ f.cls = cls ∧ f.rel = rel ∧ f.acq = acq ∧ f.pkt.to_ = goal ∧ f.req = req ∧ f.st = .going

/-- An instruction completes with a value on its way to its destination, ready after a latency (spec/03 R44, R340). -/
def answers (s : State) (dest : Dest) (value lat : Nat) (out : Out) : Prop :=
  ∃ f : Flight, out = .next (s.send f).advance ∧
    f.tile = s.cur.tile ∧ f.core = s.cur.core ∧ f.slot = s.cur.slot ∧ f.owner = s.slot.run.off ∧
    f.dest = late dest ∧ f.req = .reply ∧ f.st = .served value 0 ∧ f.due = s.now + lat

end Sys2Proof.Claims

open Sys2Proof Sys2Proof.Machine Sys2Proof.Claims in
/-- What sending an access changes.
Sending an access appends it to the accesses in flight, numbers the next one, and marks its destination register empty
(s0 and no destination excepted); every other register, full bit, memory byte and part of the machine stays: the next
state is this one with its accesses in flight, its counter and the full bits of the slot at hand so changed, and
nothing else.
(R44, R62.) -/
def Obligations.SendEffect : Prop :=
  ∀ (s : State) (f : Flight),
    (∃ sf vf, s.send f = { s with
      flights := s.flights ++ [f], stamp := s.stamp + 1, slot := { s.slot with sfull := sf, vfull := vf } }) ∧
    (∀ r : Reg, (s.send f).slot.isFull r = (s.slot.isFull r && !(f.dest == .s r && r != 0))) ∧
    (∀ v : VNum, (s.send f).slot.vIsFull v = (s.slot.vIsFull v && !(f.dest == .v v)))

namespace Sys2Proof.Claims
open Sys2Proof.Machine Host

/-- The bits of a control register that tile code may change (spec/04 R83). -/
def csrMask : Csr → Word
  | .status => 0x19F
  | .fecfg => 0xFFFFFFFF
  | .leesc => 0x10000
  | _ => 0

/-- The control-register writes with the new value each makes of the old one, the operand and the mask (spec/04 R83). -/
def csrRows : List ((Reg → Csr → Reg → Bool → Instr) × (Word → Word → Word → Word)) := [
  (.csrwr, fun old x w => (old &&& ~~~w) ||| (x &&& w)),
  (.csrset, fun old x w => old ||| (x &&& w)),
  (.csrclr, fun old x w => old &&& ~~~(x &&& w))]

end Sys2Proof.Claims

open Sys2Proof Sys2Proof.Machine Sys2Proof.Claims in
/-- csrrd, csrwr, csrset and csrclr.
csrrd writes the register; a write form on a register with no writable field traps PRIVILEGE with its number, whatever
its operand; else, where the operand can be read and no earlier float atomic still owes STATUS its flags, sD receives
the old value and the register the new one of R83 (LEESC.FULL never set), and nothing else changes.
(R56, R83, R84.) -/
def Obligations.CsrResult : Prop :=
  ∀ row ∈ csrRows, ∀ (d a : Reg) (c : Csr) (wa : Bool) (s : State),
    let old := s.csr s.cur c
    let new := row.2 old (s.slot.s a) (csrMask c)
    (s.ready [] [.s d] = true → statusBusy c s = false → exec (.csrrd d c) s = .next (s.write d old).advance) ∧
    (csrMask c = 0 → exec (row.1 d c a wa) s = .next (s.takeTrap .privilege (BitVec.ofNat 64 c.code))) ∧
    (csrMask c ≠ 0 → s.ready [.s a wa] [.s d] = true → statusBusy c s = false → exec (row.1 d c a wa) s =
      .next ((s.putCsr s.cur c (if c = .leesc then old &&& new else new)).write d old).advance)

namespace Sys2Proof.Claims
open Sys2Proof.Machine Host

/-- A running record that may leave its slot at once: it has not begun to, no loop level is active, no access of the slot was lost to an
error, no late value into s1 to s6 (calls excepted) and no arrival is owed, and every access has been performed
(spec/02 R33; spec/18 R305). -/
def mayLeave (s : State) : Bool :=
  s.slot.leaving.isNone && s.slot.loops.isEmpty && s.slot.badReg.isEmpty && s.slot.badWrite.isNone && !s.draining && !s.outstanding fenceAll

/-- LEAVING THE SLOT (spec/02 R20, R33): the slot is free, the record holds its state, PC, wait kind, parameters and the
six carried registers with their full bits, and its current is given back. -/
def leaves (s : State) (st kind param : Nat) (pc : Word) (out : Out) : Prop :=
  ∃ t : State, out = .next t ∧ t.slot.mode = .free ∧
    Memory.word t.tile.ctx.spad s.slot.run.off = st * 2 ^ 60 + bits pc 56 2 * 4 ∧
    Memory.word t.tile.ctx.spad (s.slot.run.off + 8) = kind * 2 ^ 60 + param % 2 ^ 60 ∧
    (∀ i < 6, Memory.word t.tile.ctx.spad (s.slot.run.off + 16 + 8 * i) = (s.slot.s (BitVec.ofNat 5 (i + 1))).toNat ∧
      t.tile.ctx.full (s.slot.run.off + 16 + 8 * i) = s.slot.isFull (BitVec.ofNat 5 (i + 1))) ∧
    t.tile.irem = s.tile.irem + (s.tile.ctx.bind s.slot.run.queue).current ∧
    (st = 1 → t.tile.ctx.ready =
      s.tile.ctx.ready ++ [⟨s.slot.run.queue, s.slot.run.index, s.slot.run.off, s.cycles s.cur.tile, 0⟩]) ∧
    (st = 3 → t.tile.ctx.waits = s.tile.ctx.waits ++ [⟨s.slot.run.queue, s.slot.run.index, s.slot.run.off, false⟩])

/-- A window 0x9 pointer to a word of the own tile (spec/02 R34). -/
def ownWord (s : State) (p : Word) : Bool :=
  win p == 0x9 && wellFormed s.tiles p 1 && bits p 47 32 == s.tile.ctx.n && p.toNat % 8 == 0

end Sys2Proof.Claims

open Sys2Proof Sys2Proof.Machine Sys2Proof.Claims in
/-- yield and retire leave the slot.
Where the record may leave its slot: yield writes it back in state 1 with the PC of the next instruction, ready behind
older records; retire writes it back in state 5 with its own PC and cancels its receives and notices. Where a loop
level is active, both trap LOOP_SUSPEND and change nothing else.
(R20, R33, R35.) -/
def Obligations.LeaveSlot : Prop :=
  ∀ (s : State), s.memWf = true →
    (mayLeave s = true →
      leaves s 1 0 0 (s.slot.pc + 4) (exec .yield s) ∧ leaves s 5 0 0 s.slot.pc (exec .retire s) ∧
      ∃ t, exec .retire s = .next t ∧ t.tile.ctx.mu = dropEntries s.slot.run.off s.tile.ctx.mu) ∧
    (s.slot.leaving = none → s.slot.loops ≠ [] → exec .yield s = .next (s.takeTrap .loopSuspend 0) ∧
      exec .retire s = .next (s.takeTrap .loopSuspend 0))

open Sys2Proof Sys2Proof.Machine Sys2Proof.Claims in
/-- The suspensions: go on where the condition holds, else leave the slot.
susp.tag, susp.full, susp.chg, susp.bar, susp.eng, susp.call and susp.time: where the condition of R34 holds the
instruction completes (susp.tag with the descriptor of the oldest notice in sD, the notice consumed); where it does
not, the record leaves its slot waiting with the kind and parameters of R21 (susp.bar always does).
(R21, R22, R33, R34.) -/
def Obligations.Suspend : Prop :=
  ∀ (d a b : Reg) (wa wb : Bool) (s : State), s.memWf = true → mayLeave s = true →
    let x := s.slot.s a
    let off := bits x 19 0
    let own := s.slot.run.off
    let next := s.slot.pc + 4
    (s.ready [.s a wa] [.s d] = true →
      (∀ (src len : Nat) (older newer : List MuEntry), s.tile.ctx.mu = older ++ .notice own src (bits x 15 0) len :: newer →
        (∀ e ∈ older, ∀ src' len', e ≠ .notice own src' (bits x 15 0) len') →
        exec (.suspTag d a wa) s = .next (({ s with
          tile := { s.tile with ctx := { s.tile.ctx with mu := older ++ newer } }
          slot := { s.slot with snap := [] } }).write d (descriptor len src (bits x 15 0))).advance) ∧
      ((∀ e ∈ s.tile.ctx.mu, ∀ src len, e ≠ .notice own src (bits x 15 0) len) →
        leaves s 3 1 (d.toNat * 65536 + bits x 15 0) next (exec (.suspTag d a wa) s))) ∧
    (s.ready [.s a wa] [] = true → ownWord s x = true →
      (s.tile.ctx.full off = true → exec (.suspFull a wa) s = .next s.advance) ∧
      (s.tile.ctx.full off = false → leaves s 3 2 off next (exec (.suspFull a wa) s))) ∧
    (s.ready [.s a wa] [] = true → s.ready [.s b wb] [] = true → ownWord s x = true →
      (∀ e ∈ s.tile.ctx.red, e.off / 8 ≠ off / 8) → s.unreadable [(⟨.spad s.cur.tile, off⟩, 8)] = false →
      (Memory.word s.tile.ctx.spad off ≠ (s.slot.s b).toNat → exec (.suspChg a b wa wb) s = .next s.advance) ∧
      (Memory.word s.tile.ctx.spad off = (s.slot.s b).toNat → leaves s 3 3 off next (exec (.suspChg a b wa wb) s))) ∧
    (s.ready [.s a wa] [] = true → ∀ p bar, s.own = some p → p.find (bits x 31 0) = some (.barrier bar) →
      bar.plotWide = true ∨ bar.tile = s.tile.ctx.n →
      leaves s 3 4 (bar.phase % 65536 * 2 ^ 32 + bits x 31 0) next (exec (.suspBar a wa) s)) ∧
    (s.ready [.s a wa] [] = true → x.toNat < 3 →
      (s.tile.ctx.engineOps own x.toNat = 0 →
        exec (.suspEng a wa) s = .next s.advance) ∧
      (s.tile.ctx.engineOps own x.toNat ≠ 0 → leaves s 3 5 x.toNat next (exec (.suspEng a wa) s))) ∧
    ((∀ i < 6, s.slot.isFull (BitVec.ofNat 5 (i + 1)) = true) → exec .suspCall s = .next s.advance) ∧
    ((∃ i < 6, s.slot.isFull (BitVec.ofNat 5 (i + 1)) = false) → leaves s 3 6 0 next (exec .suspCall s)) ∧
    (s.ready [.s a wa] [] = true →
      (min x.toNat (2 ^ 60 - 1) ≤ s.wafer.time → exec (.suspTime a wa) s = .next s.advance) ∧
      (s.wafer.time < min x.toNat (2 ^ 60 - 1) →
        leaves s 3 7 (min x.toNat (2 ^ 60 - 1)) next (exec (.suspTime a wa) s)))

namespace Sys2Proof.Claims
open Sys2Proof.Machine Host

/-- An access may be issued: no earlier acquire of the record is outstanding (spec/08 R160). -/
def unfenced (s : State) : Bool := !s.acquiring

end Sys2Proof.Claims

open Sys2Proof Sys2Proof.Machine Sys2Proof.Claims in
/-- spawn and wake send their requests.
spawn with well-formed operands, once nothing is owed into s1 to s6, sends to the tile named in sA[47:32] a request
with the queue, the resume PC and s1 to s6 with their full bits; wake of a 64-byte aligned pointer in window 0x9 to
the own tile or in window 0xA sends a request with its offset to that tile. Each is a release and leaves sD empty
until its answer comes.
(R36, R37.) -/
def Obligations.SpawnAndWake : Prop :=
  ∀ (d a b : Reg) (wa wb : Bool) (s : State) (p : Plot), unfenced s = true → s.own = some p →
    let x := s.slot.s a
    (s.ready [.s a wa, .s b wb] [.s d] = true → s.owes = false →
      bits x 63 48 = 0 → bits x 47 32 < p.count → bits x 31 4 = 0 → (s.slot.s b).toNat % 4 = 0 →
      sends s (.s d) .msg true false (p.at (bits x 47 32))
        (.spawn (bits x 3 0) (s.slot.s b)
          ([1, 2, 3, 4, 5, 6].map fun r : Reg => (s.slot.s r, s.slot.isFull r))) (exec (.spawn d a b wa wb) s)) ∧
    (s.ready [.s a wa] [.s d] = true → win x = 0x9 ∨ win x = 0xA → wellFormed s.tiles x 1 = true →
      x.toNat % 64 = 0 → (win x = 0x9 → bits x 47 32 = s.tile.ctx.n) →
      sends s (.s d) .msg true false (if win x = 0x9 then s.cur.tile else p.at (bits x 47 32)) (.wake (bits x 19 0))
        (exec (.wake d a wa) s))

namespace Sys2Proof.Claims
open Sys2Proof.Machine Host

/-- No command of the own core leases a line of a range, on whatever tile it lies (spec/07 R120). -/
def unleased (s : State) (q : Place) (n : Nat) : Prop :=
  ∀ t, q.sp = .spad t → (s.getTile t).ctx.leasedBy s.cur.tile s.cur.core q.off n = false

/-- The access checks of pointers pass, with these places: translation and protection, no watchpoint, no lease of the
own core (spec/03 R54 items 8 and 9; spec/07 R120). -/
def passes (s : State) (nd : Need) (ps : List (Word × Nat)) (qs : List (Place × Nat)) : Prop :=
  s.placed nd ps = .ok qs ∧ s.watched ps nd.rd nd.wr = none ∧ (nd.store = true → ∀ q ∈ qs, unleased s q.1 q.2)

/-- A pointer that passes steps 1 to 3 of spec/06 R93 for an access of n bytes aligned to n, reached from a base with an
offset of n bytes each (spec/03 R42). -/
def reaches (s : State) (base : Reg) (off : BitVec 12) (n : Nat) (fe : Bool) (p : Word) : Prop :=
  addOff s.tiles (s.slot.s base) (off.toInt * n) = some p ∧ s.ptrCause p n n fe = none

/-- The address of a literal (spec/04 R71): the PC with bits [2:0] cleared + off × 8, modulo 2^57 (log 20). -/
def literal (s : State) (off : BitVec 18) : Word :=
  BitVec.ofInt 64 (((s.slot.pc.toNat : Int) - s.slot.pc.toNat % 8 + off.toInt * 8) % 2 ^ 57)

/-- The full/empty operations with a result, and those that store s[d] (spec/07 R123). -/
def feLoads : List ((Reg → Reg → Bool → BitVec 12 → Instr) × FeOp) :=
  [(.ldf, .ldf), (.ldfe, .ldfe), (.feClr, .clr), (.feTst, .tst), (.waita, .waita)]
def feStores : List ((Reg → Reg → Bool → BitVec 12 → Instr) × FeOp) := [(.ste, .ste), (.stf, .stf)]

/-- What a window fixes of a pointer (spec/06 R92, R93): its reserved fields, the highest bit of its offset, and the bytes it
spans; none for a reserved window. -/
def windowFields (w : Nat) : Option (List (Nat × Nat) × Nat × Nat) :=
  if w = 0x0 then some ([(59, 57)], 56, 2 ^ 57)
  else if w = 0x8 then some ([(59, 36), (29, 13)], 12, 0x2000)
  else if w = 0x9 ∨ w = 0xA then some ([(59, 48), (31, 20)], 19, 2 ^ 20)
  else if w = 0xB then some ([(59, 48), (31, 23), (21, 21)], 20, 2 ^ 21)
  else none

/-- Step 1 of spec/06 R93 fails for an access of n bytes in a plot of some tiles. -/
def outOfRange (tiles : Nat) (p : Word) (n : Nat) : Prop :=
  match windowFields (win p) with
  | none => True
  | some (reserved, top, size) =>
    (∃ f ∈ reserved, bits p f.1 f.2 ≠ 0) ∨ size < bits p top 0 + n ∨ (win p = 0x8 ∧ 8 ≤ bits p 35 32) ∨
      ((win p = 0x9 ∨ win p = 0xA ∨ win p = 0xB) ∧ tiles ≤ bits p 47 32)

/-- Step 2 of spec/06 R93 fails: another tile in window 0x9, another core or slot in window 0x8. -/
def namesOther (s : State) (p : Word) : Prop :=
  (win p = 0x9 ∧ bits p 47 32 ≠ s.tile.ctx.n) ∨ (win p = 0x8 ∧ (bits p 35 32 ≠ s.cur.core ∨ bits p 31 30 ≠ s.cur.slot))

/-- The first step of spec/06 R93 that a pointer fails, for an access of n bytes, of a full/empty operation or not, storing or
not: the trap it raises. -/
def firstFails (s : State) (tiles : Nat) (p : Word) (n : Nat) (fe store : Bool) (c : Cause) : Prop :=
  let out := outOfRange tiles p n ∨ (fe = true ∧ (win p = 0x0 ∨ win p = 0xB))
  (c = .windowRange ∧ out) ∨
  (c = .foreignWindow ∧ ¬out ∧ namesOther s p) ∨
  (c = .misaligned ∧ ¬out ∧ ¬namesOther s p ∧ p.toNat % n ≠ 0) ∨
  (c = .caskWrite ∧ ¬out ∧ ¬namesOther s p ∧ p.toNat % n = 0 ∧ store = true ∧ win p = 0xB)

/-- A pointer with a signed value added to its offset field, where the base is well formed and the sum stays in the field
(spec/06 R101). -/
def moved (tiles : Nat) (b : Word) (k : Int) (p : Word) : Prop :=
  let w := offWidth (win b)
  let n : Int := (b.toNat % 2 ^ w : Nat) + k
  ¬outOfRange tiles b 1 ∧ 0 ≤ n ∧ n ≤ offLimit (win b) ∧ p = BitVec.ofNat 64 (b.toNat / 2 ^ w * 2 ^ w + n.toNat)

end Sys2Proof.Claims

open Sys2Proof Sys2Proof.Machine Sys2Proof.Claims in
/-- The full/empty operations send their requests.
ldf, ldfe, fe.clr, fe.tst and waita send an acquire whose value comes to sD; ste and stf send a release with s[d]:
each for the word that the base and 8 × offset name, once the pointer checks (windows 0x0 and 0xB refused) and the
access checks have passed.
(R123, R93.) -/
def Obligations.FullEmptyIssue : Prop :=
  ∀ (d base : Reg) (wa : Bool) (off : BitVec 12) (s : State) (p : Word) (q : Place) (rest : List (Place × Nat)),
    unfenced s = true → reaches s base off 8 true p →
    (∀ row ∈ feLoads, s.ready [.s base wa] [.s d] = true →
      passes s (needFe (row.2 == .ldfe || row.2 == .clr)) [(p, 8)] ((q, 8) :: rest) →
      sends s (.s d) .fe false true (s.target ((q, 8) :: rest)) (.fe row.2 q 0) (exec (row.1 d base wa off) s)) ∧
    (∀ row ∈ feStores, s.ready [.s d wa, .s base wa] [] = true → passes s (needFe true) [(p, 8)] ((q, 8) :: rest) →
      sends s .none .fe true false (s.target ((q, 8) :: rest)) (.fe row.2 q (s.slot.s d)) (exec (row.1 d base wa off) s))

namespace Sys2Proof.Claims
open Sys2Proof.Machine Host

/-- Memory is as before. -/
def sameBytes (s t : State) : Prop := ∀ q : Place, t.byteAt q = s.byteAt q

/-- Two states differ in no register, no full bit, no counter and no byte of memory: the slot at hand is the same, and
every byte of every scratchpad, cask, and of edge and host memory. -/
def sameMachine (s t : State) : Prop := t.slot = s.slot ∧ t.cur = s.cur ∧ t.flights = s.flights ∧ t.stamp = s.stamp ∧ sameBytes s t

/-- `pref` asks for the translation of a page: its pointer is in window 0x0 and the tile's cache has no entry for it
(spec/07 R126). -/
def prefetches (s : State) (p : Word) : Prop := win p = 0x0 ∧ s.tile.lookup (s.asid s.cur.tile) (bits p 56 0) = none

end Sys2Proof.Claims

open Sys2Proof Sys2Proof.Machine Sys2Proof.Claims in
/-- ld, st and ldl send their accesses; the pointer checks; pref and refq.
A load of 1, 2, 4 or 8 bytes whose pointer and access checks pass sends a read of its places, to be extended as R42
says, with sD empty until it arrives; a store sends a write of the low bytes of s[d], lowest first, spread over its
places in order; ldl sends a read of the literal at its PC with bits [2:0] cleared + off × 8, whose stored bytes can
be read (a sum beyond the 57 bits of an address is taken modulo 2^57, which is the model's reading, log 20). None
reads or writes a byte at issue. ld, st and the seven full/empty operations: where the base is not well formed, or the
offset leaves its field, they trap WINDOW_RANGE with the base; where the pointer with the offset added fails a step of
R93, they take the trap of the first step that it fails, with that pointer: WINDOW_RANGE (a reserved window or field,
a tile or core that does not exist, bytes beyond the window, or a full/empty operation in window 0x0 or 0xB),
FOREIGN_WINDOW, MISALIGNED, and, for a store into window 0xB, CASK_WRITE. pref completes, whatever its pointer: it
asks for the translation of the page of a well-formed window 0x0 pointer that the cache does not hold (once while the
slot's request for that page is out), and else does nothing; no register of the slot, full bit, flag or access in
flight and no byte of any memory differs from an instruction that only completes; refq of a window 0xB pointer writes
the start of the present or next refresh window of its bank: a time congruent to 4,096 × bank modulo 32,768 whose
window of 256 ns has not ended and which is the first such one; another pointer traps WINDOW_RANGE.
(R42, R71, R92, R93, R101, R104, R121, R126.) -/
def Obligations.LoadAndStore : Prop :=
  (∀ (d base : Reg) (wa : Bool) (z : LdSize) (z' : StSize) (off : BitVec 12) (loff : BitVec 18) (s : State) (p : Word)
    (qs : List (Place × Nat)), unfenced s = true →
    (s.ready [.s base wa] [.s d] = true → reaches s base off (ldBytes z) false p → passes s needLd [(p, ldBytes z)] qs →
      sends s (.s d) .ld false false (s.target qs) (.read qs (.scalar z)) (exec (.ld d base wa z off) s)) ∧
    (s.ready [.s d wa, .s base wa] [] = true → reaches s base off (stBytes z') false p →
      passes s needSt [(p, stBytes z')] qs →
      sends s .none .st false false (s.target qs) (.write (spread qs (leBytes (stBytes z') (s.slot.s d).toNat)))
        (exec (.st d base wa z' off) s)) ∧
    (s.ready [] [.s d] = true → p = literal s loff → s.unreadable qs = false → passes s needCode [(p, ldBytes z)] qs →
      sends s (.s d) .ld false false s.cur.tile (.read qs (.code z)) (exec (.ldl d z loff) s))) ∧
  (∀ (d base : Reg) (wa : Bool) (z : LdSize) (z' : StSize) (off : BitVec 12) (s : State) (pl : Plot), unfenced s = true →
    s.own = some pl →
    let b := s.slot.s base
    (s.ready [.s base wa] [.s d] = true →
      (∀ p c, moved pl.count b (off.toInt * ldBytes z) p → firstFails s pl.count p (ldBytes z) false false c →
        exec (.ld d base wa z off) s = .next (s.takeTrap c p)) ∧
      ((∀ p, ¬moved pl.count b (off.toInt * ldBytes z) p) → exec (.ld d base wa z off) s = .next (s.takeTrap .windowRange b)) ∧
      ∀ row ∈ feLoads,
        (∀ p c, moved pl.count b (off.toInt * 8) p → firstFails s pl.count p 8 true false c →
          exec (row.1 d base wa off) s = .next (s.takeTrap c p)) ∧
        ((∀ p, ¬moved pl.count b (off.toInt * 8) p) → exec (row.1 d base wa off) s = .next (s.takeTrap .windowRange b))) ∧
    (s.ready [.s d wa, .s base wa] [] = true →
      (∀ p c, moved pl.count b (off.toInt * stBytes z') p → firstFails s pl.count p (stBytes z') false true c →
        exec (.st d base wa z' off) s = .next (s.takeTrap c p)) ∧
      ((∀ p, ¬moved pl.count b (off.toInt * stBytes z') p) →
        exec (.st d base wa z' off) s = .next (s.takeTrap .windowRange b)) ∧
      ∀ row ∈ feStores,
        (∀ p c, moved pl.count b (off.toInt * 8) p → firstFails s pl.count p 8 true true c →
          exec (row.1 d base wa off) s = .next (s.takeTrap c p)) ∧
        ((∀ p, ¬moved pl.count b (off.toInt * 8) p) → exec (row.1 d base wa off) s = .next (s.takeTrap .windowRange b)))) ∧
  (∀ (d base : Reg) (wa : Bool) (off : BitVec 12) (s : State) (p : Word),
    (s.ready [.s base wa] [] = true →
      let eff := addOff s.tiles (s.slot.s base) (off.toInt * 8)
      (eff = some p → prefetches s p →
        exec (.pref base wa off) s = .next (s.miss s.cur.tile (.hint s.cur.core s.cur.slot) (bits p 56 0) .hint).advance ∧
        sameMachine s.advance (s.miss s.cur.tile (.hint s.cur.core s.cur.slot) (bits p 56 0) .hint).advance) ∧
      ((∀ q, eff = some q → ¬prefetches s q) → exec (.pref base wa off) s = .next s.advance)) ∧
    (s.ready [.s base wa] [.s d] = true → addOff s.tiles (s.slot.s base) (off.toInt * 8) = some p →
      (win p = 0xB → wellFormed s.tiles p 1 = true → ∃ n : Nat,
        exec (.refq d base wa off) s = .next (s.onCur fun x => x.writeFrom d (BitVec.ofNat 64 n) (s.now + 2)).advance ∧
        n % 32768 = 4096 * bits p 8 6 ∧ s.wafer.time < n + 256 ∧ n ≤ s.wafer.time + 32768 - 256) ∧
      (win p ≠ 0xB → exec (.refq d base wa off) s = .next (s.takeTrap .windowRange p))))

namespace Sys2Proof.Claims
open Sys2Proof.Machine Host

/-- The atomics with an operand (spec/07 R127). -/
def amoRows : List ((Reg → Reg → Reg → Bool → Bool → AccScope → AmoTy → Instr) × AmoOp) := [
  (.amoAdd, .add), (.amoAnd, .and), (.amoOr, .or), (.amoXor, .xor), (.amoMin, .min), (.amoMax, .max), (.amoMinn, .minn),
  (.amoMaxn, .maxn), (.amoXchg, .xchg), (.amoFadd, .fadd), (.amoFmax, .fmax), (.amoFmin, .fmin)]

/-- The reductions (spec/07 R132). -/
def redRows : List ((Reg → Reg → Bool → Bool → AmoTy → Instr) × RedOp) :=
  [(.redAdd, .add), (.redFadd, .fadd), (.redFmax, .fmax)]

/-- A pointer names the scratchpad of the own tile (spec/07 R128). -/
def namesOwn (s : State) (p : Word) : Prop := win p = 0x8 ∨ win p = 0x9 ∨ (win p = 0xA ∧ bits p 47 32 = s.tile.ctx.n)

/-- The windows that a scope accepts (spec/07 R128). -/
def accepts (s : State) (sc : AccScope) (p : Word) : Prop :=
  match sc with
  | .tile => namesOwn s p
  | .plot => win p = 0x8 ∨ win p = 0x9 ∨ win p = 0xA
  | .wafer | .system => win p = 0x0

/-- A pointer that a reduction accepts names the own tile's scratchpad in window 0x8, 0x9 or 0xA (spec/07 R132). -/
def reducible (s : State) (p : Word) : Prop :=
  win p = 0x8 ∨ ((win p = 0x9 ∨ win p = 0xA) ∧ bits p 47 32 = s.tile.ctx.n)

/-- A pointer that an atomic or a reduction of some bytes may use, with its place. -/
def amoReaches (s : State) (p : Word) (n : Nat) (q : Place) : Prop :=
  s.ptrCause p n n false = none ∧ q.sp ≠ .host ∧ ∃ rest, passes s needAmo [(p, n)] ((q, n) :: rest)

end Sys2Proof.Claims

open Sys2Proof Sys2Proof.Machine Sys2Proof.Claims in
/-- The atomics and the reductions send their requests, and refuse the windows they do not accept.
amo.add, and, or, xor, min, max, minn, maxn, xchg, fadd, fmax, fmin, cas (with s[d] as comparand) and amaxx: with a
pointer in a window that the scope accepts and every check passed, a release, and an acquire unless sD is s0, is sent
to the place of execution of R128 with the operand; a pointer in another window but 0xB traps WINDOW_RANGE with the
pointer. That the whole operation is one access to one word, for edge memory too, is the model's choice (log 19).
red.add, red.fadd and red.fmax with a pointer to the own scratchpad and every check passed send a relaxed access of
class amo with s[b] to the bank and complete; a pointer to anything else but a cask, another tile included, traps
WINDOW_RANGE.
(R127, R128, R131, R132.) -/
def Obligations.AtomicIssue : Prop :=
  (∀ (d a b : Reg) (wa wb : Bool) (sc : AccScope) (ty : AmoTy) (s : State) (pl : Plot) (q : Place), unfenced s = true →
    s.own = some pl →
    let p := s.slot.s a
    let home := if sc = .plot then pl.at 0 else s.cur.tile
    (accepts s sc p → amoReaches s p ty.size q →
      (∀ row ∈ amoRows, s.ready [.s a wa, .s b wb] [.s d] = true →
        sends s (.s d) .amo true (d != 0) home (.amo row.2 ty sc q (s.slot.s b) 0) (exec (row.1 d a b wa wb sc ty) s)) ∧
      (s.ready [.s a wa, .s b wb, .s d false] [.s d] = true →
        sends s (.s d) .amo true (d != 0) home (.amo .cas ty sc q (s.slot.s b) (s.slot.s d))
          (exec (.amoCas d a b wa wb sc ty) s)) ∧
      (s.ready [.s a wa] [.s d] = true →
        sends s (.s d) .amo true (d != 0) home (.amo .amaxx ty sc q 0 0) (exec (.amoAmaxx d a wa sc ty) s))) ∧
    (¬accepts s sc p → win p ≠ 0xB → s.ready [.s a wa, .s b wb, .s d false] [.s d] = true →
      (∀ row ∈ amoRows, exec (row.1 d a b wa wb sc ty) s = .next (s.takeTrap .windowRange p)) ∧
      exec (.amoCas d a b wa wb sc ty) s = .next (s.takeTrap .windowRange p) ∧
      exec (.amoAmaxx d a wa sc ty) s = .next (s.takeTrap .windowRange p))) ∧
  (∀ row ∈ redRows, ∀ (a b : Reg) (wa wb : Bool) (ty : AmoTy) (s : State) (q : Place), unfenced s = true →
    s.ready [.s a wa, .s b wb] [] = true →
    let p := s.slot.s a
    (reducible s p → amoReaches s p ty.size q →
      sends s .none .amo false false s.cur.tile (.red row.2 ty q (s.slot.s b)) (exec (row.1 a b wa wb ty) s)) ∧
    (¬reducible s p → win p ≠ 0xB → exec (row.1 a b wa wb ty) s = .next (s.takeTrap .windowRange p)))

namespace Sys2Proof.Claims
open Sys2Proof.Machine Host

/-- The writes of the running record that are not acknowledged, marked as published behind which later ones wait (spec/08 R157,
R165). -/
def published (s : State) : State :=
  { s with flights := s.flights.map fun f => if s.mine f && f.isWrite then { f with pub := true } else f }

end Sys2Proof.Claims

open Sys2Proof Sys2Proof.Machine Sys2Proof.Claims in
/-- fence and fence.sc wait for their predecessor accesses.
Where no write of the slot was lost to an error: a fence with an access of its predecessor set outstanding waits in
place; with none it completes, the next issue no earlier than 2 cycles after it first issued, and, with ld in the
successor set, forgets what plain loads of the phase had fixed; with st, fe or amo in its predecessor set it is a
publish point, which marks the writes that it did not wait for, and no later write of the record lands before a write
so marked has been acknowledged; fence.sc waits for every class and always forgets. The scope changes neither: that a
write is visible to all once it is acknowledged, so that fence.sc orders nothing further, is the model's choice (log
18).
(R134, R135, R155, R157, R165.) -/
def Obligations.FenceResult : Prop :=
  ∀ (pred succ : BitVec 5) (peng seng : Bool) (sc : FenceScope) (s : State), s.slot.badWrite = none →
    (s.outstanding (predClasses pred) = true → exec (.fence pred succ peng seng sc) s = waiting s) ∧
    (s.outstanding (predClasses pred) = false →
      let u := if pred.getLsbD 1 || pred.getLsbD 2 || pred.getLsbD 3 then published s else s
      exec (.fence pred succ peng seng sc) s = .next (u.onCur fun x =>
        { x with notBefore := s.waitStart + 2, snap := if succ.getLsbD 0 then [] else x.snap }).advance) ∧
    (s.outstanding [.ld, .st, .fe, .amo, .msg] = true → exec (.fenceSc sc) s = waiting s) ∧
    (s.outstanding [.ld, .st, .fe, .amo, .msg] = false → exec (.fenceSc sc) s = .next (s.onCur fun x =>
      { x with notBefore := s.waitStart + 2, snap := [] }).advance) ∧
    (∀ n f m g, s.flights[n]? = some f → f.pkt.unit = 0 → f.isWrite = true → m < n → s.flights[m]? = some g →
      g.of f.tile f.plot f.owner = true → g.pub = true → s.landed n f = false)

namespace Sys2Proof.Claims
open Sys2Proof.Machine Host

/-- A handle of the plot names a barrier that the tile may use (spec/07 R136, R137). -/
def namesBarrier (s : State) (h : Nat) (bar : Barrier) : Prop :=
  (∃ p, s.own = some p ∧ p.find h = some (.barrier bar)) ∧ (bar.plotWide = true ∨ bar.tile = s.tile.ctx.n)

/-- Phase p of a barrier has completed (spec/07 R136): its phase number is 1 to 2^31 ahead of p, modulo 2^32. -/
def hasCompleted (bar : Barrier) (p : Nat) : Prop := ∃ k, 1 ≤ k ∧ k ≤ 2 ^ 31 ∧ bar.phase = (p + k) % 2 ^ 32

/-- A send issues: the slot waits at it, and one message is on its way (spec/07 R142). -/
def posts (s : State) (dst tag : Nat) (data : List Byte) (out : Out) : Prop :=
  ∃ f : Flight, f.req = .msg s.tile.ctx.n dst tag data ∧ f.tile = s.cur.tile ∧ f.owner = s.slot.run.off ∧ f.rel = true ∧
    f.cls = .msg ∧ f.dest = .none ∧
    out = .next { s.send f with slot := { (s.send f).slot with mode := .sendWait, stallFrom := none } }

/-- A receive buffer: a window 0x9 pointer, or a window 0xA pointer, to the own tile, 8-byte aligned, from 0x8_0000 to
0xF_FE00 (spec/07 R141). -/
def isBuffer (s : State) (p : Word) : Prop :=
  wellFormed s.tiles p 1 = true ∧ (win p = 0x9 ∨ win p = 0xA) ∧ bits p 47 32 = s.tile.ctx.n ∧ p.toNat % 8 = 0 ∧
    0x80000 ≤ bits p 19 0 ∧ bits p 19 0 ≤ 0xFFE00

/-- A key matches a source and a tag (spec/07 R141): its tag [15:0], and its source [31:16] unless ANY [32] is set. -/
def matchesKey (key : Word) (src tag : Nat) : Prop :=
  bits key 15 0 = tag ∧ (bits key 32 32 = 1 ∨ bits key 31 16 = src)

end Sys2Proof.Claims

open Sys2Proof Sys2Proof.Machine Sys2Proof.Claims in
/-- send and sendv.
Once every earlier write is acknowledged: send with a destination below 2^16, a tag word with [63:22] zero and an
8-byte aligned pointer to 8 × (LEN + 1) bytes of the own scratchpad that can be read, that no hidden reduction covers
and whose banks are free takes their banks and sends those bytes, sendv the 512 bytes of a vector register: the slot
then waits at the instruction for the answer and nothing else changes.
(R141, R142.) -/
def Obligations.SendIssue : Prop :=
  ∀ (d a b : Reg) (v : VNum) (wa wb : Bool) (s : State), unfenced s = true → s.outstanding [.st, .fe, .amo] = false →
    let x := s.slot.s a
    let w := s.slot.s b
    let p := s.slot.s d
    let n := 8 * (bits w 21 16 + 1)
    bits x 63 16 = 0 →
    (s.ready [.s a wa, .s b wb, .s d false] [] = true → bits w 63 22 = 0 → namesOwn s p → s.ptrCause p n 8 false = none →
      noHidden s (s.placeOf p) n → s.unreadable [(s.placeOf p, n)] = false → s.banksFree [(s.placeOf p, n)] = true →
      posts (s.takeBanks [(s.placeOf p, n)]) (bits x 15 0) (bits w 15 0) (s.readPlace (s.placeOf p) n)
        (exec (.send d a b wa wb) s)) ∧
    (s.ready [.s a wa, .s b wb, .v v] [] = true →
      posts s (bits x 15 0) (bits w 15 0) (leBytes 512 (s.slot.v v).toNat) (exec (.sendv v a b wa wb) s))

open Sys2Proof Sys2Proof.Machine Sys2Proof.Claims in
/-- post, unpost, probe, lees.pop and lees.cnt.
With a buffer and a key of R141: post with fewer than 128 entries and no matching message in the lees queue adds a
posted receive of the record; with one, it deposits the oldest such message, taking the banks of the buffer, removes
it and adds its notice, once no lease, no earlier access of the record to the buffer and no busy bank is in the way.
unpost removes the first posted receive of the record with that key and answers 1, or answers 0. probe answers the
descriptor of the oldest matching message, or 0. lees.pop removes the oldest message and sends its deposit to the
buffer as an access that answers the descriptor no earlier than 6 cycles, and one for each 64 bytes, after it issues,
or answers 0. lees.cnt writes the number of messages.
(R141, R143, R144.) -/
def Obligations.ReceiveResult : Prop :=
  ∀ (d a b : Reg) (wa wb : Bool) (s : State), unfenced s = true →
    let p := s.slot.s a
    let buf := bits p 19 0
    let c := s.tile.ctx
    let key := s.slot.s b
    let own := s.slot.run.off
    (s.ready [.s a wa, .s b wb] [] = true → isBuffer s p → bits key 63 33 = 0 → c.mu.length < 128 →
      ((∀ l ∈ c.lees, ¬matchesKey key l.src l.tag) → exec (.post a b wa wb) s = .next ({ s with tile := { s.tile with
        ctx := { c with mu := c.mu ++ [MuEntry.posted own buf (bits key 32 32 == 1) (bits key 31 16) (bits key 15 0)] } } }).advance) ∧
      (∀ older l newer, c.lees = older ++ l :: newer → matchesKey key l.src l.tag →
        (∀ k ∈ older, ¬matchesKey key k.src k.tag) →
        (let q : Place := ⟨.spad s.cur.tile, buf⟩
         let n := l.data.length
         c.leased buf n = false ∧ s.banksFree [(q, n)] = true ∧
          ∀ f ∈ s.flights, s.mine f = true → f.waiting = true → ∀ x ∈ f.req.ranges, sameWord x (q, n) = false) →
        ∃ t, t = (s.takeBanks [(⟨.spad s.cur.tile, buf⟩, l.data.length)]).deposit s.cur.tile buf l.data ∧ exec (.post a b wa wb) s = .next ({ t with tile := { t.tile with
          ctx := { t.tile.ctx with
            lees := t.tile.ctx.lees.eraseIdx older.length
            mu := c.mu ++ [MuEntry.notice own l.src l.tag l.data.length] } } }).advance)) ∧
    (s.ready [.s a wa] [.s d] = true → bits p 63 33 = 0 →
      (∀ older newer buf', c.mu = older ++ MuEntry.posted own buf' (bits p 32 32 == 1) (bits p 31 16) (bits p 15 0) :: newer →
        (∀ e ∈ older, ∀ buf'', e ≠ MuEntry.posted own buf'' (bits p 32 32 == 1) (bits p 31 16) (bits p 15 0)) →
        answers { s with tile := { s.tile with ctx := { c with mu := older ++ newer } } } (.s d) 1 4 (exec (.unpost d a wa) s)) ∧
      ((∀ e ∈ c.mu, ∀ buf', e ≠ MuEntry.posted own buf' (bits p 32 32 == 1) (bits p 31 16) (bits p 15 0)) →
        answers s (.s d) 0 4 (exec (.unpost d a wa) s)) ∧
      (∀ older l newer, c.lees = older ++ l :: newer → matchesKey p l.src l.tag →
        (∀ k ∈ older, ¬matchesKey p k.src k.tag) →
        answers s (.s d) (descriptor l.data.length l.src l.tag).toNat 4 (exec (.probe d a wa) s)) ∧
      ((∀ l ∈ c.lees, ¬matchesKey p l.src l.tag) → answers s (.s d) 0 4 (exec (.probe d a wa) s))) ∧
    (s.ready [.s a wa] [.s d] = true → isBuffer s p →
      (c.lees = [] → answers s (.s d) 0 4 (exec (.leesPop d a wa) s)) ∧
      (∀ l newer, c.lees = l :: newer → c.leasedBy s.cur.tile s.cur.core buf l.data.length = false →
        let t := { s with tile := { s.tile with ctx := { c with lees := newer } } }
        sends t (.s d) .msg false true s.cur.tile (.deposit ⟨.spad s.cur.tile, buf⟩ l.data (descriptor l.data.length l.src l.tag))
          (exec (.leesPop d a wa) s) ∧
        ∃ f : Flight, exec (.leesPop d a wa) s = .next (t.send f).advance ∧ f.due = s.now + 6 + (l.data.length + 63) / 64)) ∧
    (s.ready [] [.s d] = true → exec (.leesCnt d) s =
      .next (s.onCur fun x => x.writeFrom d (BitVec.ofNat 64 c.lees.length) (s.now + 2)).advance)

open Sys2Proof Sys2Proof.Machine Sys2Proof.Claims in
/-- The barrier instructions, and mcst, which sends one store to each member.
With a handle that names a barrier the tile may use: bini with a count of 1 to 65,535 sends the count; barv (a tile
barrier), pbarv (a plot barrier) and bard (either, dropping) send an arrival, a release, whose status comes to sD;
btst sends a read of the status; bwait completes with the status of its phase once that has completed and its latency
has passed, forgetting what plain loads had fixed (one that had stalled takes no issue of its core), and else waits in
place. A handle that names nothing makes each of them (bini with a count in its range) trap STALE_HANDLE with the
handle. mcst with the handle of a replica set, an offset that is a multiple of 8 below its length and no member word
in record memory, watched or under a lease of the own core sends to each member, in order, a store of s[b] at that
offset, by the Trellis port to a member on another device, and completes; an offset that is out of range or not a
multiple of 8 traps WINDOW_RANGE with the offset, the latter whatever the handle names; with an offset that is a
multiple of 8, a handle that names nothing traps STALE_HANDLE with the handle.
(R136, R137, R138, R139, R145.) -/
def Obligations.BarrierIssue : Prop :=
  (∀ (d a b : Reg) (wa wb : Bool) (s : State) (bar : Barrier),
    let h := bits (s.slot.s a) 31 0
    let n := (s.slot.s b).toNat
    let ph := bits (s.slot.s b) 31 0
    (namesBarrier s h bar →
      (s.ready [.s a wa, .s b wb] [] = true → 1 ≤ n → n < 65536 →
        sends s .none .none false false s.cur.tile (.bini h n) (exec (.bini a b wa wb) s)) ∧
      (s.ready [.s a wa] [.s d] = true → bar.plotWide = false →
        sends s (.s d) .none true true s.cur.tile (.arrive h false false false) (exec (.barv d a wa) s)) ∧
      (s.ready [.s a wa] [.s d] = true → bar.plotWide = true →
        sends s (.s d) .none true true s.cur.tile (.arrive h false false false) (exec (.pbarv d a wa) s)) ∧
      (s.ready [.s a wa] [.s d] = true →
        sends s (.s d) .none true true s.cur.tile (.arrive h true false false) (exec (.bard d a wa) s)) ∧
      (s.ready [.s a wa, .s b wb] [.s d] = true →
        sends s (.s d) .none false true s.cur.tile (.btst h ph) (exec (.btst d a b wa wb) s) ∧
        (hasCompleted bar ph → bar.phase < 2 ^ 32 → s.bwaitAt bar s.waitStart ph ≤ s.now → exec (.bwait d a b wa wb) s =
          .next (s.inPlace (({ s with slot := { s.slot with snap := [] } }).write d (BitVec.ofNat 64
            (2 ^ 63 + bar.fault.toNat * 2 ^ 62 + bar.arrived % 65536 * 2 ^ 32 + ph))).advance)) ∧
        (¬hasCompleted bar ph ∨ s.now < s.bwaitAt bar s.waitStart ph → bar.phase < 2 ^ 32 → exec (.bwait d a b wa wb) s =
          waiting (s.onCur fun x => { x with bwait := some (h, ph) })))) ∧
    ((∀ pl, s.own = some pl → pl.find h = none) →
      let stale : Out := .next (s.takeTrap .staleHandle (BitVec.ofNat 64 h))
      (s.ready [.s a wa, .s b wb] [] = true → 1 ≤ n → n < 65536 → exec (.bini a b wa wb) s = stale) ∧
      (s.ready [.s a wa] [.s d] = true → exec (.barv d a wa) s = stale ∧ exec (.pbarv d a wa) s = stale ∧
        exec (.bard d a wa) s = stale) ∧
      (s.ready [.s a wa, .s b wb] [.s d] = true →
        exec (.btst d a b wa wb) s = stale ∧ exec (.bwait d a b wa wb) s = stale))) ∧
  (∀ (d a b : Reg) (wa wb : Bool) (s : State) (pl : Plot) (len : Nat) (ms : List Member), unfenced s = true →
    s.ready [.s a wa, .s b wb, .s d false] [] = true → s.own = some pl →
    pl.find (bits (s.slot.s a) 31 0) = some (.replica len ms) →
    let off := (s.slot.s d).toNat
    (off % 8 = 0 → off < len → (∀ m ∈ ms, s.guardedWord m off = false) →
      s.memberWatched off ms = none → (∀ m ∈ ms, m.away = none → unleased s (m.word off) 8) →
      ∃ fs : List Flight, exec (.mcst d a b wa wb) s = .next (fs.foldl State.send s).advance ∧
        fs.map (fun f => f.req) = ms.map (fun m => match m.away with
          | some (dev, va) => .away dev (va + off) (s.slot.s b)
          | none => .member (m.word off) (s.slot.s b) m.grant) ∧
        ∀ f ∈ fs, f.cls = .st ∧ f.dest = .none ∧ f.owner = s.slot.run.off) ∧
    (off % 8 ≠ 0 ∨ len ≤ off → exec (.mcst d a b wa wb) s = .next (s.takeTrap .windowRange (s.slot.s d))) ∧
    ((s.slot.s d).toNat % 8 ≠ 0 → ∀ a' wa', s.ready [.s a' wa', .s b wb, .s d false] [] = true →
      exec (.mcst d a' b wa' wb) s = .next (s.takeTrap .windowRange (s.slot.s d))) ∧
    ((s.slot.s d).toNat % 8 = 0 → ∀ a' wa', s.ready [.s a' wa', .s b wb, .s d false] [] = true →
      pl.find (bits (s.slot.s a') 31 0) = none →
      exec (.mcst d a' b wa' wb) s = .next (s.takeTrap .staleHandle (BitVec.ofNat 64 (bits (s.slot.s a') 31 0)))))

open Sys2Proof Sys2Proof.Machine Sys2Proof.Claims in
/-- sysc, trap, brk, idle, halt, resume and clkm.
sysc with [63:17] zero and fewer than four calls out sends the call (a strong one only once the writes before it are
acknowledged, counted against its queue); trap and brk take TRAP and BREAKPOINT with TRAPV 0; idle completes once
wafer time has reached s[a] and else waits for it; halt, resume and clkm, executed by the cellar on a halted slot of
the origin tile, freeze the scope they name; thaw it, the executing slot excepted where the scope is a tile or the
plot, once the trap records of its slots are in their ring, and write how many slots resumed; and write the old mode
with bit 1 set where the request is refused, which it is exactly where some tile of the plot is not frozen, or plumb
is asked for and the launch table does not grant it, and else set the mode for the thaw; the register so written is
full, and a value that was still to come into it no longer arrives (log 73) (each of them, and their trap
WINDOW_RANGE, with the word at the slot's PC in its instruction register); in a slot that is not halted each of the
three traps PRIVILEGE.
(R283, R313, R314, R315, R316.) -/
def Obligations.SystemResult : Prop :=
  ∀ (d a b : Reg) (wa wb : Bool) (n : BitVec 10) (s : State) (p : Plot), s.own = some p →
    let w := s.slot.s a
    let key := queueKey s.tile.ctx.n s.slot.run.queue
    let strong := bits w 16 16 == 1
    (s.ready [.s a wa, .s b wb] [.s d] = true → bits w 63 17 = 0 → s.callsOut < 4 →
      (strong = true → s.outstanding [.st, .fe, .amo] = false) →
      sends (if strong then s.setPlot (p.setStrong key ((p.strongOf key).1 + 1, (p.strongOf key).2)) else s) (.s d) .none
        false strong (cellarAt p.die) (.call (bits w 15 0) strong (s.slot.s b) s.slot.run.queue (p.strongOf key).1)
        (exec (.sysc d a b wa wb) s)) ∧
    (s.ready [.s a wa] [] = true → exec (.trap a wa) s = .next (s.takeTrap .trap 0)) ∧
    exec (.brk n) s = .next (s.takeTrap .breakpoint 0) ∧
    (s.ready [.s a wa] [] = true →
      (w.toNat ≤ s.wafer.time → exec (.idle a wa) s = .next s.advance) ∧
      (s.wafer.time < w.toNat → exec (.idle a wa) s =
        .next (s.onCur fun x => { x with idleTo := some w.toNat, stallFrom := none }))) ∧
    (let u := s.onCur fun x => { x with ir := s.peekWord s.cur.tile s.slot.pc }
     s.slot.mode = .halted → p.at 0 = s.cur.tile → s.slot.isFull a = true →
      (∀ sc, haltTarget s.wafer.grade p w = some sc →
        exec (.halt d a wa) s = .next (u.freeze sc (some (s.cur, d))) ∧
        (u.thawReady sc = false → exec (.resume d a wa) s = .next u) ∧
        (u.thawReady sc = true →
          let but := match sc with
            | .tile _ | .plot _ => some s.cur
            | _ => none
          exec (.resume d a wa) s = .next ((u.thaw sc but).2.putReg s.cur d (BitVec.ofNat 64 (u.thaw sc but).1)))) ∧
      (haltTarget s.wafer.grade p w = none → exec (.halt d a wa) s = .next (u.takeTrap .windowRange w) ∧
        exec (.resume d a wa) s = .next (u.takeTrap .windowRange w)) ∧
      (bits w 63 1 ≠ 0 → exec (.clkm d a wa) s = .next (u.takeTrap .windowRange w)) ∧
      (bits w 63 1 = 0 →
        let open_ := (p.frozen = false ∧ ∃ t ∈ p.tiles, (s.getTile t).frozen = false) ∨
          (bits w 0 0 = 1 ∧ ∀ e, s.launchEntry p.tenant = some e → bits e.1 62 62 = 0)
        (open_ → exec (.clkm d a wa) s = .next (u.putReg s.cur d (BitVec.ofNat 64 (2 + p.plumb.toNat)))) ∧
        (¬open_ → exec (.clkm d a wa) s = .next ((u.setPlot { p with clock := some (bits w 0 0 == 1) }).putReg s.cur d
          (BitVec.ofNat 64 p.plumb.toNat))))) ∧
    (∀ x : Word, let t := s.putReg s.cur d x
      (∀ r, t.slot.s r = if r = d ∧ d ≠ 0 then x else s.slot.s r) ∧
        (∀ r, t.slot.isFull r = (s.slot.isFull r || r == d)) ∧ (d ≠ 0 → ∀ f ∈ t.flights, s.mine f = true → f.dest ≠ .s d)) ∧
    (s.slot.mode ≠ .halted → exec (.halt d a wa) s = .next (s.takeTrap .privilege 0) ∧
      exec (.resume d a wa) s = .next (s.takeTrap .privilege 0) ∧ exec (.clkm d a wa) s = .next (s.takeTrap .privilege 0))

open Sys2Proof Sys2Proof.Machine Sys2Proof.Claims in
/-- ctxid, stage, time, cyc, recp, topo, pwrq and rampq.
On a tile that holds a plot: ctxid writes TENANT, PLOT and ASID; stage writes LAST and STAGE; time writes the wafer
time, readable after 2 cycles; cyc writes the cycle count; recp writes the window 0x9 pointer to the running record;
topo completes and its value, CORES, TILES, H and W, arrives 4 cycles later. Nothing else changes. pwrq.f writes
INTERVAL, F, FG (16 outside a gang), FC, FT, GANG and CLKMODE as one snapshot, pwrq.n the energy and the current of
the interval, and rampq LEVEL, CEIL, DOWN and UP of the tile, each readable after 2 cycles; nothing else changes.
(R38, R58, R223, R260, R272, R279, R282.) -/
def Obligations.QueryResult : Prop :=
  (∀ (d : Reg) (s : State) (p : Plot), s.ready [] [.s d] = true → s.own = some p →
    exec (.ctxid d) s = .next (s.write d
      (BitVec.ofNat 64 (p.tenant % 65536 * 2 ^ 32 + p.num % 65536 * 2 ^ 16 + p.asid % 65536))).advance ∧
    exec (.stage d) s = .next (s.write d
      (BitVec.ofNat 64 (p.lastStage % 256 * 256 + s.stageOf s.cur.tile s.slot.run.queue))).advance ∧
    exec (.time d) s = .next (s.onCur fun x => x.writeFrom d (BitVec.ofNat 64 s.wafer.time) (s.now + 2)).advance ∧
    exec (.cyc d) s = .next (s.write d (BitVec.ofNat 64 (s.cycles s.cur.tile))).advance ∧
    exec (.recp d) s = .next (s.write d (pointer 9 (s.tile.ctx.n % 65536) (s.slot.run.off % 2 ^ 20))).advance ∧
    answers s (.s d)
      ((if s.wafer.grade = .fx48 then 8 else 7) * 2 ^ 48 + p.count % 65536 * 2 ^ 32 + p.h % 65536 * 2 ^ 16 + p.w % 65536) 4
      (exec (.topo d) s)) ∧
  (∀ (d : Reg) (s : State), s.ready [] [.s d] = true →
    let r := s.tile.ctx.ramp
    let gang := (s.own.map Plot.gang).getD false
    exec (.pwrqF d) s = .next (s.onCur fun x => x.writeFrom d (BitVec.ofNat 64 (s.wafer.time / 1024 % 2 ^ 32 * 2 ^ 32 + s.tile.f * 2 ^ 27
      + (if gang then s.tile.fg else 16) * 2 ^ 22 + (s.die (dieOf s.cur.tile)).fc * 2 ^ 17 + s.tile.ft * 2 ^ 12
      + gang.toNat * 16 + s.tile.thermal.toNat * 8 + s.tile.curlim.toNat * 4
      + s.tile.boost.toNat * 2 + ((s.own.map Plot.plumb).getD false).toNat)) (s.now + 2)).advance ∧
    exec (.pwrqN d) s = .next (s.onCur fun x => x.writeFrom d
      (BitVec.ofNat 64 (s.tile.e % 2 ^ 32 * 2 ^ 32 + s.tile.i % 2 ^ 32)) (s.now + 2)).advance ∧
    exec (.rampq d) s = .next (s.onCur fun x => x.writeFrom d
      (BitVec.ofNat 64 (r.level * 2 ^ 40 + r.ceil * 2 ^ 32 + r.down * 256 + r.up)) (s.now + 2)).advance)

open Sys2Proof Sys2Proof.Machine Sys2Proof.Claims in
/-- ecw, ecr, ewait, eqry, mqry and mwait.
ecw writes the engine register of the slot (ce., de.) or of the core (me.) and nothing else; ecr answers, 3 cycles
later, the value last written; ewait completes once no operation of the record on the engine is incomplete, with the
errors since the last one (at most 65,535), which it clears, and forgets what plain loads had fixed; eqry answers
QUEUED and MINE; mqry a snapshot with LEVEL, the commands queued on the tile and on the own core, and the panel locks;
mwait, on first issue with an empty queue of the own core, completes with 0 errors.
(R146, R151, R240, R241.) -/
def Obligations.EngineRegisters : Prop :=
  ∀ (e : Eng) (a d : Reg) (n : BitVec 7) (s : State),
    let c := s.tile.ctx
    let own := s.slot.run.off
    let me := vset (vget c.fctx s.cur.core (Vector.replicate 18 0)) n.toNat (s.slot.s a)
    (s.ready [.s a false] [] = true → exec (.ecw e a n) s = .next (match e with
      | .me => { s with tile := { s.tile with ctx := { c with fctx := vset c.fctx s.cur.core me } } }
      | .ce => { s with slot := { s.slot with ce := vset s.slot.ce n.toNat (s.slot.s a) } }
      | .de => { s with slot := { s.slot with de := vset s.slot.de n.toNat (s.slot.s a) } } : State).advance) ∧
    (s.ready [] [.s d] = true →
      answers s (.s d) (match e with
        | .me => vget (vget c.fctx s.cur.core (Vector.replicate 18 0)) n.toNat 0
        | .ce => vget s.slot.ce n.toNat 0
        | .de => vget s.slot.de n.toNat 0 : Word).toNat 3 (exec (.ecr e d n) s) ∧
      (c.engineOps own (engNum e) = 0 → exec (.ewait e d) s = .next (({ s with
        tile := { s.tile with ctx := { c with engErrs := c.engErrs.filter fun x => !(x.owner == own && x.eng == e) } }
        slot := { s.slot with snap := [] } }).write d (BitVec.ofNat 64 (min (c.errors own e) 65535))).advance) ∧
      answers s (.s d) (c.queued e % 2 ^ 32 * 2 ^ 32 + c.engineOps own (engNum e) % 2 ^ 32) 3 (exec (.eqry e d) s) ∧
      answers s (.s d) (c.ramp.level * 2 ^ 40 + c.queued .me % 256 * 2 ^ 32 + (vget c.mq s.cur.core []).length * 2 ^ 24
        + ((List.range 8).map fun p => if (c.lockedBy p).isSome then 2 ^ (16 + p) else 0).sum) 3 (exec (.mqry d) s) ∧
      (vget c.mq s.cur.core [] = [] → s.slot.mwait = none → exec (.mwait d) s =
        .next (({ s with slot := { s.slot with snap := [] } }).write d 0).advance))

namespace Sys2Proof.Claims
open Sys2Proof.Machine Host

/-- A copy command as spec/07 R148 forks it: whether each operand is a region handle, and whether it arrives at a
barrier. -/
def copyRows : List ((Reg → Reg → Reg → Instr) × Bool × Bool × Bool) := [
  (.cpy, false, false, false), (.cpyHs, false, true, false), (.cpyHd, true, false, false), (.cpyHsd, true, true, false),
  (.cpyb, false, false, true), (.cpybHs, false, true, true), (.cpybHd, true, false, true), (.cpybHsd, true, true, true)]

/-- A pointer passes R93 over an extent, a destination outside the casks. -/
def extentOk (s : State) (p : Word) (n : Nat) (dst : Bool) : Prop :=
  s.ptrCause p n 1 false = none ∧ (dst = true → win p ≠ 0xB)

/-- An operand of a copy may be used over an extent: a region that is long enough from its offset and whose pointer, where
it is a range of the plot, may be used there, or a pointer. -/
def copyOperandOk (s : State) (region : Bool) (w : Word) (n : Nat) (dst : Bool) : Prop :=
  if region then
    ∃ p b l wr, s.own = some p ∧ p.find (bits w 31 0) = some (.region b l wr) ∧ bits w 63 32 + n ≤ l ∧
      ∀ q, b = .ptr q → extentOk s (q + BitVec.ofNat 64 (bits w 63 32)) n dst
  else extentOk s w n dst

/-- A completion word's pointer may be used: 0, or a pointer to a scratchpad word that passes R93 (spec/07 R146). -/
def doneOk (s : State) (p : Word) : Prop :=
  p = 0 ∨ ((win p = 0x8 ∨ win p = 0x9 ∨ win p = 0xA) ∧ s.ptrCause p 8 8 false = none)

/-- The registers of a copy are in range (spec/07 R148): LEN, ROWS, XPOSE, and the shape of a transpose. -/
def copyShapeOk (r : Vector Word 7) : Prop :=
  let len := (vget r 0 0).toNat
  let rows := (vget r 1 0).toNat
  let x := bits (vget r 4 0) 1 0
  1 ≤ len ∧ len ≤ 2 ^ 24 ∧ 1 ≤ rows ∧ rows ≤ 65536 ∧ bits (vget r 4 0) 63 2 = 0 ∧ x ≠ 3 ∧
    (x ≠ 0 → len % x = 0 ∧ rows * x ≤ 2 ^ 24)

end Sys2Proof.Claims

open Sys2Proof Sys2Proof.Machine Sys2Proof.Claims in
/-- The eight copy forms fork their command.
cpy and cpyb with pointers or region handles: with registers in range, a completion value whose bit 63 is 0, operands
that may be used over their extents, a completion word that may be used and, for cpyb, a barrier of the tile in
ce.bar, and fewer than 32 commands queued, the instruction completes with one command added to the copy engine of the
tile, holding the snapshot of the ce. registers, its operands and its value; nothing else changes.
(R146, R147, R148.) -/
def Obligations.CopyIssue : Prop :=
  ∀ row ∈ copyRows, ∀ (a b d : Reg) (s : State), unfenced s = true → s.ready [.s a false, .s b false, .s d false] [] = true →
    copyShapeOk s.slot.ce → bits (s.slot.s d) 63 63 = 0 →
    copyOperandOk s row.2.1 (s.slot.s a) (dstExtent s.slot.ce) true →
    copyOperandOk s row.2.2.1 (s.slot.s b) (srcExtent s.slot.ce) false →
    doneOk s (vget s.slot.ce 5 0) →
    (row.2.2.2 = true → bits (vget s.slot.ce 6 0) 63 32 = 0 ∧
      ∃ bar, namesBarrier s (bits (vget s.slot.ce 6 0) 31 0) bar) →
    s.tile.ctx.ceq.length < 32 →
    ∃ c : CopyCmd, exec (row.1 a b d) s = .next ({ s with
        tile := { s.tile with ctx := { s.tile.ctx with ceq := s.tile.ctx.ceq ++ [c] } }, stamp := s.stamp + 1 }).advance ∧
      c.core = s.cur.core ∧ c.slot = s.cur.slot ∧ c.owner = s.slot.run.off ∧ c.seq = s.stamp ∧ c.regs = s.slot.ce ∧
      c.val = s.slot.s d ∧ c.bar = row.2.2.2 ∧ c.done = 0 ∧ c.st = .ready ∧
      c.dst = (if row.2.1 then .region (bits (s.slot.s a) 31 0) (bits (s.slot.s a) 63 32) else .ptr (s.slot.s a)) ∧
      c.src = (if row.2.2.1 then .region (bits (s.slot.s b) 31 0) (bits (s.slot.s b) 63 32) else .ptr (s.slot.s b))

open Sys2Proof Sys2Proof.Machine Sys2Proof.Claims in
/-- dcnt, rack and the vntq forms.
On a plot that holds the vintage a handle names: dcnt with registers in range, a window 0x0 source and a filling
vintage raises PEND and adds one command to the decant engine, and one whose source leaves its window traps
WINDOW_RANGE with the pointer of the first or of the last byte, whichever fails first; rack sends its request, a
release; vntq.st answers the state word; vntq.drop, with COUNT above 0 and every access performed, lowers COUNT and
seals a draining vintage at 0; vntq.bind and vntq.cur answer the token of the current vintage, bind with COUNT raised
(while it is full it is answered RETRY, to be repeated, and the slot goes on with sD empty), or 0 where there is none.
That an answer of a vntq form is due at once is the model's choice (log 15).
(R93, R333, R334, R335.) -/
def Obligations.VintageResult : Prop :=
  ∀ (a b d : Reg) (s : State) (p : Plot) (v : Vintage), s.own = some p →
    let h := bits (s.slot.s a) 31 0
    (p.find h = some (.vintage v) →
      (s.ready [.s a false, .s b false, .s d false] [] = true → unfenced s = true → v.state = 1 →
        decantBad s.tiles s.slot.de (s.slot.s d) (s.slot.s b) = none →
        s.ptrCause (s.slot.s b) (decantExtent s.slot.de) 1 false = none → doneOk s (vget s.slot.de 5 0) →
        s.tile.ctx.deq.length < 32 →
        ∃ (c : DecantCmd) (t : State), t = s.setPlot (p.put h (.vintage { v with pend := v.pend + 1 })) ∧
          exec (.dcnt a b d) s = .next ({ t with
            tile := { t.tile with ctx := { t.tile.ctx with deq := t.tile.ctx.deq ++ [c] } }, stamp := t.stamp + 1 }).advance ∧
          c.vint = h ∧ c.src = s.slot.s b ∧ c.regs = s.slot.de ∧ c.val = s.slot.s d ∧ c.owner = s.slot.run.off ∧
          c.done = 0 ∧ c.st = .ready) ∧
      (s.ready [.s a false] [.s d] = true →
        sends s (.s d) .none true false s.cur.tile (.rack h) (exec (.rack d a) s) ∧
        answers s (.s d) (v.state * 2 ^ 60 + v.half.toNat * 2 ^ 48 + v.count % 65536 * 2 ^ 32 + v.pend % 65536 * 2 ^ 16
          + min v.errs 65535) 0 (exec (.vntqSt d a) s)) ∧
      (s.ready [.s a false] [] = true → s.outstanding fenceAll = false → 0 < v.count → exec (.vntqDrop a) s =
        .next (s.setPlot (p.put h (.vintage { v with
          count := v.count - 1, state := if v.state = 4 ∧ v.count = 1 then 2 else v.state }))).advance)) ∧
    (s.ready [] [.s d] = true →
      (∀ k, p.current = some (k, v) →
        answers s (.s d) (v.half.toNat * 2 ^ 32 + k % 2 ^ 32) 0 (exec (.vntqCur d) s) ∧
        (v.count < 65535 → answers (s.setPlot (p.put k (.vintage { v with count := v.count + 1 }))) (.s d)
          (v.half.toNat * 2 ^ 32 + k % 2 ^ 32) 0 (exec (.vntqBind d) s)) ∧
        (65535 ≤ v.count → ∃ f : Flight, exec (.vntqBind d) s = .next (s.send f).advance ∧ f.tile = s.cur.tile ∧
          f.owner = s.slot.run.off ∧ f.dest = late (.s d) ∧ f.acq = true ∧ f.req = .vbind ∧ f.st = .retry ∧
          f.sent.to_ = s.cur.tile)) ∧
      (p.current = none → answers s (.s d) 0 0 (exec (.vntqCur d) s) ∧ answers s (.s d) 0 0 (exec (.vntqBind d) s))) ∧
    (s.ready [.s a false, .s b false, .s d false] [] = true → unfenced s = true →
      decantBad s.tiles s.slot.de (s.slot.s d) (s.slot.s b) = none →
      let src := s.slot.s b
      let n := ((vget s.slot.de 3 0).toNat - 1) * (vget s.slot.de 4 0).toNat + (vget s.slot.de 0 0).toNat
      (wellFormed s.tiles src 1 = false → exec (.dcnt a b d) s = .next (s.takeTrap .windowRange src)) ∧
      (wellFormed s.tiles src 1 = true → wellFormed s.tiles src n = false →
        exec (.dcnt a b d) s = .next (s.takeTrap .windowRange (src + BitVec.ofNat 64 (n - 1)))))

namespace Sys2Proof.Claims
open Sys2Proof.Machine Host

/-- A matrix command enters the queue of the core that issued it (spec/13 R230): its operation, its panel (0 names the
panel of the core, 8 to 15 panels 0 to 7), its operands and the snapshot of the me. registers; its leases are added for
the tile; the instruction completes with no register or flag changed. -/
def queues (s : State) (op : MxOp) (p : BitVec 5) (a b : Word) (desc : Vector Word 8) (out : Out) : Prop :=
  ∃ (t : State) (c : MxCmd), out = .next t ∧
    vget t.tile.ctx.mq s.cur.core [] = vget s.tile.ctx.mq s.cur.core [] ++ [c] ∧
    c.op = op ∧ c.panel = (if p = 0 then s.cur.core else p.toNat - 8) ∧ c.a = a ∧ c.b = b ∧ c.desc = desc ∧
    c.regs = vget s.tile.ctx.fctx s.cur.core (Vector.replicate 18 0) ∧ c.core = s.cur.core ∧ c.slot = s.cur.slot ∧
    c.owner = s.slot.run.off ∧ c.step = 0 ∧ c.started = false ∧ c.st = .ready ∧
    (∃ ls, t.tile.ctx.leases = s.tile.ctx.leases ++ ls ∧ ∀ l ∈ ls, l.cmd = c.id ∧ l.core = s.cur.core) ∧
    t.slot.sreg = s.slot.sreg ∧ t.slot.sfull = s.slot.sfull ∧ t.slot.status = s.slot.status ∧
    t.slot.pc = s.advance.slot.pc

/-- The matrix queue of the core takes one more command. -/
def hasRoom (s : State) : Prop := (vget s.tile.ctx.mq s.cur.core []).length < 16 ∧ s.cur.core < 8

/-- A contiguous operand of `mma` of n bytes (spec/12 R225). -/
def operandOk (s : State) (p : Word) (n : Nat) : Prop :=
  s.ptrCause p n 1 false = none ∧ ownOperand s p = true ∧ p.toNat % 64 = 0

/-- The regions of an operand of `mmas` and the alignment of its base pass check 4 of spec/13 R237. -/
def regionsOk (s : State) (base : Word) (rs : List (Option Word × Word × Nat)) : Prop :=
  (∀ r ∈ rs, ∃ p, r.1 = some p ∧ s.ptrCause p r.2.2 1 false = none ∧ ownOperand s p = true) ∧ base.toNat % 64 = 0

/-- A descriptor pointer of `mmas` passes check 1 of spec/13 R237. -/
def descOk (s : State) (p : Word) : Prop := s.ptrCause p 32 1 false = none ∧ s.ownSpad p = true ∧ p.toNat % 32 = 0

/-- The eight words of the two descriptors as memory holds them. -/
def descOf (s : State) (pa pb : Word) : Vector Word 8 :=
  Vector.ofFn fun i => BitVec.ofNat 64 (leNat (s.readPlace
    ⟨(s.placeOf (if i.val < 4 then pa else pb)).sp, (s.placeOf (if i.val < 4 then pa else pb)).off + 8 * (i.val % 4)⟩ 8))

end Sys2Proof.Claims

open Sys2Proof Sys2Proof.Machine Sys2Proof.Claims in
/-- The matrix instructions enter the matrix queue.
With room in the matrix queue of the core and every register and pointer check passed: mma with its two contiguous
operands, mzero, mld, mdrain, mld.raw, mdrain.raw, mdrain.rows and skim (1 to 65,535 periods, a target of at most 16)
each add one command holding their operands and the snapshot of the me. registers; a register that is refused, of each
of them, traps WINDOW_RANGE with its value (of several, the first in the order of the tables, which is the model's
choice, log 22). mmas with room in the queue, descriptors in the own scratchpad that can be read, whose banks are
free, that pass the five checks of R237 and that no earlier access of the record and no hidden reduction still covers
adds one command that holds the eight descriptor words as memory held them and the snapshot of the me. registers.
(R225, R230, R237, R238, R239, R280.) -/
def Obligations.MatrixIssue : Prop :=
  (∀ (a b : Reg) (wa wb : Bool) (p : BitVec 5) (s : State), unfenced s = true → hasRoom s →
    let r := vget s.tile.ctx.fctx s.cur.core (Vector.replicate 18 0)
    let x := s.slot.s a
    let y := s.slot.s b
    (s.ready [.s a false, .s b false] [] = true →
      (mmaBad r = none → operandOk s x (aExtent r) → operandOk s y (bExtent r) →
        queues s .mma p x y noDesc (exec (.mma a b p) s)) ∧
      (∀ w, mmaBad r = some w → exec (.mma a b p) s = .next (s.takeTrap .windowRange w))) ∧
    queues s .mzero p 0 0 noDesc (exec (.mzero p) s) ∧
    (s.ready [.s a false] [] = true →
      (transferBad r false false = none → s.ptrCause x (transferExtent .mld r) (transferSize .mld r) false = none →
        queues s .mld p x 0 noDesc (exec (.mld a p) s)) ∧
      (transferBad r false false = none → s.ptrCause x (transferExtent .mdrain r) (transferSize .mdrain r) false = none →
        win x ≠ 0xB → queues s .mdrain p x 0 noDesc (exec (.mdrain a p) s)) ∧
      (transferBad r false true = none →
        s.ptrCause x (transferExtent .mdrainRows r) (transferSize .mdrainRows r) false = none →
        win x ≠ 0xB → queues s .mdrainRows p x 0 noDesc (exec (.mdrainRows a p) s)) ∧
      (transferBad r true false = none → s.ptrCause x (transferExtent .mldRaw r) 8 false = none →
        queues s .mldRaw p x 0 noDesc (exec (.mldRaw a p) s)) ∧
      (transferBad r true false = none → s.ptrCause x (transferExtent .mdrainRaw r) 8 false = none →
        win x ≠ 0xB → queues s .mdrainRaw p x 0 noDesc (exec (.mdrainRaw a p) s))) ∧
    (s.ready [.s a false] [] = true → ∀ w,
      let refused : Out := .next (s.takeTrap .windowRange w)
      (transferBad r false false = some w → exec (.mld a p) s = refused ∧ exec (.mdrain a p) s = refused) ∧
      (transferBad r false true = some w → exec (.mdrainRows a p) s = refused) ∧
      (transferBad r true false = some w → exec (.mldRaw a p) s = refused ∧ exec (.mdrainRaw a p) s = refused)) ∧
    (s.ready [.s a wa, .s b wb] [] = true →
      (1 ≤ x.toNat → x.toNat ≤ 65535 → y.toNat ≤ 16 →
        queues s (.skim x.toNat y.toNat) 0 0 0 noDesc (exec (.skim a b wa wb) s)) ∧
      (¬(1 ≤ x.toNat ∧ x.toNat ≤ 65535) → exec (.skim a b wa wb) s = .next (s.takeTrap .windowRange x)) ∧
      (1 ≤ x.toNat → x.toNat ≤ 65535 → 16 < y.toNat → exec (.skim a b wa wb) s = .next (s.takeTrap .windowRange y)))) ∧
  (∀ (a b : Reg) (p : BitVec 5) (s : State), unfenced s = true → hasRoom s → s.ready [.s a false, .s b false] [] = true →
    let r := vget s.tile.ctx.fctx s.cur.core (Vector.replicate 18 0)
    let pa := s.slot.s a
    let pb := s.slot.s b
    let d := descOf s pa pb
    descOk s pa → descOk s pb → noHidden s (s.placeOf pa) 32 → noHidden s (s.placeOf pb) 32 →
    s.unreadable [(s.placeOf pa, 32), (s.placeOf pb, 32)] = false →
    s.banksFree [(s.placeOf pa, 32), (s.placeOf pb, 32)] = true → (∀ f ∈ s.flights, s.mine f = true → f.waiting = false) →
    descBad (vget d 1 0) = false → descBad (vget d 5 0) = false → mmaBad r = none →
    regionsOk s (vget d 0 0) (descRegions s.tiles (vget d 0 0) (vget d 1 0) (meM r)
      ((storedK r * (fmtEl (meFa r)).bits + 7) / 8)
      (if meSa r then some (vget d 2 0, meM r * scaleBlocks r) else none)
      (if mePat r = 0 then none else some (vget d 3 0, meM r * maskBytes r))) →
    regionsOk s (vget d 4 0) (descRegions s.tiles (vget d 4 0) (vget d 5 0) (meK r)
      ((meN r * (fmtEl (meFb r)).bits + 7) / 8)
      (if meSb r then some (vget d 6 0, scaleBlocks r * meN r) else none) none) →
    (meSa r = false → vget d 2 0 = 0) → (mePat r = 0 → vget d 3 0 = 0) → (meSb r = false → vget d 6 0 = 0) →
    vget d 7 0 = 0 →
    queues s .mmas p pa pb d (exec (.mmas a b p) s))

namespace Sys2Proof.Claims
open Sys2Proof.Machine Host

/-- The vector datapath of the core is free (spec/11 R202). -/
def pathFree (s : State) : Prop := vget s.tile.ctx.vecAt s.cur.core 0 ≤ s.now

/-- The vector datapath of the core taken for some cycles (spec/11 R202). -/
def pathTaken (s : State) (cyc : Nat) : State :=
  { s with tile := { s.tile with ctx := { s.tile.ctx with vecAt := vset s.tile.ctx.vecAt s.cur.core (s.now + cyc) } } }

/-- A vector instruction completes: its datapath taken for some cycles, its result in one register, readable after a
latency, and its flags set in STATUS; nothing else changes. -/
def vecWrites (s : State) (tm : VecTime) (vd : VNum) (x : VReg) (flags : Nat) (out : Out) : Prop :=
  out = .next ((pathTaken s tm.cyc).onCur fun y => (y.vwriteFrom vd x (s.now + tm.lat)).raise flags).advance

/-- A register holds these lanes of a type, and the flags are the OR of those that the lanes raise. -/
def holds (t : ElemTy) (x : VReg) (flags : Nat) (lane : Nat → Nat × Nat) : Prop :=
  (∀ i < t.lanes, laneAt t x i = (lane i).1 % 2 ^ t.bits) ∧
    flags = (List.range t.lanes).foldl (fun f i => f ||| (lane i).2) 0

/-- A float operation of two lanes (spec/11 R200, R206): ABSENT if either is, else the exact result rounded once. -/
def floatLane (t : ElemTy) (r : Rnd) (op : Val → Val → Val × Nat) (x y : Nat) : Nat × Nat :=
  if Ty.isAbsent (.el t) x = true ∨ Ty.isAbsent (.el t) y = true then ((Ty.absent (.el t)).getD 0, 0)
  else
    let exact := op (Ty.decode (.el t) x) (Ty.decode (.el t) y)
    ((Ty.round (.el t) r exact.1).1, exact.2 ||| (Ty.round (.el t) r exact.1).2)

/-- The float instructions that round, with their exact operation and their time (spec/11 R202, R206). -/
def floatRows : List ((VNum → VNum → VNum → ElemTy → Rnd → Instr) × VecTime × (Rnd → Val → Val → Val × Nat)) := [
  (.vadd, ⟨4, 6⟩, fun r x y => Val.add r x y),
  (.vsub, ⟨4, 6⟩, fun r x y => Val.add r x y.neg),
  (.vmul, ⟨4, 6⟩, fun _ x y => Val.mul x y),
  (.vdiv, ⟨16, 20⟩, fun _ x y => Val.div x y)]

/-- A value stands below another, −0 below +0 (spec/11 R206). -/
def precedes (x y : Val) : Bool := x.cmp y == .lt || (x.cmp y == .eq && x.isNeg && !y.isNeg)

/-- The smaller or the larger of two lanes (spec/11 R206): ABSENT if either is, the canonical NaN if either is a NaN. -/
def pickLane (t : ElemTy) (small : Bool) (x y : Nat) : Nat × Nat :=
  let a := Ty.decode (.el t) x
  let b := Ty.decode (.el t) y
  if Ty.isAbsent (.el t) x = true ∨ Ty.isAbsent (.el t) y = true then ((Ty.absent (.el t)).getD 0, 0)
  else if a.isNan || b.isNan then (Ty.nan (.el t), if a.isSig || b.isSig then fNV else 0)
  else (if (if small then precedes b a else precedes a b) then y else x, 0)

/-- A sign operation of a float lane (spec/11 R206): ABSENT stays, a NaN, a signalling one
too (log 67), gives the canonical NaN with no flag, and else the
sign bit is cleared or turned. -/
def signLane (t : ElemTy) (turn : Bool) (x : Nat) : Nat × Nat :=
  if Ty.isAbsent (.el t) x = true then (x, 0)
  else if (Ty.decode (.el t) x).isNan then (Ty.nan (.el t), 0)
  else (x % 2 ^ (t.bits - 1) + if turn && decide (x < 2 ^ (t.bits - 1)) then 2 ^ (t.bits - 1) else 0, 0)

/-- A fused operation of three lanes (spec/11 R207): ABSENT if any is; else the exact product, turned or not, and the
exact sum of it and the addend, turned or not, rounded once, with the flags of all three. -/
def fusedLane (t : ElemTy) (r : Rnd) (turnProd turnAdd : Bool) (x y z : Nat) : Nat × Nat :=
  let ty : Ty := .el t
  if ty.isAbsent x = true ∨ ty.isAbsent y = true ∨ ty.isAbsent z = true then (ty.absent.getD 0, 0)
  else
    let prod := Val.mul (ty.decode x) (ty.decode y)
    let sum := Val.add r (if turnProd then prod.1.neg else prod.1) (if turnAdd then (ty.decode z).neg else ty.decode z)
    ((ty.round r sum.1).1, prod.2 ||| sum.2 ||| (ty.round r sum.1).2)

/-- The fused instructions, with the signs of the product and of the addend (spec/11 R207). -/
def fusedRows : List ((VNum → VNum → VNum → ElemTy → Rnd → Instr) × Bool × Bool) :=
  [(.vfma, false, false), (.vfms, false, true), (.vfnma, true, false)]

/-- Vector operands can be read, the destination is owed nothing, and the datapath is free. -/
def vecReady (s : State) (srcs : List Src) (dests : List Dest) : Prop := s.ready srcs dests = true ∧ pathFree s

end Sys2Proof.Claims

open Sys2Proof Sys2Proof.Machine Sys2Proof.Claims in
/-- Float lanes: vadd, vsub, vmul, vdiv, the fused forms, vmin, vmax, vmag and vneg.
With operands readable and the datapath free, each instruction completes with every lane of vD holding its result:
ABSENT where an operand lane is ABSENT, else the exact sum, difference, product, quotient or fused sum rounded once,
the smaller or larger (−0 below +0, a NaN canonical), the lane with its sign bit cleared or turned; STATUS takes the
flags of all lanes. While another instruction holds the datapath, each of them stalls.
(R200, R202, R206, R207.) -/
def Obligations.VectorFloat : Prop :=
  ∀ (vd va vb : VNum) (t : ElemTy) (r : Rnd) (s : State),
    (vecReady s [.v va, .v vb] [.v vd] →
      (∀ row ∈ floatRows, ∃ x fl, vecWrites s row.2.1 vd x fl (exec (row.1 vd va vb t r) s) ∧
        holds t x fl fun i => floatLane t r (row.2.2 r) (laneAt t (s.slot.v va) i) (laneAt t (s.slot.v vb) i)) ∧
      (∃ x fl, vecWrites s ⟨4, 6⟩ vd x fl (exec (.vmin vd va vb t) s) ∧
        holds t x fl fun i => pickLane t true (laneAt t (s.slot.v va) i) (laneAt t (s.slot.v vb) i)) ∧
      ∃ x fl, vecWrites s ⟨4, 6⟩ vd x fl (exec (.vmax vd va vb t) s) ∧
        holds t x fl fun i => pickLane t false (laneAt t (s.slot.v va) i) (laneAt t (s.slot.v vb) i)) ∧
    (vecReady s [.v va, .v vb, .v vd] [.v vd] →
      ∀ row ∈ fusedRows, ∃ x fl, vecWrites s ⟨4, 8⟩ vd x fl (exec (row.1 vd va vb t r) s) ∧
        holds t x fl fun i => fusedLane t r row.2.1 row.2.2 (laneAt t (s.slot.v va) i) (laneAt t (s.slot.v vb) i)
          (laneAt t (s.slot.v vd) i)) ∧
    (vecReady s [.v va] [.v vd] →
      (∃ x fl, vecWrites s ⟨4, 6⟩ vd x fl (exec (.vmag vd va t) s) ∧
        (t.isFloat = true → holds t x fl fun i => signLane t false (laneAt t (s.slot.v va) i))) ∧
      ∃ x fl, vecWrites s ⟨4, 6⟩ vd x fl (exec (.vneg vd va t) s) ∧
        (t.isFloat = true → holds t x fl fun i => signLane t true (laneAt t (s.slot.v va) i))) ∧
    (¬pathFree s →
      (s.ready [.v va, .v vb] [.v vd] = true → (∀ row ∈ floatRows, exec (row.1 vd va vb t r) s = stalled s) ∧
        exec (.vmin vd va vb t) s = stalled s ∧ exec (.vmax vd va vb t) s = stalled s) ∧
      (s.ready [.v va, .v vb, .v vd] [.v vd] = true → ∀ row ∈ fusedRows, exec (row.1 vd va vb t r) s = stalled s) ∧
      (s.ready [.v va] [.v vd] = true → exec (.vmag vd va t) s = stalled s ∧ exec (.vneg vd va t) s = stalled s))

namespace Sys2Proof.Claims
open Sys2Proof.Machine Host

/-- An integer lane from an exact result (spec/11 R208): i4 and i8 saturate with ISAT, the others wrap. -/
def intLane (t : ElemTy) (z : Int) : Nat × Nat :=
  if t = .i4 then (if z > 7 then (7, fISAT) else if z < -7 then (9, fISAT) else ((z % 16).toNat, 0))
  else if t = .i8 then (if z > 127 then (127, fISAT) else if z < -127 then (0x81, fISAT) else ((z % 256).toNat, 0))
  else ((z % 2 ^ t.bits).toNat, 0)

/-- The integer instructions of two operands (spec/11 R208). -/
def intRows : List ((VNum → VNum → VNum → ElemTy → Instr) × (Int → Int → Int)) := [
  (.vaddInt, fun x y => x + y), (.vsubInt, fun x y => x - y), (.vmulInt, fun x y => x * y),
  (.vminInt, fun x y => if x ≤ y then x else y), (.vmaxInt, fun x y => if x ≥ y then x else y)]

/-- The bitwise instructions, and the lane shifts with lane amounts modulo the width (spec/11 R209). -/
def bitRows : List ((VNum → VNum → VNum → Instr) × (VReg → VReg → VReg)) :=
  [(.vand, fun x y => x &&& y), (.vor, fun x y => x ||| y), (.vxor, fun x y => x ^^^ y)]
def laneShiftRows : List ((VNum → VNum → VNum → ElemTy → Instr) × (ElemTy → Nat → Nat → Nat)) := [
  (.vshl, fun t x n => x * 2 ^ n % 2 ^ t.bits),
  (.vshr, fun _ x n => x / 2 ^ n),
  (.vsra, fun t x n => ((t.toInt x / 2 ^ n) % 2 ^ t.bits).toNat)]

end Sys2Proof.Claims

open Sys2Proof Sys2Proof.Machine Sys2Proof.Claims in
/-- Integer lanes, bitwise operations and lane shifts.
vadd, vsub, vmul, vmin, vmax, vmag and vneg on integer lanes: ABSENT where an operand lane is, else the exact result,
saturated with ISAT for i4 and i8 and wrapped for the others; vand, vor, vxor and vnot over the whole register; vshl,
vshr and vsra by lane amounts modulo the width. Each completes with vD written and the flags of all lanes.
(R200, R208, R209.) -/
def Obligations.VectorInteger : Prop :=
  ∀ (vd va vb : VNum) (t : ElemTy) (s : State),
    let absent := fun x => Ty.isAbsent (.el t) x = true
    (vecReady s [.v va, .v vb] [.v vd] →
      (t.isInt = true → ∀ row ∈ intRows, ∃ x fl, vecWrites s ⟨4, 6⟩ vd x fl (exec (row.1 vd va vb t) s) ∧
        holds t x fl fun i =>
          if absent (laneAt t (s.slot.v va) i) ∨ absent (laneAt t (s.slot.v vb) i) then ((Ty.absent (.el t)).getD 0, 0)
          else intLane t (row.2 (t.toInt (laneAt t (s.slot.v va) i)) (t.toInt (laneAt t (s.slot.v vb) i)))) ∧
      (∀ row ∈ bitRows, vecWrites s ⟨4, 6⟩ vd (row.2 (s.slot.v va) (s.slot.v vb)) 0 (exec (row.1 vd va vb) s)) ∧
      ∀ row ∈ laneShiftRows, ∃ x fl, vecWrites s ⟨4, 6⟩ vd x fl (exec (row.1 vd va vb t) s) ∧
        holds t x fl fun i => (row.2 t (laneAt t (s.slot.v va) i) (laneAt t (s.slot.v vb) i % t.bits), 0)) ∧
    (vecReady s [.v va] [.v vd] →
      (t.isInt = true →
        (∃ x fl, vecWrites s ⟨4, 6⟩ vd x fl (exec (.vmagInt vd va t) s) ∧
          holds t x fl fun i => if absent (laneAt t (s.slot.v va) i) then (laneAt t (s.slot.v va) i, 0)
            else intLane t (t.toInt (laneAt t (s.slot.v va) i)).natAbs) ∧
        ∃ x fl, vecWrites s ⟨4, 6⟩ vd x fl (exec (.vnegInt vd va t) s) ∧
          holds t x fl fun i => if absent (laneAt t (s.slot.v va) i) then (laneAt t (s.slot.v va) i, 0)
            else intLane t (-t.toInt (laneAt t (s.slot.v va) i))) ∧
      vecWrites s ⟨4, 6⟩ vd (~~~(s.slot.v va)) 0 (exec (.vnot vd va) s))

namespace Sys2Proof.Claims
open Sys2Proof.Machine Host

/-- The compares with whether a NaN satisfies them and the orders that do (spec/11 R210). -/
def compareRows : List ((VNum → VNum → VNum → ElemTy → Instr) × Bool × (Ordering → Bool)) := [
  (.vcmpEq, false, fun o => o == .eq), (.vcmpNe, true, fun o => o != .eq), (.vcmpLt, false, fun o => o == .lt),
  (.vcmpLe, false, fun o => o != .gt), (.vcmpGt, false, fun o => o == .gt), (.vcmpGe, false, fun o => o != .lt)]

/-- A mask lane: all ones or zero. -/
def mask (t : ElemTy) (b : Bool) : Nat := if b then 2 ^ t.bits - 1 else 0

end Sys2Proof.Claims

open Sys2Proof Sys2Proof.Machine Sys2Proof.Claims in
/-- Compares and select.
vcmp.eq, ne, lt, le, gt and ge: a lane is 0 where an operand lane is ABSENT; with a NaN it is all ones for ne alone, a
signalling NaN setting NV; else all ones exactly where the order of the two values satisfies the compare. vcmp.ab and
vcmp.nan mark the ABSENT and the NaN lanes. vsel takes the lane of vA where the top bit of the lane of the old vD is
1, else that of vB. All complete.
(R210.) -/
def Obligations.VectorCompare : Prop :=
  ∀ (vd va vb : VNum) (t : ElemTy) (s : State),
    let ty : Ty := .el t
    (vecReady s [.v va, .v vb] [.v vd] → ∀ row ∈ compareRows,
      ∃ x fl, vecWrites s ⟨4, 6⟩ vd x fl (exec (row.1 vd va vb t) s) ∧ holds t x fl fun i =>
        let a := laneAt t (s.slot.v va) i
        let b := laneAt t (s.slot.v vb) i
        if ty.isAbsent a = true ∨ ty.isAbsent b = true then (0, 0)
        else if (ty.decode a).isNan = true ∨ (ty.decode b).isNan = true then
          (mask t row.2.1, if (ty.decode a).isSig || (ty.decode b).isSig then fNV else 0)
        else (mask t (row.2.2 ((ty.decode a).cmp (ty.decode b))), 0)) ∧
    (vecReady s [.v va] [.v vd] →
      (∃ x fl, vecWrites s ⟨4, 6⟩ vd x fl (exec (.vcmpAb vd va t) s) ∧
        holds t x fl fun i => (mask t (ty.isAbsent (laneAt t (s.slot.v va) i)), 0)) ∧
      ∃ x fl, vecWrites s ⟨4, 6⟩ vd x fl (exec (.vcmpNan vd va t) s) ∧
        holds t x fl fun i => (mask t (ty.decode (laneAt t (s.slot.v va) i)).isNan, 0)) ∧
    (vecReady s [.v va, .v vb, .v vd] [.v vd] → ∃ x fl, vecWrites s ⟨4, 6⟩ vd x fl (exec (.vsel vd va vb t) s) ∧
      holds t x fl fun i => (laneAt t (if 2 ^ (t.bits - 1) ≤ laneAt t (s.slot.v vd) i then s.slot.v va else s.slot.v vb) i, 0))

namespace Sys2Proof.Claims
open Sys2Proof.Machine Host

/-- A vector instruction completes with a group of n registers written from vD on (spec/11 R201): its datapath taken for
4n cycles, register k of the group readable after 4n + 2, and its flags set in STATUS; nothing else changes. -/
def groupWrites (s : State) (n : Nat) (vd : VNum) (x : Nat → VReg) (flags : Nat) (out : Out) : Prop :=
  out = .next ((pathTaken s (4 * n)).onCur fun y =>
    ((List.range n).foldl (fun z k => z.vwriteFrom (vd + BitVec.ofNat 4 k) (x k) (s.now + (4 * n + 2))) y).raise flags).advance

/-- The destinations of a group. -/
def groupOf (vd : VNum) (n : Nat) : List Dest := (List.range n).map fun k => .v (vd + BitVec.ofNat 4 k)

/-- Element i lies in lane i ÷ n of register i mod n of a group; every lane beyond the count is zero (spec/11 R201). -/
def groupHolds (t : ElemTy) (n count : Nat) (x : Nat → VReg) (flags : Nat) (elem : Nat → Nat × Nat) : Prop :=
  (∀ k < n, ∀ j < t.lanes, laneAt t (x k) j = if j * n + k < count then (elem (j * n + k)).1 % 2 ^ t.bits else 0) ∧
    flags = (List.range count).foldl (fun f i => f ||| (elem i).2) 0

/-- The registers that a conversion widens into (spec/11 R201). -/
def widens (src dst : ElemTy) : Nat := if src.bits < dst.bits then dst.bits / src.bits else 1

/-- The codes that the two directions of `vcvt.x3109` change, with their flags, by (N, X) (spec/10 R186). -/
def x3109Std (uns ext : Bool) : List (Nat × Nat) :=
  match uns, ext with
  | false, false => [(0xFF, 0x80)]
  | false, true => [(0xFE, 0xFF), (0xFF, 0x80)]
  | true, false => [(0xFE, 0xFF)]
  | true, true => [(0xFD, 0xFE), (0xFE, 0xFF)]
def x3109Dev (uns ext : Bool) : List (Nat × Nat × Nat) :=
  match uns, ext with
  | false, false => [(0xFF, 0xFE, fOF ||| fNX)]
  | false, true => [(0xFF, 0xFE, 0), (0xFE, 0xFD, fOF ||| fNX)]
  | true, false => [(0xFE, 0xFD, fOF ||| fNX)]
  | true, true => [(0xFE, 0xFD, 0), (0xFD, 0xFC, fOF ||| fNX)]

end Sys2Proof.Claims

open Sys2Proof Sys2Proof.Machine Sys2Proof.Claims in
/-- vcvt and vcvt.x3109.
vcvt completes with each element of vA decoded in the source type and rounded once into the destination type, element
i in lane i ÷ n of register i mod n of a group of n registers (n the widening ratio, else 1), every other lane zero,
and the flags of all elements; vcvt.x3109 maps each byte through the table of R186 in the direction named, with its
flags.
(R201, R202, R212, R213.) -/
def Obligations.VectorConvert : Prop :=
  ∀ (vd va : VNum) (src dst : ElemTy) (r : Rnd) (p : BitVec 5) (s : State),
    (vecReady s [.v va] (groupOf vd (widens src dst)) → ∃ x fl,
      groupWrites s (widens src dst) vd x fl (exec (.vcvt vd va src dst r p) s) ∧
      groupHolds dst (widens src dst) (min src.lanes (widens src dst * dst.lanes)) x fl fun i =>
        (Ty.of dst p.toNat).round r ((Ty.of src p.toNat).decode (laneAt src (s.slot.v va) i))) ∧
    (vecReady s [.v va] [.v vd] →
      (∃ x fl, vecWrites s ⟨4, 6⟩ vd x fl (exec (.vcvtX3109Std vd va p) s) ∧ holds .n8 x fl fun i =>
        (((x3109Std (p.getLsbD 1) (p.getLsbD 0)).lookup (laneAt .n8 (s.slot.v va) i)).getD (laneAt .n8 (s.slot.v va) i), 0)) ∧
      ∃ x fl, vecWrites s ⟨4, 6⟩ vd x fl (exec (.vcvtX3109Dev vd va p) s) ∧ holds .n8 x fl fun i =>
        ((x3109Dev (p.getLsbD 1) (p.getLsbD 0)).lookup (laneAt .n8 (s.slot.v va) i)).getD (laneAt .n8 (s.slot.v va) i, 0))

namespace Sys2Proof.Claims
open Sys2Proof.Machine Host

/-- One quantised element expanded (spec/11 R214). -/
def dequantised (et : Ty) (t : ElemTy) (r : Rnd) (code scale : Nat) : Nat × Nat :=
  match et.decode code with
  | .absent => ((Ty.absent (.el t)).getD 0, 0)
  | v =>
    if scale = 0xFE then ((Ty.absent (.el t)).getD 0, 0)
    else if scale = 0xFF then (Ty.nan (.el t), 0)
    else
      match v with
      | .fin n a d e => Ty.round (.el t) r (.fin n a d (e + ((scale : Int) - 127)))
      | .inf n => ((Ty.inf (.el t) n).getD 0, 0)
      | _ => (Ty.nan (.el t), 0)

/-- The element position i of a register for an element of some bits. -/
def elemAt (et : Ty) (v : VReg) (i : Nat) : Nat := v.toNat / 2 ^ (et.bits * i) % 2 ^ et.bits

/-- Element i of the sources of a native block: a pair of registers for f32 (spec/11 R201, R216). -/
def natElem (s : State) (t : ElemTy) (va : VNum) (i : Nat) : Nat :=
  if t = .f32 then laneAt t (s.slot.v (va + BitVec.ofNat 4 (i % 2))) (i / 2) else laneAt t (s.slot.v va) i

/-- The registers that hold a native block of a type. -/
def natRegs (t : ElemTy) : Nat := if t = .f32 then 2 else 1

/-- The scale code of a block of values (spec/09 R174): 0xFE where every value is ABSENT; else, with a finite value that is not 0, the
binade of the largest magnitude less emax, biased by 127 and held within 0 to 0xFD; else 0xFF where every present value
is NaN, and 0x7F. -/
def scaleCode (emax : Int) (vs : List Val) (code : Nat) : Prop :=
  let logs := vs.filterMap fun v => match v with
    | .fin _ a d e => if a = 0 then none else some (floorLog2 a d e)
    | _ => none
  ((∀ v ∈ vs, v = .absent) → code = 0xFE) ∧
    (∀ l ∈ logs, (∀ k ∈ logs, k ≤ l) → (code : Int) = max 0 (min 0xFD (l - emax + 127))) ∧
    ((∃ v ∈ vs, v ≠ .absent) → logs = [] →
      code = if vs.all (fun v => v == .absent || v.isNan) then 0xFF else 0x7F)

/-- emax of the elements (spec/09 R174, spec/11 R216). -/
def emaxIs (et : Ty) (k : Int) : Prop :=
  (et = .el .i8 → k = 6) ∧ (et = .el .i4 → k = 2) ∧
    ∀ b n a d e, et.bin = some b → et.decode b.maxPos = .fin n a d e → k = floorLog2 a d e

/-- One element quantised under a scale (spec/09 R175, spec/11 R216); that a signalling NaN raises NV under scale 0xFF is the
model's reading (log 67). -/
def quantised (et : Ty) (t : ElemTy) (r : Rnd) (code scale : Nat) : Nat × Nat :=
  match Ty.decode (.el t) code with
  | .absent => (et.absent.getD 0, 0)
  | .fin n a d e =>
    if scale = 0xFF then (if et.bin.isNone then (0, fNV) else (et.nan, 0)) else et.round r (.fin n a d (e + (127 - (scale : Int))))
  | v =>
    if scale = 0xFF then (if et.bin.isNone then (0, fNV) else (et.nan, if v.isSig then fNV else 0)) else et.round r v

end Sys2Proof.Claims

open Sys2Proof Sys2Proof.Machine Sys2Proof.Claims in
/-- vdqnt, vscl and vqnt with block scales.
vdqnt.mx and vdqnt.nat expand element i at the scale byte of its block (32 elements, or all 256); vscl.mx and vscl.nat
write the scale codes of the blocks into the lowest bytes and zero elsewhere; vqnt.mx and vqnt.nat encode every source
element under the scale of its block, code i at element position i and zero elsewhere (that a signalling NaN raises NV
under scale 0xFF too is the model's reading, log 67). Each completes with the flags of all elements.
(R174, R175, R201, R214, R216.) -/
def Obligations.BlockFormats : Prop :=
  ∀ (vd va vb : VNum) (t : ElemTy) (r : Rnd) (p : BitVec 5) (s : State), t.isFloat = true →
    let et := Ty.ofElem p.toNat
    let scale := fun (y : VReg) (i : Nat) => laneAt .n8 y i
    let src := (List.range (natRegs t)).map fun k => Src.v (va + BitVec.ofNat 4 k)
    let tm : VecTime := ⟨4 * natRegs t, 4 * natRegs t + 2⟩
    (vecReady s [.v va, .v vb] [.v vd] →
      (∃ x fl, vecWrites s ⟨4, 6⟩ vd x fl (exec (.vdqntMx vd va vb t r p) s) ∧ holds t x fl fun i =>
        dequantised et t r (elemAt et (s.slot.v va) i) (scale (s.slot.v vb) (i / 32))) ∧
      ∃ x fl, vecWrites s ⟨4, 6⟩ vd x fl (exec (.vqntMx vd va vb t r p) s) ∧
        (∀ i < 4096 / et.bits, elemAt et x i = if i < t.lanes
          then (quantised et t r (laneAt t (s.slot.v va) i) (scale (s.slot.v vb) (i / 32))).1 % 2 ^ et.bits else 0) ∧
        fl = (List.range t.lanes).foldl (fun f i =>
          f ||| (quantised et t r (laneAt t (s.slot.v va) i) (scale (s.slot.v vb) (i / 32))).2) 0) ∧
    (vecReady s [.v va, .v vb] (groupOf vd (natRegs t)) → ∃ x fl,
      groupWrites s (natRegs t) vd x fl (exec (.vdqntNat vd va vb t r p) s) ∧ groupHolds t (natRegs t) 256 x fl fun i =>
        dequantised et t r (elemAt et (s.slot.v va) i) (scale (s.slot.v vb) 0)) ∧
    (vecReady s (src ++ [.v vb]) [.v vd] → ∃ x fl, vecWrites s tm vd x fl (exec (.vqntNat vd va vb t r p) s) ∧
      (∀ i < 4096 / et.bits, elemAt et x i = if i < 256
        then (quantised et t r (natElem s t va i) (scale (s.slot.v vb) 0)).1 % 2 ^ et.bits else 0) ∧
      fl = (List.range 256).foldl (fun f i => f ||| (quantised et t r (natElem s t va i) (scale (s.slot.v vb) 0)).2) 0) ∧
    (vecReady s [.v va] [.v vd] → ∃ x, vecWrites s ⟨4, 6⟩ vd x 0 (exec (.vsclMx vd va t p) s) ∧
      (∀ j < t.lanes / 32, ∃ k, emaxIs et k ∧ scaleCode k ((List.range 32).map fun i =>
        Ty.decode (.el t) (laneAt t (s.slot.v va) (32 * j + i))) (scale x j)) ∧
      ∀ j, t.lanes / 32 ≤ j → j < 512 → scale x j = 0) ∧
    (vecReady s src [.v vd] → ∃ x, vecWrites s tm vd x 0 (exec (.vsclNat vd va t p) s) ∧
      (∃ k, emaxIs et k ∧ scaleCode k ((List.range 256).map fun i => Ty.decode (.el t) (natElem s t va i)) (scale x 0)) ∧
      ∀ j, 1 ≤ j → j < 512 → scale x j = 0)

namespace Sys2Proof.Claims
open Sys2Proof.Machine Host

/-- The present lanes of a register, lowest first (spec/11 R217). -/
def present (t : ElemTy) (v : VReg) : List Nat :=
  ((List.range t.lanes).map (laneAt t v)).filter fun c => !Ty.isAbsent (.el t) c

/-- The sum of integer lanes. -/
def intTotal (t : ElemTy) (cs : List Nat) : Int := (cs.map t.toInt).sum

/-- The special functions with what they give for a zero, an infinity and, where it is an exception, a finite value below
0: a value and its flags (spec/11 R219). -/
def specialRows (r : Rnd) : List ((VNum → VNum → ElemTy → Instr) × (Bool → Val × Nat) × (Bool → Val × Nat) × Bool) :=
  let zero := fun n => Val.fin n 0 1 0
  [(.vrcp, fun n => (.inf n, fDZ), fun n => (zero n, 0), false),
    (.vrsq, fun n => (.inf n, fDZ), fun n => if n then (.nan false, fNV) else (zero false, 0), true),
    (fun d a t => .vsqrt d a t r, fun n => (zero n, 0), fun n => if n then (.nan false, fNV) else (.inf false, 0), true),
    (.vexp2, fun _ => (.int 1, 0), fun n => (if n then zero false else .inf false, 0), false),
    (.vlog2, fun _ => (.inf true, fDZ), fun n => if n then (.nan false, fNV) else (.inf false, 0), true),
    (.vtanh, fun n => (zero n, 0), fun n => (.int (if n then -1 else 1), 0), false)]

/-- 2^e, exactly. -/
def twoTo (e : Int) : Rat := if 0 ≤ e then ((2 ^ e.toNat : Nat) : Rat) else 1 / ((2 ^ (-e).toNat : Nat) : Rat)

/-- The number that a finite value denotes, exactly. -/
def ratOf : Val → Rat
  | .fin n a d e => (if n then -1 else 1) * (a : Rat) / (d : Rat) * twoTo e
  | _ => 0

/-- The result of an exact sum of float lanes, or of that sum divided by a count, with no NaN and no infinity among them
(spec/11 R217): the exact number rounded once, an exact zero −0 only if every lane is −0 or under RDN. -/
def roundedTo (t : ElemTy) (r : Rnd) (exact : Rat) (cs : List Nat) (code flags : Nat) : Prop :=
  ∃ (n : Bool) (a d : Nat) (e : Int), d ≠ 0 ∧ ratOf (.fin n a d e) = exact ∧
    (a = 0 → n = (cs.all (fun c => (Ty.decode (.el t) c).isZero && (Ty.decode (.el t) c).isNeg) || r == .rdn)) ∧
    (code, flags) = Ty.round (.el t) r (.fin n a d e)

/-- A positive rounded root (spec/11 R218): the rounding of a number that stands to every multiple of half the spacing of
the type there as the exact root of x does, so that both round alike. -/
def rootOf (t : ElemTy) (r : Rnd) (x : Rat) (out : Nat × Nat) : Prop :=
  ∃ (a : Nat) (e u : Int) (b : Bin), Ty.bin (.el t) = some b ∧ out = Ty.round (.el t) r (.fin false a 1 e) ∧
    twoTo (u + b.m + 1) ≤ ratOf (.fin false a 1 e) ∧ ratOf (.fin false a 1 e) < twoTo (u + b.m + 2) ∧
    ∀ k : Nat, (k * twoTo u ≤ ratOf (.fin false a 1 e) ↔ k * twoTo u * (k * twoTo u) ≤ x) ∧
      (ratOf (.fin false a 1 e) ≤ k * twoTo u ↔ x ≤ k * twoTo u * (k * twoTo u))

/-- The code of a value that a type holds exactly. -/
def codeOf (t : ElemTy) (v : Val) : Nat := (Ty.round (.el t) .rne v).1

end Sys2Proof.Claims

open Sys2Proof Sys2Proof.Machine Sys2Proof.Claims in
/-- Reductions and special functions.
vsum, vmean, vrmax, vrmin and vcntp complete with one result in lane 0 and zero above it: the count of present lanes;
for integers the sum modulo 2^64 and the largest and smallest present lane; for floats the canonical NaN where a
present lane is NaN, NaN with NV for a sum of infinities of both signs, an infinite sum where one is infinite, and
else the exact sum, or the exact sum divided by the count, rounded once, or a present lane that none exceeds or that
exceeds none (−0 below +0); ABSENT (0 with NV for an integer sum) where no lane is present. vrcp, vrsq, vsqrt, vexp2,
vlog2 and vtanh complete with every lane the same function of its bits, which gives the results and flags of R219 for
ABSENT, NaN, zeros, infinities and values below 0; vsqrt of a positive value is the exact root, rounded once (the
other results of the five approximations are free, log 7).
(R202, R217, R219.) -/
def Obligations.VectorReduce : Prop :=
  ∀ (vd va : VNum) (t : ElemTy) (r : Rnd) (s : State), vecReady s [.v va] [.v vd] →
    let cs := present t (s.slot.v va)
    let first := fun (out : Out) (code fl : Nat) => vecWrites s ⟨4, 10⟩ vd (BitVec.ofNat 4096 code) fl out
    let no := (Ty.absent (.el t)).getD 0
    let val := Ty.decode (.el t)
    first (exec (.vcntp vd va t) s) cs.length 0 ∧
    (t.isInt = true → cs ≠ [] →
      first (exec (.vsum vd va t r) s) (intTotal t cs % 2 ^ 64).toNat 0 ∧
      (∃ c ∈ cs, first (exec (.vrmax vd va t) s) c 0 ∧ ∀ k ∈ cs, t.toInt k ≤ t.toInt c) ∧
      ∃ c ∈ cs, first (exec (.vrmin vd va t) s) c 0 ∧ ∀ k ∈ cs, t.toInt c ≤ t.toInt k) ∧
    (t.isInt = true → cs = [] → first (exec (.vsum vd va t r) s) 0 fNV ∧ first (exec (.vrmax vd va t) s) no 0 ∧
      first (exec (.vrmin vd va t) s) no 0) ∧
    (t.isFloat = true →
      (cs = [] → ∀ out ∈ [exec (.vsum vd va t r) s, exec (.vmean vd va t r) s, exec (.vrmax vd va t) s, exec (.vrmin vd va t) s],
        first out no 0) ∧
      (∀ c ∈ cs, (Ty.decode (.el t) c).isNan = true →
        ∀ out ∈ [exec (.vsum vd va t r) s, exec (.vmean vd va t r) s, exec (.vrmax vd va t) s, exec (.vrmin vd va t) s],
        first out (Ty.nan (.el t)) (if cs.any (fun k => (Ty.decode (.el t) k).isSig) then fNV else 0)) ∧
      (cs ≠ [] → (∀ c ∈ cs, (Ty.decode (.el t) c).isNan = false) →
        (∃ c ∈ cs, first (exec (.vrmax vd va t) s) c 0 ∧ ∀ k ∈ cs, precedes (val c) (val k) = false) ∧
        (∃ c ∈ cs, first (exec (.vrmin vd va t) s) c 0 ∧ ∀ k ∈ cs, precedes (val k) (val c) = false) ∧
        (∀ n, (∃ c ∈ cs, val c = .inf n) →
          ((∃ c ∈ cs, val c = .inf !n) → first (exec (.vsum vd va t r) s) (Ty.nan (.el t)) fNV ∧
            first (exec (.vmean vd va t r) s) (Ty.nan (.el t)) fNV) ∧
          ((∀ c ∈ cs, val c ≠ .inf !n) → first (exec (.vsum vd va t r) s) (codeOf t (.inf n)) 0 ∧
            first (exec (.vmean vd va t r) s) (codeOf t (.inf n)) 0)) ∧
        ((∀ c ∈ cs, (val c).isFin = true) →
          (∃ code fl, first (exec (.vsum vd va t r) s) code fl ∧
            roundedTo t r (cs.map fun c => ratOf (val c)).sum cs code fl) ∧
          ∃ code fl, first (exec (.vmean vd va t r) s) code fl ∧
            roundedTo t r ((cs.map fun c => ratOf (val c)).sum / (cs.length : Rat)) cs code fl))) ∧
    (t.isFloat = true → ∃ (f : Nat → Nat × Nat) (x : VReg) (fl : Nat),
      vecWrites s ⟨16, 20⟩ vd x fl (exec (.vsqrt vd va t r) s) ∧ holds t x fl (fun i => f (laneAt t (s.slot.v va) i)) ∧
      ∀ c a d e, val c = .fin false a d e → a ≠ 0 → rootOf t r (ratOf (val c)) (f c)) ∧
    (t.isFloat = true → ∀ row ∈ specialRows r, ∃ (f : Nat → Nat × Nat) (x : VReg) (fl : Nat),
      vecWrites s ⟨16, 20⟩ vd x fl (exec (row.1 vd va t) s) ∧ holds t x fl (fun i => f (laneAt t (s.slot.v va) i)) ∧
      ∀ c, match Ty.decode (.el t) c with
        | .absent => f c = (no, 0)
        | .nan sig => f c = (Ty.nan (.el t), if sig then fNV else 0)
        | .inf n => f c = (codeOf t (row.2.2.1 n).1, (row.2.2.1 n).2)
        | .fin n a _ _ => (a = 0 → f c = (codeOf t (row.2.1 n).1, (row.2.1 n).2)) ∧
          (a ≠ 0 → n = true → row.2.2.2 = true → f c = (Ty.nan (.el t), fNV)))

namespace Sys2Proof.Claims
open Sys2Proof.Machine Host

/-- The permutes of two sources, with the lane of vA or vB that lane i takes (spec/11 R220). -/
def moveRows : List ((VNum → VNum → VNum → ElemTy → Instr) × (ElemTy → (Nat → Nat) → (Nat → Nat) → Nat → Nat)) := [
  (.vperm, fun t a b i => if t.bits = 8 then a (256 * (i / 256) + b i) else a (b i % t.lanes)),
  (.vshufZl, fun _ a b i => if i % 2 = 0 then a (i / 2) else b (i / 2)),
  (.vshufZh, fun t a b i => if i % 2 = 0 then a (t.lanes / 2 + i / 2) else b (t.lanes / 2 + i / 2)),
  (.vshufUe, fun t a b i => if i < t.lanes / 2 then a (2 * i) else b (2 * i - t.lanes)),
  (.vshufUo, fun t a b i => if i < t.lanes / 2 then a (2 * i + 1) else b (2 * i - t.lanes + 1))]

/-- The scalar register that a 4-bit field names (spec/11 R198). -/
def sNum (v : VNum) : Reg := BitVec.ofNat 5 v.toNat

/-- A lane as a scalar: sign-extended for i4 to i64, zero-extended for every other type (spec/11 R222). -/
def laneScalar (t : ElemTy) (c : Nat) : Word :=
  if t.isSigned then ((BitVec.ofNat t.bits c).signExtend 64) else BitVec.ofNat 64 c

end Sys2Proof.Claims

open Sys2Proof Sys2Proof.Machine Sys2Proof.Claims in
/-- Permutes, ABSENT operations and moves between scalar and vector registers.
vperm, the four vshuf forms, both vrot forms, viota, vfill, vbcast, both vins forms, vmkab, vmkab.tail and vtsab
complete with each lane (for vtsab each bit) of vD as R220 to R222 give it and no flag; both vext forms write the
lane, extended, to a scalar register, readable after 5 cycles, with the datapath taken for one.
(R198, R202, R220, R221, R222.) -/
def Obligations.VectorMove : Prop :=
  ∀ (vd va vb : VNum) (t : ElemTy) (i7 : BitVec 7) (p : BitVec 5) (s : State),
    let a := laneAt t (s.slot.v va)
    let d := laneAt t (s.slot.v vd)
    let x := s.slot.s (sNum va)
    let y := s.slot.s (sNum vb)
    let no := ((Ty.of t p.toNat).absent).getD 0
    let is := fun (out : Out) (lane : Nat → Nat) => ∃ z, vecWrites s ⟨4, 6⟩ vd z 0 out ∧ holds t z 0 fun i => (lane i, 0)
    let one := fun (out : Out) (r : Reg) (w : Word) =>
      out = .next ((pathTaken s 1).onCur fun z => z.writeFrom r w (s.now + 5)).advance
    (vecReady s [.v va, .v vb] [.v vd] → ∀ row ∈ moveRows, is (exec (row.1 vd va vb t) s) (row.2 t a (laneAt t (s.slot.v vb)))) ∧
    (vecReady s [.s (sNum vb) false, .v va] [.v vd] → is (exec (.vrot vd va vb t) s) fun i => a ((i + y.toNat) % t.lanes)) ∧
    (vecReady s [.v va] [.v vd] →
      is (exec (.vrotImm vd va t i7) s) (fun i => a ((i + i7.toNat) % t.lanes)) ∧
      ∃ z, vecWrites s ⟨4, 6⟩ vd z 0 (exec (.vtsab vd va t p) s) ∧
        ∀ i < 4096, z.getLsbD i = (decide (i < t.lanes) && (Ty.of t p.toNat).isAbsent (a i))) ∧
    (vecReady s [.s (sNum va) false] [.v vd] →
      is (exec (.viota vd va t) s) (fun i => x.toNat + i) ∧ is (exec (.vbcast vd va t) s) (fun _ => x.toNat)) ∧
    (vecReady s [] [.v vd] →
      (t ≠ .e8s → is (exec (.vfill vd t i7) s) fun _ => codeOf t (.int i7.toInt)) ∧
      (t = .e8s → ∀ k ≤ 5, i7.toInt = 2 ^ k → is (exec (.vfill vd t i7) s) fun _ => 127 + k)) ∧
    (vecReady s [.s (sNum va) false, .s (sNum vb) false, .v vd] [.v vd] →
      is (exec (.vins vd va vb t) s) fun i => if i = y.toNat % t.lanes then x.toNat else d i) ∧
    (vecReady s [.s (sNum va) false, .v vd] [.v vd] →
      (is (exec (.vinsImm vd va t i7) s) fun i => if i = i7.toNat then x.toNat else d i) ∧
      is (exec (.vmkabTail vd va t p) s) fun i => if x.toNat ≤ i then no else d i) ∧
    (vecReady s [.v va, .v vd] [.v vd] →
      is (exec (.vmkab vd va t p) s) fun i => if (s.slot.v va).getLsbD i then no else d i) ∧
    (vecReady s [.s (sNum vb) false, .v va] [.s (sNum vd)] →
      one (exec (.vext vd va vb t) s) (sNum vd) (laneScalar t (a (y.toNat % t.lanes)))) ∧
    (vecReady s [.v va] [.s (sNum vd)] → one (exec (.vextImm vd va t i7) s) (sNum vd) (laneScalar t (a i7.toNat)))

namespace Sys2Proof.Claims
open Sys2Proof.Machine Host

/-- The pointers of the lanes of a vector access: a base with an offset for each lane, all passing R93 (spec/11 R203 to
R205). -/
def lanePtrs (s : State) (base : Word) (offs : List Int) (n align : Nat) (ps : List Word) : Prop :=
  offs.map (addOff s.tiles base) = ps.map some ∧ ∀ p ∈ ps, s.ptrCause p n align false = none

end Sys2Proof.Claims

open Sys2Proof Sys2Proof.Machine Sys2Proof.Claims in
/-- vld, vst, vlds, vsts, vgath and vscat send their accesses.
With operands readable, the datapath free, every lane pointer within its window and aligned, and the access checks
passed: vld, vlds and vgath send one read of the places of all lanes in lane order with vD empty until it arrives,
vst, vsts and vscat one write of the lanes of vD to them; the offsets are I7 × 64 for one access of 512 bytes, j ×
s[b] for lane j, and the n32 lane j of the index vector. Each takes the datapath for 4 cycles.
(R202, R203, R204, R205.) -/
def Obligations.VectorMemory : Prop :=
  ∀ (vd va vb : VNum) (t : ElemTy) (i7 : BitVec 7) (s : State) (ps : List Word) (qs : List (Place × Nat)),
    unfenced s = true → pathFree s → 8 ≤ t.bits →
    let base := s.slot.s (sNum va)
    let n := t.bits / 8
    let strided := (List.range t.lanes).map fun j : Nat => (j : Int) * (s.slot.s (sNum vb)).toInt
    let indexed := (List.range (min t.lanes 128)).map fun j => (laneAt .n32 (s.slot.v vb) j : Int)
    let loads := fun out => sends (pathTaken s 4) (.v vd) .ld false false (s.target qs) (.read qs .vec) out
    let stores := fun out => sends (pathTaken s 4) .none .st false false (s.target qs)
      (.write (spread qs (leBytes 512 (s.slot.v vd).toNat))) out
    (lanePtrs s base [i7.toInt * 64] 512 64 ps →
      (s.ready [.s (sNum va) false] [.v vd] = true → passes s needLd (ps.map fun p => (p, 512)) qs → loads (exec (.vld vd va i7) s)) ∧
      (s.ready [.s (sNum va) false, .v vd] [] = true → passes s needSt (ps.map fun p => (p, 512)) qs →
        stores (exec (.vst vd va i7) s))) ∧
    (lanePtrs s base strided n n ps →
      (s.ready [.s (sNum va) false, .s (sNum vb) false] [.v vd] = true → passes s needLd (ps.map fun p => (p, n)) qs →
        loads (exec (.vlds vd va vb t) s)) ∧
      (s.ready [.s (sNum va) false, .s (sNum vb) false, .v vd] [] = true → passes s needSt (ps.map fun p => (p, n)) qs →
        stores (exec (.vsts vd va vb t) s))) ∧
    (lanePtrs s base indexed n n ps →
      (s.ready [.s (sNum va) false, .v vb] [.v vd] = true → passes s needLd (ps.map fun p => (p, n)) qs →
        loads (exec (.vgath vd va vb t) s)) ∧
      (s.ready [.s (sNum va) false, .v vb, .v vd] [] = true → passes s needSt (ps.map fun p => (p, n)) qs →
        stores (exec (.vscat vd va vb t) s)))

namespace Sys2Proof.Claims
open Sys2Proof.Machine Host

/-- The step at hand is about access n, which is f. -/
def about (s : State) (n : Nat) (f : Flight) : Prop := s.arg = .flight n ∧ s.flights[n]? = some f

/-- No full/empty request is parked at a bank (spec/07 R123). -/
def noneParked (s : State) : Prop := ∀ f ∈ s.flights, ∀ k, f.st ≠ .parked k

/-- Access n has been applied: its value and flags are on their way back to the tile that issued it, and it is otherwise
as before. -/
def answered (t : State) (n : Nat) (f : Flight) (val flags : Nat) : Prop :=
  ∃ g, t.flights[n]? = some g ∧ g.st = .served val flags ∧ g.req = f.req ∧ g.dest = f.dest ∧ g.owner = f.owner ∧
    g.tile = f.tile ∧ g.pkt.to_ = f.tile ∧ g.pkt.at_ = f.pkt.to_

/-- Access n has been answered RETRY by a packet that goes back to the tile that issued it, which keeps what it had sent; it is
otherwise as before (spec/07 R120; spec/18 R291). -/
def refusal (f g : Flight) : Prop :=
  g.st = .retry ∧ g.req = f.req ∧ g.dest = f.dest ∧ g.owner = f.owner ∧ g.tile = f.tile ∧ g.sent = f.sent ∧
    g.pkt.at_ = f.pkt.to_ ∧ g.pkt.to_ = f.tile ∧ g.pkt.rank = 4 ∧ g.pkt.flits = 1

/-- Memory is as before but for these bytes from a place of a scratchpad, of edge or of host memory; the reserved bytes of a
ring's header read as zero (spec/00 R4; spec/19 R326). -/
def onlyBytes (s t : State) (p : Place) (bs : List Byte) : Prop :=
  ∀ q : Place, t.byteAt q =
    if q.sp = p.sp ∧ p.off ≤ q.off ∧ q.off < p.off + bs.length
    then (if s.reservedAt q then 0 else bs[q.off - p.off]?.getD 0) else s.byteAt q

/-- The scratchpad words that a write of some bytes from a place touches are full after it, and every other word keeps its
full/empty bit (spec/06 R97). -/
def fills (s t : State) (p : Place) (n : Nat) : Prop :=
  ∀ u w, (t.getTile u).ctx.full w =
    ((s.getTile u).ctx.full w || decide (p.sp = .spad u ∧ w % 8 = 0 ∧ p.off / 8 * 8 ≤ w ∧ w < p.off + n))

/-- Every word keeps its full/empty bit. -/
def sameFull (s t : State) : Prop := ∀ u w, (t.getTile u).ctx.full w = (s.getTile u).ctx.full w

/-- A write of bytes to a place: exactly those bytes, each word of a scratchpad that it touches full. -/
def stores (s t : State) (p : Place) (bs : List Byte) : Prop := onlyBytes s t p bs ∧ fills s t p bs.length

/-- An access of a range can be applied now: every bank that it needs is free, no cask bank is in its refresh window, and
the bytes can be read (spec/06 R96, R103; spec/18 R305). -/
def bankReady (s : State) (p : Place) (n : Nat) : Prop :=
  s.banksFree [(p, n)] = true ∧ s.refreshing p n = false ∧ s.unreadable [(p, n)] = false

/-- The lines of a range lie in banks of their own: no more lines than a scratchpad or a cask has banks (spec/06 R96, R102). -/
def bankEach (p : Place) (n : Nat) : Prop :=
  match p.sp with
  | .spad _ => p.off % 64 + n ≤ 2048
  | .cask _ => p.off % 64 + n ≤ 512
  | _ => True

/-- No line of an access has had its turn yet. -/
def unserved (f : Flight) : Prop := f.lines = [] ∧ f.got = []

/-- A place of edge memory, of host memory or of a scratchpad. -/
def notCask (p : Place) : Prop := ∀ t, p.sp ≠ .cask t

/-- Whether a full/empty operation writes its operand to the word, its new full bit and its result, where its condition holds
(spec/07 R123). -/
def feRows : List (FeOp × (Bool → Bool) × Bool × (Bool → Bool) × (Nat → Bool → Nat)) := [
  (.ldf, fun f => f, false, fun f => f, fun m _ => m),
  (.ldfe, fun f => f, false, fun _ => false, fun m _ => m),
  (.ste, fun f => !f, true, fun _ => true, fun _ _ => 0),
  (.stf, fun _ => true, true, fun _ => true, fun _ _ => 0),
  (.clr, fun _ => true, false, fun _ => false, fun _ f => f.toNat),
  (.tst, fun _ => true, false, fun f => f, fun _ f => f.toNat)]

end Sys2Proof.Claims

open Sys2Proof Sys2Proof.Machine Sys2Proof.Claims in
/-- A read, a write and a full/empty operation where they land.
In a state whose memories are in canonical form, for an access that has landed on a tile that holds its plot, on a
range without a hidden reduction and with no request parked: with no line of it served yet, every bank it needs free
and its lines in banks of their own: a read of a slot (a literal: of a resident instruction line) or of an engine,
outside a refresh window, is answered with the value of its bytes and changes no byte and no full/empty bit; a write,
a member store, a chunk of an engine or the deposit of a lees.pop that no lease holds off stores exactly its bytes,
leaves each scratchpad word that it touches full and every other word as it was, and is answered (a reserved byte of a
ring's header stays zero); one that a lease holds off is answered RETRY in a packet to its tile; a full/empty
operation on an aligned word whose condition holds is answered with its result, leaves the word and its full bit as
R123 says and changes no other byte or bit; one whose condition fails is parked (waita always). An access none of
whose lines can be reached in this cycle waits and changes nothing. A tile that does not hold the plot answers RETRY.
(R4, R96, R97, R102, R103, R119, R120, R123, R144, R291, R326.) -/
def Obligations.BankAccess : Prop :=
  ∀ (s : State) (n : Nat) (f : Flight), s.memWf = true → about s n f → s.landed n f = true →
    (f.req.atBank = true → s.present f = false → ∃ g, exec .bankAccess s = .next { s with flights := s.flights.set n g } ∧ refusal f g) ∧
    (f.req.atBank = true → s.present f = true → f.linesLeft ≠ [] →
      (∀ l ∈ f.linesLeft, s.bankFree l = false ∨ ∃ u, l.sp = .cask u ∧ s.wafer.refresh.getLsbD (l.off / 64 % 8) = true) →
      exec .bankAccess s = .next s) ∧
    (s.present f = true → noneParked s →
      (∀ (p : Place) (k : Nat) (src dst : Span), f.req = .fetch src dst → src.ps = [(p, k)] → noHidden s p k →
        bankReady s p k → bankEach p k → unserved f →
        ∃ t, exec .bankAccess s = .next t ∧ answered t n f (leNat (s.readPlace p k)) 0 ∧ sameBytes s t ∧ sameFull s t) ∧
      (∀ (p : Place) (k : Nat) (e : Ext), f.req = .read [(p, k)] e → noHidden s p k → bankReady s p k →
        bankEach p k → unserved f →
        (∀ z, e = .code z → s.lineIn f.tile f.ptr = true) →
        (∀ l, s.runner f = some l → (s.getSlot l).snap = []) →
        ∃ t, exec .bankAccess s = .next t ∧ answered t n f (e.value (s.readPlace p k)) 0 ∧ sameBytes s t ∧ sameFull s t) ∧
      (∀ (p : Place) (bs : List Byte), bs ≠ [] → notCask p → s.banksFree [(p, bs.length)] = true →
        bankEach p bs.length → unserved f →
        (f.req = .write [(p, bs)] ∨ (∃ x g, f.req = .member p x g ∧ bs = leBytes 8 x.toNat) ∨
          ∃ host g, f.req = .chunk host g [(p, bs)]) →
        (s.heldOff f p bs.length = true → ∃ t g, exec .bankAccess s = .next t ∧ t.flights[n]? = some g ∧ refusal f g ∧
          sameBytes s t ∧ sameFull s t) ∧
        (noHidden s p bs.length → s.heldOff f p bs.length = false →
          ∃ t, exec .bankAccess s = .next t ∧ answered t n f 0 0 ∧ stores s t p bs)) ∧
      (∀ (p : Place) (bs : List Byte) (v : Word), f.req = .deposit p bs v → bs ≠ [] → notCask p →
        s.banksFree [(p, bs.length)] = true → bankEach p bs.length → unserved f → noHidden s p bs.length →
        s.heldOff f p bs.length = false →
        ∃ t, exec .bankAccess s = .next t ∧ answered t n f v.toNat 0 ∧ stores s t p bs) ∧
      (∀ (op : FeOp) (u off : Nat) (x : Word), f.req = .fe op ⟨.spad u, off⟩ x → off % 8 = 0 → noHidden s ⟨.spad u, off⟩ 8 →
        bankReady s ⟨.spad u, off⟩ 8 →
        s.heldOff f ⟨.spad u, off⟩ 8 = false →
        (∀ row ∈ feRows, row.1 = op → row.2.1 ((s.getTile u).ctx.full off) = true →
          ∃ t, exec .bankAccess s = .next t ∧
            answered t n f (row.2.2.2.2 (s.spadWord u off) ((s.getTile u).ctx.full off)) 0 ∧
            (∀ v w, (t.getTile v).ctx.full w = if v = u ∧ w = off then row.2.2.2.1 ((s.getTile u).ctx.full off)
              else (s.getTile v).ctx.full w) ∧
            (if row.2.2.1 then onlyBytes s t ⟨.spad u, off⟩ (leBytes 8 x.toNat) else sameBytes s t)) ∧
        ((∀ row ∈ feRows, row.1 = op → row.2.1 ((s.getTile u).ctx.full off) = false) →
          ∃ t k, exec .bankAccess s = .next t ∧ t.flights[n]?.map Flight.st = some (.parked k) ∧ sameBytes s t ∧ sameFull s t)))

namespace Sys2Proof.Claims
open Sys2Proof.Machine Host

/-- The access as its answer leaves: one that a plot unit had sent on (FWD traffic) answers from that unit (spec/07 R128,
spec/18 R291). -/
def atUnit (f : Flight) : Flight := if f.pkt.rank = 2 then { f with pkt := { f.pkt with to_ := f.pkt.src / 8 } } else f

end Sys2Proof.Claims

open Sys2Proof Sys2Proof.Machine Sys2Proof.Claims in
/-- An atomic and a contribution where they land.
For an access that has landed on a tile that holds its plot, that no lease holds off, on a word without a hidden
reduction and with no request parked: an atomic that is not of another device, with no atomic of a peer device held
before it, is answered with the old value, extended, and the flags, and stores the new value of R129 and nothing else,
its word full; one whose word cannot be read does nothing and tells its issuer so; one of another device is answered,
reported to that device with the address space of its issuer, whatever the bytes here, and changes no byte here (the
old value is free, log 6); one of plot scope whose word lies on another tile than the plot unit that executes it goes
on to that tile as FWD traffic; a contribution to a word whose entries agree adds to the accumulator of its core (a
new entry starts from the identity, while its bank holds fewer than 16), is answered, and changes no byte of memory.
(R128, R129, R132, R133, R305, R324.) -/
def Obligations.AtomicLands : Prop :=
  ∀ (s : State) (n : Nat) (f : Flight), s.memWf = true → about s n f → s.landed n f = true → s.present f = true →
    noneParked s →
    (∀ op ty sc p x cmp, f.req = .amo op ty sc p x cmp → notCask p → noHidden s p ty.size → s.placeHeld p f.plot = true →
      s.heldOff f p ty.size = false → s.waitsAtPort f sc = false →
      let k := 2 ^ (8 * ty.size)
      let old := leNat (s.readPlace p ty.size)
      let new := amoStep op ty old (x.toNat % k) (cmp.toNat % k)
      (sc = .plot → p.tile f.tile ≠ f.pkt.to_ → ∃ pk : Packet,
        exec .atomicAtHome s = .next { s with flights := s.flights.set n { f with pkt := pk } } ∧
        pk.at_ = f.pkt.at_ ∧ pk.to_ = p.tile f.tile ∧ pk.rank = 2 ∧ pk.src = f.pkt.at_ * 8 + 4 ∧ pk.lane = none ∧
        pk.unit = f.pkt.unit ∧ pk.ts = s.wafer.time / 8 % 2 ^ 20 ∧ pk.plot = (s.getTile f.pkt.at_).ctx.plot.getD 0) ∧
      (∀ dev, sc = .system → s.elsewhere f sc = some dev → s.banksFree [(p, ty.size)] = true →
        ∃ t v fl, exec .atomicAtHome s = .next t ∧ answered t n (atUnit f) v fl ∧ sameBytes s t ∧
          t.wafer.reports = .atomic dev op ty (s.asidOf f) (bits f.ptr 56 0) x cmp :: s.wafer.reports) ∧
      (s.elsewhere f sc = none → (sc = .plot → p.tile f.tile = f.pkt.to_) → s.banksFree [(p, ty.size)] = true →
        s.unreadable [(p, ty.size)] = true →
        ∃ g, exec .atomicAtHome s = .next { s with flights := s.flights.set n g } ∧ g.st = .bad ∧ g.pkt.to_ = f.tile) ∧
      (s.elsewhere f sc = none → (sc = .plot → p.tile f.tile = f.pkt.to_) → bankReady s p ty.size →
        ∃ t, exec .atomicAtHome s = .next t ∧ answered t n (atUnit f) (amoExtend ty old) new.2 ∧
          stores s t p (leBytes ty.size new.1))) ∧
    (∀ op ty u off x, f.req = .red op ty ⟨.spad u, off⟩ x → s.heldOff f ⟨.spad u, off⟩ ty.size = false → f.core < 8 →
      s.banksFree [(⟨.spad u, off⟩, ty.size)] = true →
      (∀ e ∈ (s.getTile u).ctx.red, e.off / 8 = off / 8 → e.op = op ∧ e.ty = ty) →
      let k := 2 ^ (8 * ty.size)
      (∀ before e after, (s.getTile u).ctx.red = before ++ e :: after → e.off = off →
        (∀ d ∈ before ++ after, d.off ≠ off) →
        ∃ t, exec .reductionContribution s = .next t ∧ answered t n f 0 0 ∧ sameBytes s t ∧
          (t.getTile u).ctx.red = before ++
            { e with acc := vset e.acc f.core (BitVec.ofNat 64 (redStep op ty (vget e.acc f.core 0).toNat (x.toNat % k))) }
              :: after) ∧
      ((∀ e ∈ (s.getTile u).ctx.red, e.off ≠ off) →
        ((s.getTile u).ctx.red.filter fun e => bankOf e.off == bankOf off).length < 16 →
        ∃ t e, exec .reductionContribution s = .next t ∧ answered t n f 0 0 ∧ sameBytes s t ∧
          (t.getTile u).ctx.red = (s.getTile u).ctx.red ++ [e] ∧ e.off = off ∧ e.op = op ∧ e.ty = ty ∧
          ∀ c < 8, vget e.acc c 0 = BitVec.ofNat 64
            (if c = f.core then redStep op ty (op.identity ty) (x.toNat % k) else op.identity ty)))

namespace Sys2Proof.Claims
open Sys2Proof.Machine Host

/-- The access as its issuing router sends it again (spec/07 R120): what it had sent, from its own tile, injected anew. -/
def resent (f : Flight) : Flight :=
  { f with
    st := .going
    pkt := { f.sent with
      at_ := f.tile, via := f.tile, esc := false, lane := none, plot := f.plot, unit := f.pkt.unit
      src := f.tile * 8 + f.pkt.unit } }

end Sys2Proof.Claims

open Sys2Proof Sys2Proof.Machine Sys2Proof.Claims in
/-- Repeats, acknowledgements, deliveries and refresh windows.
An access answered RETRY goes out again once its answer has come back; an acknowledged write ends; a value that has
come back to the slot that runs its record is written full to its register, sets its flags in STATUS and ends the
access; one for s1 to s6 of a record that is ready or waits goes to its carried word, which then holds it and is full,
and no other byte changes; any other one is discarded and changes nothing; one whose data could not be read leaves its
register empty and is kept for the first instruction that names it; bank b of the casks enters its refresh window at
4,096 b of each 32,768 ns and leaves it 256 ns later.
(R44, R57, R103, R119, R120, R305.) -/
def Obligations.AccessReturns : Prop :=
  ∀ (s : State) (n : Nat) (f : Flight), s.memWf = true →
    let ended : State := { s with flights := s.flights.eraseIdx n }
    (about s n f →
      (f.st = .retry → f.arrived = true → exec .accessRetry s = .next { s with flights := s.flights.set n (resent f) }) ∧
      (f.posted = true → f.arrived = true → (∃ v fl, f.st = .served v fl) →
        exec .accessAcknowledge s = .next { s with flights := s.flights.eraseIdx n }) ∧
      (∀ v fl, f.delivers = true → f.arrived = true → s.home f = true → f.due ≤ s.clk f.tile → f.st = .served v fl →
        (∀ l, ended.runner f = some l → ∃ t, exec .lateDelivery s = .next t ∧
          t.flights = s.flights.eraseIdx n ∧
          (∀ r, (t.getSlot l).s r = if f.dest = .s r ∧ r ≠ 0 then BitVec.ofNat 64 v else (s.getSlot l).s r) ∧
          (∀ r, (t.getSlot l).isFull r = ((s.getSlot l).isFull r || f.dest == .s r)) ∧
          (∀ r, (t.getSlot l).vIsFull r = ((s.getSlot l).vIsFull r || f.dest == .v r)) ∧
          (∀ r, (t.getSlot l).v r = if f.dest = .v r then BitVec.ofNat 4096 v else (s.getSlot l).v r) ∧
          (t.getSlot l).status = (s.getSlot l).status ||| BitVec.ofNat 64 (fl &&& 0x19F)) ∧
        (ended.runner f = none →
          let st := (s.getTile f.tile).ctx.recState f.owner
          let carried := fun r : Reg => f.dest = .s r ∧ 1 ≤ r.toNat ∧ r.toNat ≤ 6 ∧ (st = 1 ∨ st = 3)
          (∀ r, carried r → f.owner % 8 = 0 → ∃ t, exec .lateDelivery s = .next t ∧ t.flights = s.flights.eraseIdx n ∧
            stores s t ⟨.spad f.tile, f.owner + 8 + 8 * r.toNat⟩ (leBytes 8 v)) ∧
          ((∀ r, ¬carried r) → exec .lateDelivery s = .next ended))) ∧
      (f.delivers = true → f.arrived = true → s.home f = true → f.due ≤ s.clk f.tile → f.st = .bad → f.dest ≠ .none →
        ∀ l, ended.runner f = some l → exec .lateDelivery s =
          .next (ended.onSlot l fun x => { x with badReg := x.badReg ++ [(f.dest.num, f.ptr)] }))) ∧
    (∀ b, s.arg = .refresh b → b < 8 →
      (4096 * b ≤ s.wafer.time % 32768 → s.wafer.time % 32768 < 4096 * b + 256 →
        exec .refreshWindowStart s = .next { s with wafer := { s.wafer with refresh := s.wafer.refresh ||| BitVec.ofNat 8 (2 ^ b) } }) ∧
      (¬(4096 * b ≤ s.wafer.time % 32768 ∧ s.wafer.time % 32768 < 4096 * b + 256) →
        exec .refreshWindowEnd s = .next { s with wafer := { s.wafer with
          refresh := s.wafer.refresh &&& ~~~BitVec.ofNat 8 (2 ^ b) } }))

namespace Sys2Proof.Claims
open Sys2Proof.Machine Host

/-- A slot as dispatch of a record leaves it (spec/02 R27): running the record, the PC of its head, s1 to s6 with their
full bits from its carried words, and every other register, flag and counter cleared. -/
def dispatchedAs (c : Ctx) (r : Ready) (x : Slot) : Prop :=
  x.mode = .running ∧ x.run = ⟨r.queue, r.index, r.off⟩ ∧
    x.pc.toNat = bits (BitVec.ofNat 64 (Memory.word c.spad r.off)) 56 2 * 4 ∧
    (∀ i : Reg, x.s i = if 1 ≤ i.toNat ∧ i.toNat ≤ 6
      then BitVec.ofNat 64 (Memory.word c.spad (r.off + 8 + 8 * i.toNat)) else 0) ∧
    (∀ i : Reg, x.isFull i = if 1 ≤ i.toNat ∧ i.toNat ≤ 6 then c.full (r.off + 8 + 8 * i.toNat) else true) ∧
    (∀ v, x.v v = 0 ∧ x.vIsFull v = true) ∧ x.loops = [] ∧ x.status = 0 ∧ x.fecfg = 0 ∧ x.trapc = 0 ∧ x.trapv = 0 ∧
    (∀ i, vget x.lc i 0 = 0) ∧ (∀ i, vget x.ce i 0 = 0) ∧ ∀ i, vget x.de i 0 = 0

/-- What admission takes for a header of energy `e` and class `k` (spec/02 R28, R29): all of the class pool and of the
common pool where `e` exceeds E of the interval; otherwise `e` from the class pool first and the rest from the common pool.
The other pools stay. -/
def energyTaken (x y : Tile) (e k : Nat) : Prop :=
  (x.e < e → vget y.pools k 0 = 0 ∧ y.common = 0) ∧
    (e ≤ x.e → vget y.pools k 0 = vget x.pools k 0 - e ∧ y.common = x.common - (e - vget x.pools k 0)) ∧
    ∀ j, j ≠ k → vget y.pools j 0 = vget x.pools j 0

/-- A record of a tile has become ready (spec/02 R20, R22): its state is 1 and its wait kind 0, and it stands behind the
older ready records. -/
def madeReady (s t : State) (u q i off : Nat) : Prop :=
  (t.getTile u).ctx.recState off = 1 ∧ Memory.word (t.getTile u).ctx.spad (off + 8) = 0 ∧
    (t.getTile u).ctx.ready = (s.getTile u).ctx.ready ++ [⟨q, i, off, s.cycles u, 0⟩] ∧
    (t.getTile u).ctx.waits = (s.getTile u).ctx.waits.filter fun w => w.off != off

end Sys2Proof.Claims

open Sys2Proof Sys2Proof.Machine Sys2Proof.Claims in
/-- Dispatch and ageing; a spawn and a wake at their target.
Where the dispatcher of a tile has chosen a slot, a queue and a record: the step puts the record into the slot as R27
says, sets its state to 2, takes it from the ready records, takes CURRENT of its header from I_rem and ENERGY from the
pool of its class first and the rest from the common pool (all of both where ENERGY exceeds E of the interval),
remembers the queue at its key and dispatches again no sooner than 2 cycles later; a tile with reverse bias loses it,
and its slot waits for the end of 96 ns of wafer time. A ready record of an AGE queue that has waited for the next
multiple of 4,096 cycles gains a level. A spawn or a wake that has landed on a tile that holds its plot waits for the
bank of the record that it meets. A spawn: where its queue is valid and has a record in state 0 or 5, the lowest one
is written in state 1 with the resume PC and the carried registers, stands behind the ready records, and the answer is
0; with no such record the answer is 1, with no valid queue 2, and nothing else changes. A wake: a record in state 3
becomes ready and the answer is 3; another record answers its state and an offset that is no record 15, and nothing
else changes.
(R27, R28, R29, R30, R36, R37, R96, R269.) -/
def Obligations.DispatchAndSpawn : Prop :=
  (∀ (s : State) (u : Nat), s.memWf = true →
    (∀ l q r, s.arg = .tile u → s.nextDispatch u = some (l, q, r) → l.core < 8 → l.slot < 4 →
      ∃ t, exec .dispatch s = .next t ∧ dispatchedAs (s.getTile u).ctx r (t.getSlot l) ∧
        (t.getTile u).ctx.recState r.off = 2 ∧
        (t.getTile u).ctx.ready = ((s.getTile u).ctx.ready.filter fun y => y.off != r.off) ∧
        vget (t.getTile u).ctx.rot ((s.getTile u).ctx.effective r) 0 = q ∧
        (t.getTile u).irem = (s.getTile u).irem - ((s.getTile u).ctx.bind q).current ∧
        energyTaken (s.getTile u) (t.getTile u) ((s.getTile u).ctx.bind q).energy ((s.getTile u).ctx.bind q).cls ∧
        (t.getTile u).dispatched = true ∧ (t.getTile u).ctx.dispAt = s.clk u + 2 ∧ s.clk u + 8 ≤ (t.getSlot l).notBefore ∧
        (t.getTile u).reverse = false ∧
        ((s.getTile u).reverse = true → (t.getTile u).lifting = some (slotIx l, s.instant + 96 * 968))) ∧
    (∀ off, s.arg = .record u off → ∃ t, exec .ageingPromotion s = .next t ∧
      (t.getTile u).ctx.ready = (s.getTile u).ctx.ready.map fun r =>
        if r.off = off ∧ ((s.getTile u).ctx.bind r.queue).age = true ∧ r.level < 3 ∧
          ((r.level : Int) + 1) * 4096 ≤ (s.cycles u : Int) - r.since then { r with level := r.level + 1 } else r)) ∧
  (∀ (s : State) (n : Nat) (f : Flight), s.memWf = true → about s n f → s.landed n f = true → s.present f = true →
    let u := f.pkt.to_
    let c := (s.getTile u).ctx
    (s.banksFree (s.recordLine f) = false → (∀ q pc regs, f.req = .spawn q pc regs → exec .spawnRequest s = .next s) ∧
      (∀ off, f.req = .wake off → exec .wakeRequest s = .next s)) ∧
    (s.banksFree (s.recordLine f) = true →
    (∀ q pc regs, f.req = .spawn q pc regs →
      ((c.bind q).valid = false → exec .spawnRequest s = .next { s with flights := s.flights.set n (s.serve f 2 0) }) ∧
      ((c.bind q).valid = true → c.spare q = none →
        exec .spawnRequest s = .next { s with flights := s.flights.set n (s.serve f 1 0) }) ∧
      (∀ i, (c.bind q).valid = true → c.spare q = some i → regs.length = 6 →
        ∃ t, exec .spawnRequest s = .next t ∧ answered t n f 0 0 ∧
          Memory.word (t.getTile u).ctx.spad ((c.bind q).base + 64 * i) = 2 ^ 60 + bits pc 56 2 * 4 ∧
          (∀ k x b, regs[k]? = some (x, b) →
            Memory.word (t.getTile u).ctx.spad ((c.bind q).base + 64 * i + 16 + 8 * k) = x.toNat ∧
            (t.getTile u).ctx.full ((c.bind q).base + 64 * i + 16 + 8 * k) = b) ∧
          (t.getTile u).ctx.ready = c.ready ++ [⟨q, i, (c.bind q).base + 64 * i, s.cycles u, 0⟩])) ∧
    (∀ off, f.req = .wake off →
      (c.recordAt off = none → exec .wakeRequest s = .next { s with flights := s.flights.set n (s.serve f 15 0) }) ∧
      (∀ q i, c.recordAt off = some (q, i) → (c.bind q).base + 64 * i = off →
        (c.recState off ≠ 3 → ∃ t, exec .wakeRequest s = .next t ∧ answered t n f (c.recState off) 0 ∧
          ∀ v, (t.getTile v).ctx = (s.getTile v).ctx) ∧
        (c.recState off = 3 → ∃ t, exec .wakeRequest s = .next t ∧ answered t n f 3 0 ∧ madeReady s t u q i off)))))

open Sys2Proof Sys2Proof.Machine Sys2Proof.Claims in
/-- Waits that end, records retired (from their slots, as log 34 chooses) and killed.
A waiting record whose condition of kind 2 to 6 holds, and one of kind 7 whose time has come, becomes ready; one of
kind 1 takes its oldest notice with its tag, receives the descriptor in the carried word of its destination, full, and
becomes ready. A slot that has stalled on an empty source for FECFG.LIMIT cycles takes EMPTY_READ with the register
that it reports; an idle whose time has come completes. The record of a halted slot goes to state 5 with the PC and
the carried registers of the slot (the rule names the state only: that the words come from the slot is the model's
choice, log 34), its receives and notices end, and the slot is free; the slot at hand is taken here. A task kill sends
every record of its queue in states 1 to 4 to state 5 where none of them is in a slot, and leaves the others.
(R20, R22, R23, R35, R43, R315.) -/
def Obligations.RecordEvents : Prop :=
  (∀ (s : State) (u off : Nat) (w : Wait), s.memWf = true →
    (s.arg = .record u off → s.waiting u off = some w →
      (s.waitHolds u w = true → ∃ t, exec .waitConditionMet s = .next t ∧ madeReady s t u w.queue w.index off) ∧
      (s.timeHolds u w = true → ∃ t, exec .timeWaitExpiry s = .next t ∧ madeReady s t u w.queue w.index off) ∧
      (∀ len src mu, (s.getTile u).ctx.waitKind off = (1, (((s.getTile u).ctx.waitKind off).2)) →
        s.waitHolds u w = false →
        takeNotice off (((s.getTile u).ctx.waitKind off).2 % 65536) (s.getTile u).ctx.mu = some ((len, src), mu) →
        ∃ t, exec .waitConditionMet s = .next t ∧ (t.getTile u).ctx.mu = mu ∧ (t.getTile u).ctx.recState off = 1 ∧
          ∀ r, r = ((s.getTile u).ctx.waitKind off).2 / 65536 % 8 → r ≠ 0 →
            Memory.word (t.getTile u).ctx.spad (off + 8 + 8 * r) =
              (descriptor len src (((s.getTile u).ctx.waitKind off).2 % 65536)).toNat ∧
            (t.getTile u).ctx.full (off + 8 + 8 * r) = true)) ∧
    (∀ l : SlotLoc, s.arg = .slot l →
      ((s.getSlot l).overStalled (s.clk l.tile) = true → exec .stallLimitExpiry s =
        .next (s.at l fun x => x.takeTrap .emptyRead (BitVec.ofNat 64 x.slot.stallReg))) ∧
      (∀ k, (s.getSlot l).idleTo = some k → k ≤ s.wafer.time → exec .idleTimeReached s = .next (s.at l State.advance)))) ∧
  (∀ (s : State), s.memWf = true →
    (s.arg = .slot s.cur → s.slot.mode = .halted → ∃ t, exec .cellarRetireRecord s = .next t ∧ t.slot.mode = .free ∧
      Memory.word t.tile.ctx.spad s.slot.run.off = 5 * 2 ^ 60 + bits s.slot.pc 56 2 * 4 ∧
      (∀ i < 6, Memory.word t.tile.ctx.spad (s.slot.run.off + 16 + 8 * i) = (s.slot.s (BitVec.ofNat 5 (i + 1))).toNat) ∧
      t.tile.ctx.mu = dropEntries s.slot.run.off s.tile.ctx.mu) ∧
    (∀ u q, s.arg = .queue u q → ((s.getTile u).ctx.bind q).valid = true →
      (∀ off ∈ (s.getTile u).ctx.records q, s.slotOf u off = none) → ∃ t, exec .taskKill s = .next t ∧
      ∀ off ∈ (s.getTile u).ctx.records q, (t.getTile u).ctx.recState off =
        if 1 ≤ (s.getTile u).ctx.recState off ∧ (s.getTile u).ctx.recState off ≤ 4 then 5 else (s.getTile u).ctx.recState off))

open Sys2Proof Sys2Proof.Machine Sys2Proof.Claims in
/-- A message at its message unit, and the answer of a send.
A message that has landed on a tile that holds its plot: where a posted receive matches, the oldest one (no lease on
its buffer) takes the payload into its buffer, as one step with the last turn of its lines at their banks (log 14),
and is replaced by a notice of its record at the end, and waits while a bank is busy; where none matches and fewer
than 64 messages wait, it joins the lees queue; with 64, nothing is taken, LEESC.FULL is set and the answer is
LEES_FULL. The answer that reaches the slot at hand completes its send, or it traps LEES_FULL with TRAPV 0, or
PROTECTION with the refusal value.
(R142, R143, R285.) -/
def Obligations.MessageLands : Prop :=
  ∀ (s : State) (n : Nat) (f : Flight) (src dst tag : Nat) (data : List Byte), s.memWf = true → about s n f →
    f.req = .msg src dst tag data →
    let u := f.pkt.to_
    let c := (s.getTile u).ctx
    (s.landed n f = true → s.present f = true →
      (∀ older owner buf any ks kt newer, c.mu = older ++ .posted owner buf any ks kt :: newer →
        (kt = tag ∧ (any = true ∨ ks = src)) →
        (∀ e ∈ older, ∀ r b y k g, e = MuEntry.posted r b y k g → ¬(g = tag ∧ (y = true ∨ k = src))) →
        c.leased buf data.length = false → noHidden s ⟨.spad u, buf⟩ data.length → noneParked s →
        bankEach ⟨.spad u, buf⟩ data.length → s.banksFree [(⟨.spad u, buf⟩, data.length)] = true → f.lines = [] →
        (∀ w ∈ c.waits, w.off ≠ owner) →
        ∃ t, exec .messageArrival s = .next t ∧ answered t n f 0 0 ∧ stores s t ⟨.spad u, buf⟩ data ∧
          (t.getTile u).ctx.mu = older ++ newer ++ [.notice owner src tag data.length]) ∧
      (s.bufferHeld f = false → (∃ l ∈ s.msgLines f, s.bankFree l = false) →
        ∃ t, exec .messageArrival s = .next t ∧ sameBytes s t ∧ (t.getTile u).ctx.mu = c.mu ∧
          t.flights[n]?.map Flight.st = some f.st) ∧
      ((∀ e ∈ c.mu, ∀ r b y k g, e = MuEntry.posted r b y k g → ¬(g = tag ∧ (y = true ∨ k = src))) →
        (c.lees.length < 64 → ∃ t, exec .messageArrival s = .next t ∧ answered t n f 0 0 ∧ sameBytes s t ∧
          (t.getTile u).ctx.lees = c.lees ++ [⟨src, tag, data⟩]) ∧
        (64 ≤ c.lees.length → ∃ t, exec .messageArrival s = .next t ∧ t.flights[n]?.map Flight.st = some .leesFull ∧
          sameBytes s t ∧ (t.getTile u).ctx.lees = c.lees ∧ (t.getTile u).ctx.leesFull = true))) ∧
    (f.arrived = true → s.home f = true → s.runner f = some s.cur → s.slot.haltReq = none → s.wafer.freezes = [] →
      let d : State := { s with flights := s.flights.eraseIdx n }
      (∀ v fl, f.st = .served v fl →
        exec .sendAnswer s = .next ({ d with slot := { d.slot with mode := .running } } : State).advance) ∧
      (f.st = .leesFull → exec .sendAnswer s = .next (d.takeTrap .leesFull 0)) ∧
      (∀ v, f.st = .refused v → exec .sendAnswer s = .next (d.takeTrap .protection v)))

namespace Sys2Proof.Claims
open Sys2Proof.Machine Host

/-- An arrival at a barrier, as spec/07 R138 writes it: its status word and the barrier after it. -/
def arriveRule (b : Barrier) (now : Nat) (drop faulted : Bool) : Nat × Barrier :=
  let drops := b.drops + drop.toNat
  let fault := b.fault || faulted
  if b.arrived + 1 = b.expect then
    let left := b.pending.isNone && fault
    (2 ^ 63 + left.toNat * 2 ^ 62 + b.phase % 2 ^ 32,
      { b with phase := (b.phase + 1) % 2 ^ 32, arrived := 0, expect := b.pending.getD (b.expect - drops), fault := left,
               pending := none, drops := 0, doneAt := (b.phase, now) :: b.doneAt.filter fun x => decide (now < x.2 + 2048) })
  else
    (fault.toNat * 2 ^ 62 + (b.arrived + 1) % 65536 * 2 ^ 32 + b.phase % 2 ^ 32,
      { b with arrived := b.arrived + 1, drops := drops, fault := fault })

end Sys2Proof.Claims

open Sys2Proof Sys2Proof.Machine Sys2Proof.Claims in
/-- Arrivals, counts and reads at a barrier, and the refusal of an arrival.
At a barrier that its handle names: an arrival of a core, where EXPECT is not 0, is applied as R138 writes it and
answered with its status; where EXPECT is 0 it is refused with the handle and nothing changes; a count sets EXPECT at
once if ARRIVED is 0, clearing DROPS, PENDING and FAULT, and else PENDING; a read answers DONE, FAULT, ARRIVED and the
phase asked for. A refusal that reaches a slot at its halt boundary makes it trap STALE_HANDLE with the handle.
(R136, R138, R341.) -/
def Obligations.BarrierLands : Prop :=
  ∀ (s : State) (n : Nat) (f : Flight) (p : Plot) (h : Nat) (b : Barrier), about s n f →
    s.plot f.plot = some p → p.find h = some (.barrier b) →
    (s.landed n f = true →
      (∀ drop, f.req = .arrive h drop false false →
        (b.expect ≠ 0 →
          ∃ t, exec .barrierArrival s = .next t ∧
            answered t n f (arriveRule b (s.clk (if b.plotWide then p.at 0 else p.at b.tile)) drop false).1 0 ∧
            t.wafer = (s.setPlot (p.put h (.barrier
              (arriveRule b (s.clk (if b.plotWide then p.at 0 else p.at b.tile)) drop false).2))).wafer) ∧
        (b.expect = 0 → ∃ t, exec .barrierArrival s = .next t ∧ t.wafer = s.wafer ∧
          t.flights[n]?.map Flight.st = some (.refused (BitVec.ofNat 64 h)))) ∧
      (∀ k, f.req = .bini h k → exec .barrierArrival s =
        .next ({ s.setPlot (p.put h (.barrier (if b.arrived = 0
          then { b with expect := k, drops := 0, pending := none, fault := false } else { b with pending := some k }))) with
            flights := s.flights.eraseIdx n })) ∧
      (∀ ph, f.req = .btst h ph → b.phase < 2 ^ 32 → ph < 2 ^ 32 → ∃ t done, exec .barrierArrival s = .next t ∧
        (done = true ↔ hasCompleted b ph) ∧ t.wafer = s.wafer ∧
        answered t n f (done.toNat * 2 ^ 63 + b.fault.toNat * 2 ^ 62 + b.arrived % 65536 * 2 ^ 32 + ph) 0)) ∧
    (∀ drop fault v l, f.req = .arrive h drop fault false → f.st = .refused v → f.arrived = true → s.home f = true →
      s.runner f = some l → (s.getSlot l).mode = .running → exec .barrierRefusal s =
        .next (({ s with flights := s.flights.eraseIdx n } : State).at l fun x => x.trapHere .staleHandle v))

namespace Sys2Proof.Claims
open Sys2Proof.Machine Host

/-- A packet of the data plane moves one link on: closer to its goal by one router, along x first on the escape route, to
which it keeps once it has taken it; its class, goal, source, length and plot stay. The guard stamps it as it leaves its
tile, and a router keeps that stamp while it is no older than 2^18 (spec/18 R290, R293, R295). It takes the escape buffer of its class,
of 5 flits, only where no pool that it may take has room for it, and the flits that it finds there leave room for all of its
own; the lane that it chooses at its first hop it keeps (spec/18 R292, R293, R294). The pool's size is a choice (log 38). -/
def hopped (s : State) (p q : Packet) (r k : Nat) (e : Bool) : Prop :=
  q = { q with to_ := p.to_, rank := p.rank, flits := p.flits, src := p.src, plot := p.plot, unit := p.unit, nowhere := p.nowhere } ∧
    (let now := s.wafer.time / 8 % 2 ^ 20
     (p.lane = none → q.ts = now) ∧ (p.lane ≠ none → (now + 2 ^ 20 - p.ts % 2 ^ 20) % 2 ^ 20 ≤ 2 ^ 18 → q.ts = p.ts)) ∧
    q.at_ = r ∧ q.via = p.at_ ∧ q.esc = e ∧ q.lane = some k ∧ (p.lane = none ∨ p.lane = some k) ∧
    (let dist := fun a : Nat => ((a % 176 : Int) - p.to_ % 176).natAbs + ((a / 176 : Int) - p.to_ / 176).natAbs
     dist r + 1 = dist p.at_) ∧
    (p.esc = true → e = true ∧ (p.at_ % 176 ≠ p.to_ % 176 → r / 176 = p.at_ / 176)) ∧
    (p.esc = false → e = true → ∀ j < 8, (p.lane = none ∨ p.lane = some j) → Config.poolFlits < p.flits + s.occupied r p.at_ j none) ∧
    (e = false → p.flits + s.occupied r p.at_ k none ≤ Config.poolFlits) ∧
    (e = true → p.flits + s.occupied r p.at_ k (some p.rank) ≤ 5)

/-- A step of the part touches only the lanes of the links of the data plane: the lane of this link is taken, a flit for each
cycle of the clock of the tile whose router it leaves (spec/00 R2; spec/18 R293; log 38). -/
def onlyLanes (s t : State) (p : Packet) (r k : Nat) : Prop :=
  t.slot = s.slot ∧ t.tile = s.tile ∧ t.cur = s.cur ∧ t.wafer = { s.wafer with
    lanes := t.wafer.lanes, laneRot := t.wafer.laneRot, xlates := t.wafer.xlates } ∧
  t.wafer.lanes.head? = some ⟨⟨p.at_, r⟩, k, s.instant + p.flits * s.period p.at_⟩

end Sys2Proof.Claims

open Sys2Proof Sys2Proof.Machine Sys2Proof.Claims in
/-- Hops, refusals at the boundary and link retries.
A packet that may leave its router, of an access or of a translation miss, moves one router closer, along x first on
the escape route, from which it never returns, on a lane of the link that is free, which it keeps for its whole path.
It takes the escape buffer of its class, of 5 flits, only where the pool of the next router has no room (the pool's
size, and that a lane carries a flit in each cycle of the clock of the tile whose router the packet leaves, are the
choices of log 38), and it stays where it stands while neither has; nothing else but the lanes of links changes. The
guard of its tile stamps it with the time as it leaves; a router keeps the stamp while it is no older than 2^18 units.
A send that its boundary router refuses is answered, in a packet that carries the time and the plot of that router's
tile, with the refusal value of R285, here where that router is a tile of the plot. A retry on a lane is counted, and
the whole of the rest of the machine, every other count included, is as before.
(R285, R290, R292, R293, R294, R295, R304.) -/
def Obligations.PacketSteps : Prop :=
  ∀ (s : State) (n : Nat),
    (∀ f y r k e, s.arg = .hop n y → s.flights[n]? = some f → s.canHop f = true → s.hopTo f.pkt y = some (r, k, e) →
      ∃ t g, exec .packetHop s = .next t ∧ t.flights = s.flights.set n g ∧ g = { f with pkt := g.pkt } ∧
        hopped s f.pkt g.pkt r k e ∧ onlyLanes s t f.pkt r k ∧ t.wafer.xlates = s.wafer.xlates ∧
        ∀ b ∈ s.wafer.lanes, b.link = ⟨f.pkt.at_, r⟩ → b.lane = k → b.till ≤ s.instant) ∧
    (∀ x y r k e, s.arg = .hop (s.flights.length + n) y → s.wafer.xlates[n]? = some x → s.missHops x = true →
      s.hopTo x.pkt y = some (r, k, e) →
      ∃ t z, exec .packetHop s = .next t ∧ t.wafer.xlates = s.wafer.xlates.set n z ∧ z = { x with pkt := z.pkt } ∧
        hopped s x.pkt z.pkt r k e ∧ onlyLanes s t x.pkt r k ∧ t.flights = s.flights) ∧
    (∀ f y, s.arg = .hop n y → s.flights[n]? = some f → s.hopTo f.pkt y = none → exec .packetHop s = .next s) ∧
    (∀ f p src dst tag data r, about s n f → s.plot f.plot = some p → f.req = .msg src dst tag data →
      s.refusable f = true → p.tiles.findIdx? (fun u => u == f.pkt.at_) = some r →
      ∃ k : Packet, exec .boundaryRefusal s = .next { s with flights := s.flights.set n { f with
          st := .refused (BitVec.ofNat 64 (r % 65536 * 2 ^ 32 + dst % 65536 * 2 ^ 16 + tag % 65536)), pkt := k } } ∧
        k.at_ = f.pkt.at_ ∧ k.to_ = f.tile ∧ k.nowhere = false ∧ k.rank = 4 ∧ k.ts = s.wafer.time / 8 % 2 ^ 20 ∧
        k.plot = (s.getTile f.pkt.at_).ctx.plot.getD 0) ∧
    (∀ k lane, s.arg = .lane k lane → exec .linkRetry s = .next { s with wafer := { s.wafer with
      linkRetries := (k, lane, ((s.wafer.linkRetries.find? fun x => x.1 == k && x.2.1 == lane).map fun x => x.2.2).getD 0 + 1) ::
        s.wafer.linkRetries.filter fun x => !(x.1 == k && x.2.1 == lane) } })

namespace Sys2Proof.Claims
open Sys2Proof.Machine Host

/-- A packet that an engine of tile u sends for a command: its unit, its core, its place in the order of issue, its class, the
tile it goes to and what it does there. It is appended to the accesses in flight, and no memory changes (spec/07 R149, R150;
spec/18 R291). -/
def engineSends (s t : State) (u unit core owner seq rank goal : Nat) (req : Req) : Prop :=
  sameBytes s t ∧ sameFull s t ∧ ∃ g : Flight, t.flights = s.flights ++ [g] ∧ g.st = .going ∧ g.req = req ∧ g.tile = u ∧
    g.pkt.unit = unit ∧ g.core = core ∧ g.owner = owner ∧ g.seq = seq ∧ g.pkt.rank = rank ∧ g.pkt.to_ = goal

/-- The bytes of a chunk have come back to an engine: the read is access n, answered. -/
def chunkRead (s : State) (u unit core seq n : Nat) (f : Flight) (src dst : Span) (bytes : List Byte) : Prop :=
  s.fetchOf u unit core seq = some (n, f) ∧ f.req = .fetch src dst ∧ f.arrived = true ∧
    ∃ v fl, f.st = .served v fl ∧ bytes = leBytes (extent src.ps) v

/-- The chunk's write has taken the place of its read: posted, to be acknowledged by its home; no memory changes. -/
def chunkWritten (s t : State) (n : Nat) (f : Flight) (dst : Span) (bytes : List Byte) : Prop :=
  sameBytes s t ∧ sameFull s t ∧ ∃ g : Flight, t.flights = s.flights.set n g ∧ g.st = .going ∧
    g.req = .chunk dst.plot dst.grant (spread dst.ps bytes) ∧ g.tile = f.tile ∧ g.pkt.unit = f.pkt.unit ∧ g.core = f.core ∧
    g.owner = f.owner ∧ g.seq = f.seq ∧ g.pkt.rank = 3

/-- Nothing stands before the end of a command of tile u: no packet of it is on its way, and every write that its record made
before the fork has been acknowledged (spec/08 R159, R160, R169). -/
def mayEnd (s : State) (u plot unit core owner seq : Nat) : Prop :=
  s.engineBusy u unit core seq = false ∧
    ∀ f ∈ s.flights, f.of u plot owner = true → f.seq < seq → f.isWrite = false

/-- The cause with which a command ends where its completion word lies at a place or there is none: that of its failure
(spec/07 R150). -/
def failure : EngSt → Option Nat
  | .failed e | .closing (some e) => some e
  | _ => none

/-- A completion word: the value of the command, or the error form with the cause and the bytes (spec/07 R150). -/
def endWord (cause : Option Nat) (val : Word) (bytes : Nat) : Nat :=
  match cause with
  | none => val.toNat
  | some e => 2 ^ 63 + e % 256 * 2 ^ 48 + bytes % 2 ^ 48

end Sys2Proof.Claims

open Sys2Proof Sys2Proof.Machine Sys2Proof.Claims in
/-- The copy engine and the decant engine: chunks (as log 11 cuts them), completions, refusals.
For the command at the head of a running copy engine: with no packet of it on its way, the next chunk is asked for by
a read sent to where its source lies; the bytes that come back go to the destination in a posted write, and the
command advances by them; a read that comes back in error fails the command with ECC_UNCORRECTABLE. While a packet of
the command is on its way or a write that its record made before the fork is not acknowledged, the command does not
end. Then one that has delivered its last chunk, or has failed, sends its completion word (its value, or the error
form with its cause and byte count) to where it lies, if there is one; once that is acknowledged, or where there is
none, it leaves the queue, counts an error for its record if it failed, and, for cpyb, arrives at its barrier, faulted
if it failed. A chunk that the boundary refuses freezes the engine; resume and discard let it go on, or end in error
with PROTECTION. None of these steps changes a byte of memory itself. For the command at the head of a running decant
engine: with no packet of it on its way, the next chunk is asked for by a read; the bytes that come back go to the
half of the cask in a posted write, and the command advances by them; once every chunk and every write that its record
made before the fork is acknowledged, it sends its completion word, and once that is acknowledged too, or where there
is none, it leaves the queue and lowers PEND of its vintage by one, raising ERRS if it failed.
(R149, R150, R151, R159, R160, R169, R297, R333.) -/
def Obligations.EngineProgress : Prop :=
  (∀ (s : State) (u plot : Nat) (c : CopyCmd) (rest : List CopyCmd), s.arg = .tile u →
    (s.getTile u).ctx.ceq = c :: rest → (s.getTile u).ctx.plot = some plot → s.works u .ce = true →
    let queue := fun t : State => (t.getTile u).ctx.ceq
    (∀ src dst, c.st = .ready → c.done < c.total → s.engineBusy u 1 c.core c.seq = false → s.copyPlan u plot c = .go src dst →
      ∃ t, exec .copyChunk s = .next t ∧ queue t = c :: rest ∧
        engineSends s t u 1 c.core c.owner c.seq 1 (homeOf u src) (.fetch
          ⟨s.operandPlot plot c.src, s.operandGrant plot c.src, src⟩ ⟨s.operandPlot plot c.dst, s.operandGrant plot c.dst, dst⟩)) ∧
    (∀ n f src dst bytes, chunkRead s u 1 c.core c.seq n f src dst bytes → ∃ t, exec .copyChunk s = .next t ∧
      chunkWritten s t n f dst bytes ∧ queue t = { c with done := c.done + bytes.length, xl := [] } :: rest) ∧
    (∀ n f, s.fetchOf u 1 c.core c.seq = some (n, f) → f.arrived = true → f.st = .bad → ∃ t, exec .copyChunk s = .next t ∧
      sameBytes s t ∧ t.flights = s.flights.eraseIdx n ∧ queue t = { c with st := .failed Cause.ecc.code } :: rest) ∧
    (¬mayEnd s u plot 1 c.core c.owner c.seq → (∀ e, c.st ≠ .closing e) → exec .copyCompletion s = .next s) ∧
    (mayEnd s u plot 1 c.core c.owner c.seq → (c.st = .ready ∧ c.total ≤ c.done) ∨ (∃ e, c.st = .failed e) →
      (∀ p, s.doneAt u plot (vget c.regs 5 0) = .at_ p → ∃ t, exec .copyCompletion s = .next t ∧
        queue t = { c with st := .closing (failure c.st) } :: rest ∧
        engineSends s t u 1 c.core c.owner c.seq 3 (p.tile u)
          (.chunk plot none [(p, leBytes 8 (endWord (failure c.st) c.val c.done))]))) ∧
    (s.engineBusy u 1 c.core c.seq = false →
      (∃ e, c.st = .closing e) ∨ (mayEnd s u plot 1 c.core c.owner c.seq ∧ s.doneAt u plot (vget c.regs 5 0) = .none ∧
        ((c.st = .ready ∧ c.total ≤ c.done) ∨ ∃ e, c.st = .failed e)) →
      ∃ t, exec .copyCompletion s = .next t ∧ queue t = rest ∧ sameBytes s t ∧
        (t.getTile u).ctx.errors c.owner .ce = (s.getTile u).ctx.errors c.owner .ce + (failure c.st).isSome.toNat ∧
        (c.bar = false → t.flights = s.flights) ∧
        (c.bar = true → ∃ g : Flight, t.flights = s.flights ++ [g] ∧ g.tile = u ∧ g.plot = plot ∧ g.pkt.rank = 5 ∧
          g.req = .arrive (bits (vget c.regs 6 0) 31 0) false (failure c.st).isSome true)) ∧
    (∀ p, s.plot plot = some p → c.st = .ready → c.done < c.total → s.copyPlan u p.num c = .refused →
      ∃ t, exec .engineRefusal s = .next t ∧ queue t = { c with st := .refused } :: rest ∧ sameBytes s t) ∧
    (c.st = .refused →
      (∃ t, exec .engineResume s = .next t ∧ queue t = { c with st := .ready } :: rest ∧ sameBytes s t) ∧
      ∃ t, exec .engineCommandDiscard s = .next t ∧ queue t = { c with st := .failed 7 } :: rest ∧ sameBytes s t)) ∧
  (∀ (s : State) (u plot : Nat) (c : DecantCmd) (rest : List DecantCmd), s.arg = .tile u →
    (s.getTile u).ctx.deq = c :: rest → (s.getTile u).ctx.plot = some plot → s.works u .de = true →
    let queue := fun t : State => (t.getTile u).ctx.deq
    (∀ src dst, c.st = .ready → c.done < c.total → s.engineBusy u 3 c.core c.seq = false → s.decantPlan u plot c = .go src dst →
      ∃ t, exec .decantChunk s = .next t ∧ queue t = c :: rest ∧
        engineSends s t u 3 c.core c.owner c.seq 1 (homeOf u src) (.fetch ⟨plot, none, src⟩ ⟨plot, none, dst⟩)) ∧
    (∀ n f src dst bytes, chunkRead s u 3 c.core c.seq n f src dst bytes → ∃ t, exec .decantChunk s = .next t ∧
      chunkWritten s t n f dst bytes ∧ queue t = { c with done := c.done + bytes.length } :: rest) ∧
    (mayEnd s u plot 3 c.core c.owner c.seq → (c.st = .ready ∧ c.total ≤ c.done) ∨ (∃ e, c.st = .failed e) →
      (∀ p, s.doneAt u plot (vget c.regs 5 0) = .at_ p → ∃ t, exec .decantCompletion s = .next t ∧
        queue t = { c with st := .closing (failure c.st) } :: rest ∧
        engineSends s t u 3 c.core c.owner c.seq 3 (p.tile u)
          (.chunk plot none [(p, leBytes 8 (endWord (failure c.st) c.val c.done))]))) ∧
    (∀ p v, s.engineBusy u 3 c.core c.seq = false →
      (∃ e, c.st = .closing e) ∨ (mayEnd s u plot 3 c.core c.owner c.seq ∧ s.doneAt u plot (vget c.regs 5 0) = .none ∧
        ((c.st = .ready ∧ c.total ≤ c.done) ∨ ∃ e, c.st = .failed e)) →
      s.plot plot = some p → p.find c.vint = some (.vintage v) →
      ∃ t, exec .decantCompletion s = .next t ∧ queue t = rest ∧ sameBytes s t ∧
        t.wafer.plots = (s.setPlot (p.put c.vint (.vintage { v with
          pend := v.pend - 1, errs := if (failure c.st).isSome then min 65535 (v.errs + 1) else v.errs }))).wafer.plots))

open Sys2Proof Sys2Proof.Machine Sys2Proof.Claims in
/-- The matrix engine: grants, ends of commands, and the ramp.
On a running tile with a plot: a free path grants the core that its arbiter picks (its holder while it is eligible and
has credit, else the first eligible core after it with its weight), which locks its panel; a step of mzero whose work
is done zeroes its panel, moves its command on and frees the path; a command with no step left, none of its packets on
its way and every write that its record made before it acknowledged leaves its queue, and its flags reach STATUS of
the slot that issued it, if its record runs there; each period moves the level (0 at the first one after a halt) one
table step toward its target, and each period of a skim tail lowers it, the first one right after a step only where
the ceiling is below it, never below a ceiling that it exceeds, ending the tail at 0.
(R242, R243, R247, R248, R264, R265, R280.) -/
def Obligations.MatrixEngine : Prop :=
  ∀ (s : State) (u plot : Nat), s.memWf = true → (s.getTile u).ctx.plot = some plot → s.works u .me = true →
    (∀ p, s.arg = .path u p → ((s.getTile u).ctx.arb p).running = none →
      (p = .transfer → ∀ k < 8, s.mxPrepare u plot k = none) →
      let a := (s.getTile u).ctx.arb p
      let granted := fun k credit => ∃ t, exec .matrixGrant s = .next t ∧ ((t.getTile u).ctx.arb p).holder = k ∧
        ((t.getTile u).ctx.arb p).credit = credit ∧ ((t.getTile u).ctx.arb p).running = some k ∧
        ∃ h, (t.getTile u).ctx.mxHead k = some h ∧ h.started = true
      (s.eligible u plot p a.holder = true → 0 < a.credit → granted a.holder (a.credit - 1)) ∧
      (∀ k before after, (s.eligible u plot p a.holder = true → a.credit = 0) → coresAfter a.holder = before ++ k :: after →
        (∀ j ∈ before, s.eligible u plot p j = false) → s.eligible u plot p k = true →
        granted k ((s.getTile u).ctx.weight k - 1))) ∧
    (∀ core c, s.arg = .path u .array → ((s.getTile u).ctx.arb .array).running = some core →
      (s.getTile u).ctx.mxHead core = some c → c.st = .ready → c.op = .mzero → c.reads = [] → c.panel < 8 → s.arrayDone u c = true →
      ∃ t, exec .matrixStepEnd s = .next t ∧ ((t.getTile u).ctx.arb .array).running = none ∧
        (∀ p i j, i < 64 → j < 64 → (t.getTile u).ctx.elem p i j = if p = c.panel then 0 else (s.getTile u).ctx.elem p i j) ∧
        ∃ h, (t.getTile u).ctx.mxHead core = some h ∧ h.step = c.step + 1) ∧
    (∀ core c rest, s.arg = .core u core → vget (s.getTile u).ctx.mq core [] = c :: rest → c.st = .ready → c.steps ≤ c.step →
      mayEnd s u plot 2 c.core c.owner c.seq → c.core = core →
      ((s.getTile u).ctx.arb .array).running ≠ some core → ((s.getTile u).ctx.arb .transfer).running ≠ some core → core < 8 →
      ∃ t, exec .matrixCommandCompletion s = .next t ∧
        (vget (t.getTile u).ctx.mq core []).map MxCmd.id = rest.map MxCmd.id ∧
        (c.core < 8 → c.slot < 4 → (t.getSlot ⟨u, c.core, c.slot⟩).status =
          if (s.getSlot ⟨u, c.core, c.slot⟩).mode ≠ .free ∧ (s.getSlot ⟨u, c.core, c.slot⟩).run.off = c.owner
          then ((s.getSlot ⟨u, c.core, c.slot⟩).raise c.flags).status else (s.getSlot ⟨u, c.core, c.slot⟩).status)) ∧
    (s.arg = .tile u →
      let r := (s.getTile u).ctx.ramp
      (∀ core c, (s.getTile u).ctx.arrayArb.running = some core → (s.getTile u).ctx.mxHead core = some c → r.due ≤ s.clk u →
        let goal := match c.op with
          | .skim _ g => min g r.ceil
          | _ => r.ceil
        ∃ t, exec .rampPeriod s = .next t ∧ (t.getTile u).ctx.ramp.due = s.clk u + 4 ∧
          (t.getTile u).ctx.ramp.level =
            let l := if r.cold then 0 else r.level
            if l < goal then min goal (l + r.up) else if goal < l then max goal (l - r.down) else l) ∧
      (r.tail = true → r.tailDue ≤ s.clk u → ∃ t, exec .skimTailPeriod s = .next t ∧
        (t.getTile u).ctx.ramp.level = (if r.ceil < r.level then max r.ceil (r.level - r.down)
          else if s.clk u = r.ended + 1 then r.level else r.level - r.down) ∧
        ((t.getTile u).ctx.ramp.tail = true ↔ 0 < (t.getTile u).ctx.ramp.level)))

namespace Sys2Proof.Claims
open Sys2Proof.Machine Host

/-- The low 56 bits of an element, and the integer that they hold (spec/10 R194). -/
def low56 (e : Elem) : Nat := e.toNat % 2 ^ 56
def int56 (e : Elem) : Int := (BitVec.ofNat 56 e.toNat).toInt

/-- An exact sum of products (spec/10 R195): NaN if one is NaN or infinities of both signs are there, else the infinity,
else the number, −0 only if every product is −0. -/
def totalOf (prods : List Val) (s : Val) : Prop :=
  ((∃ p ∈ prods, p.isNan = true) → s.isNan = true) ∧
    ((∃ p ∈ prods, p = .inf true) → (∃ p ∈ prods, p = .inf false) → s.isNan = true) ∧
    ((∀ p ∈ prods, p.isNan = false) → ∀ n, (∃ p ∈ prods, p = .inf n) → (∀ p ∈ prods, p ≠ .inf !n) → s = .inf n) ∧
    ((∀ p ∈ prods, p.isFin = true) → s.isFin = true ∧ ratOf s = (prods.map ratOf).sum ∧
      (s.isZero = true → (s.isNeg = true ↔ ∀ p ∈ prods, p.isZero = true ∧ p.isNeg = true)))

/-- One group of operand pairs added to an element (spec/10 R195): pairs with an ABSENT operand are skipped and not counted;
the count saturates; the float form rounds the sum of value and total once, the integer form clamps it, with ISAT. -/
def groupAdded (int : Bool) (e : Elem) (pairs : List (Val × Val)) (out : Elem × Nat) : Prop :=
  let here := pairs.filter fun x => x.1 != .absent && x.2 != .absent
  let prods := here.map fun x => (Val.mul x.1 x.2).1
  (here = [] → out = (e, 0)) ∧
    (here ≠ [] → elCount out.1 = min (elCount e + here.length) 65535 ∧ ∃ s, totalOf prods s ∧
      (int = false →
        let v := Val.add .rne (Ty.decode .a56 (low56 e)) s
        low56 out.1 = (Ty.round .a56 .rne v.1).1 ∧
          ((∀ p ∈ prods, p.isFin = true) → out.2 = v.2 ||| (Ty.round .a56 .rne v.1).2)) ∧
      (int = true → (∀ p ∈ prods, ∃ z : Int, p = .int z) → ∃ z : Int, (z : Rat) = ratOf s ∧
        int56 out.1 = max (-2 ^ 55) (min (2 ^ 55 - 1) (int56 e + z)) ∧
        out.2 = if int56 out.1 = int56 e + z then 0 else fISAT))

/-- The rows and the k of each array step (spec/13 R232, R233). -/
def rowsOf (r : MeRegs) : Nat := if fmtCode (meFa r) = 9 then 32 else 64
def kOf (r : MeRegs) : Nat :=
  (if fmtCode (meFa r) = 9 then 16 else if fmtCode (meFa r) = 10 ∨ fmtCode (meFa r) = 11 then 32
    else if fmtCode (meFa r) = 0 ∧ fmtCode (meFb r) = 0 then 128 else 64) * if mePat r = 0 then 1 else 2
def chunksOf (r : MeRegs) : Nat := (meK r + kOf r - 1) / kOf r
/-- The first k of a step, and the one after its last. -/
def kFrom (r : MeRegs) (step : Nat) : Nat := step % chunksOf r * kOf r
def kTo (r : MeRegs) (step : Nat) : Nat := min (meK r) (kFrom r step + kOf r)

/-- A field of some bits that begins a number of bits after a place. -/
def fieldAt (s : State) (p : Place) (bit w : Nat) : Nat :=
  leNat (s.readPlace ⟨p.sp, p.off + bit / 8⟩ ((bit % 8 + w + 7) / 8)) / 2 ^ (bit % 8) % 2 ^ w

/-- An element of a dense operand with no scales: element k of row r of A or B, contiguous for mma, in rows turned by the
skew of its descriptor for mmas (spec/13 R234, R237). -/
def denseAt (s : State) (spread : Bool) (base : Place) (per pitch skew : Nat) (x : Word) (r k : Nat) : Val :=
  let w := (fmtEl x).bits
  Ty.decode (fmtTy x) (fieldAt s base
    (if spread then 8 * (r * pitch + 64 * (r * skew % 32)) + k * w else (r * per + k) * w) w)

/-- What mld makes of the bytes of an element (spec/13 R238); that an integer form sets NX for a value that is not whole is the
model's reading (log 35). -/
def loaded (c : MxCmd) (bs : List Byte) (e : Elem) (fl : Nat) : Prop :=
  let int := intForm c.regs
  (c.op = .mldRaw → e = BitVec.ofNat 72 (leNat bs) ∧ fl = 0) ∧
  (c.op = .mld → match Ty.decode (fmtTy (meFc c.regs)) (leNat bs) with
    | .absent => e = 0 ∧ fl = 0
    | .nan sig => elCount e = 1 ∧ low56 e = (if int then 0 else 1023 * 2 ^ 45 + 2 ^ 44) ∧ (int = true → fl = fNV) ∧
      (int = false → fl = if sig then fNV else 0)
    | .inf n => elCount e = 1 ∧ (int = true → int56 e = (if n then -2 ^ 55 else 2 ^ 55 - 1) ∧ fl = fISAT) ∧
      (int = false → Ty.decode .a56 (low56 e) = .inf n ∧ fl = 0)
    | .fin n a d x => elCount e = 1 ∧
      (int = true →
        let q := inUnits a d x 0
        let z := finNum n (rintMag (meRnd c.regs) n q.1 q.2)
        int56 e = max (-2 ^ 55) (min (2 ^ 55 - 1) z) ∧
          fl = (if int56 e = z then 0 else fISAT) ||| if q.1 % q.2 = 0 then 0 else fNX) ∧
      (int = false → (low56 e, fl) = Ty.round .a56 (meRnd c.regs) (.fin n a d x)))

/-- What a drain writes for an element in sum, mean or count mode, or raw (spec/10 R196, spec/13 R239). -/
def drained (c : MxCmd) (e : Elem) (bs : List Byte) (fl : Nat) : Prop :=
  let int := intForm c.regs
  let ty := fmtTy (meFc c.regs)
  let many := if elCount e = 65535 then fCNTOV else 0
  let value := if int then Val.int (int56 e) else Ty.decode .a56 (low56 e)
  (c.op = .mdrainRaw → bs = leBytes 9 e.toNat ∧ fl = 0) ∧
  (c.op ≠ .mdrainRaw → meMode c.regs = 2 → bs = leBytes 4 (elCount e) ∧ fl = many) ∧
  (c.op ≠ .mdrainRaw → meMode c.regs ≤ 1 → ∃ code g, bs = leBytes ((fmtEl (meFc c.regs)).bits / 8) code ∧ fl = many ||| g ∧
    (elCount e = 0 → ∀ a, ty.absent = some a → (code, g) = (a, 0)) ∧
    (elCount e = 0 → ty.absent = none → (code, g) = (0, fNV)) ∧
    (elCount e ≠ 0 → meMode c.regs = 0 → (code, g) = ty.round (meRnd c.regs) value) ∧
    (elCount e ≠ 0 → meMode c.regs = 1 → ∃ q, (code, g) = ty.round (meRnd c.regs) q ∧
      (value.isFin = true → q.isFin = true ∧ ratOf q = ratOf value / (elCount e : Rat) ∧ q.isNeg = value.isNeg) ∧
      (value.isFin = false → q = value ∨ q.isNan = true ∧ value.isNan = true)))

/-- Pieces that lie one behind another from a place on, none of them empty. -/
def runFrom (q : Place) (ps : List (Place × Nat)) : Prop :=
  ∀ (n : Nat) (a : Place × Nat), ps[n]? = some a → a.1 = ⟨q.sp, q.off + ((ps.take n).map Prod.snd).sum⟩ ∧ 0 < a.2

/-- The flags of a command grow by those that a family raises. -/
def gathers (old new : Nat) {α : Type} (xs : List α) (fl : α → Nat) : Prop :=
  ∀ b, new.testBit b = true ↔ old.testBit b = true ∨ ∃ x ∈ xs, (fl x).testBit b = true

end Sys2Proof.Claims

open Sys2Proof Sys2Proof.Machine Sys2Proof.Claims in
/-- What the steps of the matrix unit do to panels and memory.
On a running tile with a plot. The array step of an mma or mmas whose work is done (its operands sound and in no
hidden reduction) updates each element of its rows and the N columns by its groups of 16 products in increasing k,
each as R195 says, leaves every other element and panel and all of memory, gathers the flags and moves its command on;
one with an operand byte that cannot be read fails with ECC_UNCORRECTABLE. The operands of a dense command without
scales lie where R234 and R237 place them. A step of an mld or mld.raw whose data lies in the own scratchpad and can
be read, or has come back from elsewhere, sets each of its elements from its bytes as R238 says and leaves the others;
that an integer form sets NX for a value that is not whole, where R238 names NV and ISAT, is the model's reading (log
35). A step of an mdrain, mdrain.rows or mdrain.raw outside amax mode writes the bytes that R196 and R239 give for its
elements, one after another at its places, leaves the panels and counts the bytes; a step behind one of the same
command whose write still waits posts its own, so that the writes are made in step order. Every element of a transfer
command belongs to exactly one of its steps.
(R170, R181, R195, R196, R232, R233, R234, R237, R238, R239, R245.) -/
def Obligations.MatrixSteps : Prop :=
  ∀ (s : State) (u plot core : Nat) (c : MxCmd), s.memWf = true → (s.getTile u).ctx.plot = some plot → s.works u .me = true →
    (s.getTile u).ctx.mxHead core = some c → c.st = .ready → c.panel < 8 → core < 8 →
    let elem := fun (x : State) (i j : Nat) => (x.getTile u).ctx.elem c.panel i j
    let others := fun (t : State) => ∀ p i j, p ≠ c.panel → i < 64 → j < 64 → (t.getTile u).ctx.elem p i j = (s.getTile u).ctx.elem p i j
    let moved := fun (t : State) (p : MxPath) (flags bytes : Nat) => ((t.getTile u).ctx.arb p).running = none ∧
      ∃ h, (t.getTile u).ctx.mxHead core = some h ∧ h.step = c.step + 1 ∧ h.bytes = c.bytes + bytes ∧ h.flags = flags ∧ h.st = .ready
    (c.op = .mma ∨ c.op = .mmas → s.arg = .path u .array → ((s.getTile u).ctx.arb .array).running = some core →
      s.arrayDone u c = true → s.unreadable (s.arrayReads u c c.step) = true → ∃ t, exec .matrixStepEnd s = .next t ∧ sameBytes s t ∧
        ((t.getTile u).ctx.arb .array).running = none ∧ ∃ h, (t.getTile u).ctx.mxHead core = some h ∧ h.st = .failed Cause.ecc.code) ∧
    (c.op = .mma ∨ c.op = .mmas → s.arg = .path u .array → ((s.getTile u).ctx.arb .array).running = some core →
      s.arrayDone u c = true → mmaBad c.regs = none → s.unreadable (s.arrayReads u c c.step) = false →
      (∀ a ∈ s.arrayReads u c c.step, noHidden s a.1 a.2) →
      let r := c.regs
      let touched := fun i => i < meM r ∧ i / rowsOf r = c.step / chunksOf r
      ∃ (t : State) (F : Nat → Nat → Nat → Nat) (fl : Nat), exec .matrixStepEnd s = .next t ∧ moved t .array fl 0 ∧ others t ∧
        sameBytes s t ∧
        (∀ i j, i < 64 → j < 64 → ¬(touched i ∧ j < meN r) → elem t i j = elem s i j) ∧
        (∀ i j, touched i → j < meN r → ∃ e : Nat → Elem,
          e (kFrom r c.step / 16) = elem s i j ∧ e ((kTo r c.step + 15) / 16) = elem t i j ∧
          ∀ g, kFrom r c.step / 16 ≤ g → g < (kTo r c.step + 15) / 16 →
            groupAdded (intForm r) (e g)
              (((List.range 16).filter fun k => decide (16 * g + k < kTo r c.step)).map fun k =>
                (s.aVal c (s.opndA u c) i (16 * g + k), s.bVal c (s.opndB u c) (16 * g + k) j)) (e (g + 1), F i j g)) ∧
        ∀ b, fl.testBit b = true ↔ c.flags.testBit b = true ∨ ∃ i j g, touched i ∧ j < meN r ∧
          kFrom r c.step / 16 ≤ g ∧ g < (kTo r c.step + 15) / 16 ∧ (F i j g).testBit b = true) ∧
    (∀ i k j, mePat c.regs = 0 → (c.op = .mma ∨ c.op = .mmas) →
      (meSa c.regs = false → s.aVal c (s.opndA u c) i k =
        denseAt s (c.op == .mmas) (s.placeAt u (if c.op = .mmas then vget c.desc 0 0 else c.a)) (meK c.regs)
          (bits (vget c.desc 1 0) 19 0) (bits (vget c.desc 1 0) 36 32) (meFa c.regs) i k) ∧
      (meSb c.regs = false → s.bVal c (s.opndB u c) k j =
        denseAt s (c.op == .mmas) (s.placeAt u (if c.op = .mmas then vget c.desc 4 0 else c.b)) (meN c.regs)
          (bits (vget c.desc 5 0) 19 0) (bits (vget c.desc 5 0) 36 32) (meFb c.regs) k j)) ∧
    (c.op = .mld ∨ c.op = .mldRaw → s.arg = .path u .transfer → ((s.getTile u).ctx.arb .transfer).running = some core →
      (s.getTile u).ctx.transferArb.till ≤ s.clk u → c.places.length = (transferStep c c.step).length → meM c.regs ≤ 64 →
      meN c.regs ≤ 64 → ∀ data : List (List Byte), data.map List.length = c.places.map extent →
      ((∀ a ∈ c.places.flatten, a.1.sp = .spad u ∧ noHidden s a.1 a.2) ∧
        s.forkWaits u plot c.owner c.seq c.places.flatten = false ∧ s.unreadable c.places.flatten = false ∧
        data = c.places.map fun ps => ps.flatMap fun a => s.readPlace a.1 a.2) ∨
      ((∃ a ∈ c.places.flatten, a.1.sp ≠ .spad u) ∧ ∃ n f src dst, chunkRead s u 2 c.core c.seq n f src dst data.flatten) →
      ∃ (t : State) (fl : Nat), exec .matrixStepEnd s = .next t ∧ moved t .transfer fl 0 ∧ others t ∧ sameBytes s t ∧
        (∀ i j, i < 64 → j < 64 → (∀ x ∈ transferStep c c.step, (x.1, x.2.1) ≠ (i, j)) → elem t i j = elem s i j) ∧
        ∃ F : Nat → Nat, gathers c.flags fl (List.range c.places.length) F ∧
          ∀ n x bs, (transferStep c c.step)[n]? = some x → data[n]? = some bs →
            loaded c bs (elem t x.1 x.2.1) (F n)) ∧
    (c.op.drains = true → perRow c.op c.regs = false → s.arg = .path u .transfer →
      ((s.getTile u).ctx.arb .transfer).running = some core → (s.getTile u).ctx.transferArb.till ≤ s.clk u → noneParked s →
      ∃ (t : State) (bs : List (List Byte)) (fl : Nat), exec .matrixStepEnd s = .next t ∧ moved t .transfer fl bs.flatten.length ∧
        others t ∧ (∀ i j, i < 64 → j < 64 → elem t i j = elem s i j) ∧
        (∀ q, runFrom q c.places.flatten → bs.flatten.length = (c.places.flatten.map Prod.snd).sum → bs.flatten ≠ [] →
          let behind := ∃ g ∈ s.flights, g.tile = u ∧ g.plot = plot ∧ g.pkt.unit = 2 ∧ g.core = c.core ∧ g.seq = c.seq ∧
            g.req.isChunk = true ∧ g.waiting = true
          (q.sp = .spad u → ¬behind → noHidden s q bs.flatten.length → s.leased q bs.flatten.length = false →
            s.forkWaits u plot c.owner c.seq c.places.flatten = false → stores s t q bs.flatten ∧ t.flights = s.flights) ∧
          (q.sp ≠ .spad u ∨ behind → sameBytes s t ∧ sameFull s t ∧ ∃ g cs, t.flights = s.flights ++ [g] ∧ g.st = .going ∧
            g.req = .chunk plot none cs ∧ g.tile = u ∧ g.core = c.core ∧ g.seq = c.seq ∧ g.pkt.unit = 2 ∧
            cs.map (fun x => (x.1, x.2.length)) = c.places.flatten ∧ (cs.map Prod.snd).flatten = bs.flatten)) ∧
        bs.length = (transferStep c c.step).length ∧
        ∃ F : Nat → Nat, gathers c.flags fl (List.range bs.length) F ∧
          ∀ n x b, (transferStep c c.step)[n]? = some x → bs[n]? = some b → drained c (elem s x.1 x.2.1) b (F n)) ∧
    (c.op.path = .transfer → transferSize c.op c.regs ≠ 0 → ∀ x ∈ transferElems c,
      ∃ k, k < c.steps ∧ x ∈ transferStep c k ∧ ∀ m, x ∈ transferStep c m → m = k)

namespace Sys2Proof.Claims
open Sys2Proof.Machine Host

/-- A place of a slot in its tile (spec/03 R55). -/
def inTile (l : SlotLoc) : Prop := l.core < 8 ∧ l.slot < 4

/-- The newest report of the machine. -/
def reports (t : State) (r : Report) : Prop := t.wafer.reports.head? = some r

/-- The format checks of a valid entry at a level (spec/06 R108, with R105 and R107). That a leaf's whole page or group,
and a pointer's table, must lie within edge memory is a reading of "the address range is broken" (log 24). -/
def entryBroken (lvl e : Nat) : Prop :=
  let leaf := e.testBit 1 = true
  let sz := e / 2 ^ 8 % 4
  let kind := e / 2 ^ 10 % 4
  let pa := e / 2 ^ 12 % 2 ^ 44 * 4096
  let size := 2 ^ (12 + 9 * lvl + if sz = 1 then 2 else if sz = 2 then 4 else 0)
  e / 2 ^ 56 % 256 ≠ 0 ∨ e.testBit 5 = true ∨ (leaf ∧ 3 ≤ lvl) ∨ (¬leaf ∧ lvl = 0) ∨ (sz = 1 ∧ lvl ≠ 0) ∨ sz = 3 ∨
    (leaf ∧ sz ≠ 0 ∧ pa % size ≠ 0) ∨ (e.testBit 4 = true ∧ e.testBit 3 = true) ∨ 2 ≤ kind ∨ (¬leaf ∧ kind ≠ 0) ∨
    (kind = 0 ∧ 0x18000000000 < pa + if leaf then size else 4096)

/-- The table that a walk reads after d pointers from its root, and the place of the entry that it reads there (spec/06
R106): the index of the level 4 − d is the nine bits of the address from bit 48 − 9 d on. -/
def tableAt (s : State) (va root : Nat) : Nat → Nat
  | 0 => root
  | d + 1 => Memory.word s.wafer.edge (tableAt s va root d + 8 * (va / 2 ^ (48 - 9 * d) % 512)) / 2 ^ 12 % 2 ^ 44 * 4096
def entryPlace (s : State) (va root d : Nat) : Nat := tableAt s va root d + 8 * (va / 2 ^ (48 - 9 * d) % 512)

/-- The bit of an entry that allows a use (spec/06 R107, R109); a hint needs R, which is a choice (log 50). -/
def useBit : XUse → Nat
  | .read | .hint => 2
  | .write => 3
  | .fetch | .literal => 4

/-- What a cache takes of a leaf at a level (spec/06 R108): the whole group where its entries agree apart from A and D, else
the single page that holds the access; either way an address goes to PA plus its offset within the whole group. -/
def leafTaken (s : State) (asid va place lvl : Nat) (c : Tlb) : Prop :=
  let e := Memory.word s.wafer.edge place
  let n := if e / 2 ^ 8 % 4 = 1 then 4 else if e / 2 ^ 8 % 4 = 2 then 16 else 1
  let page := 2 ^ (12 + 9 * lvl)
  let first := place / (8 * n) * (8 * n)
  let agree := ∀ i < n, ∀ b < 64, b ≠ 6 → b ≠ 7 →
    (Memory.word s.wafer.edge (first + 8 * i)).testBit b = (Memory.word s.wafer.edge first).testBit b
  c.asid = asid ∧ c.kind = e / 2 ^ 10 % 4 ∧ c.r = e.testBit 2 ∧ c.w = e.testBit 3 ∧ c.x = e.testBit 4 ∧
    (agree → 2 ^ c.bits = n * page) ∧ (¬agree → 2 ^ c.bits = page) ∧ c.va = va / 2 ^ c.bits * 2 ^ c.bits ∧
    c.place va = ⟨if e / 2 ^ 10 % 4 = 0 then .edge else .host, e / 2 ^ 12 % 2 ^ 44 * 4096 + va % (n * page)⟩

end Sys2Proof.Claims

open Sys2Proof Sys2Proof.Machine Sys2Proof.Claims in
/-- The page walk; fills, fault answers, invalidations and instruction lines.
A walk reads one entry in each level from the L4 root of its ASID down, each at its table plus 8 times the nine bits
of the address for that level, while the entries are valid sound pointers. It ends not present at an entry with V = 0,
in a format fault at one that breaks R108, and at a sound leaf: denied where the leaf does not allow the use (R for a
read, W for a write, X for a fetch and for a literal; that a hint needs R is a choice, log 50), else with the
translation that R108 gives the leaf and its group and the place of the entry to mark. An ASID without a root is not
present at L4 (log 24). A miss that has reached the walker of its die is walked: its outcome goes back to its tile,
and A, and D for a write, of the entry of a walk that succeeds is set, the only change of memory. A fill caches the
translation; a denied one is given to the running slot at hand alone, which checks its access again with it; one that
is not present sends the slot into a page-fault wait at its PC, which remembers whether a fetch waits. A good answer
to the batch for which the slot at hand waits lets it run on with nothing fixed, a fatal one makes it trap PAGE_FAULT
with the address. An invalidation that no translated access holds up removes every entry that it names from every
translation cache, of tiles, ports and cellars, and is acknowledged. A line that a running slot waits for becomes
resident.
(R86, R105, R106, R107, R108, R109, R110, R111, R113, R114, R115.) -/
def Obligations.TranslationEvents : Prop :=
  (∀ (s : State) (asid va : Nat) (use : XUse), va < 2 ^ 57 →
    (∀ id root, s.wafer.roots.find? (fun r => r.1 == asid) = some (id, root) → root % 4096 = 0 → ∀ d ≤ 4,
      (∀ j < d, let e := Memory.word s.wafer.edge (entryPlace s va root j)
        e.testBit 0 = true ∧ ¬entryBroken (4 - j) e ∧ e.testBit 1 = false) →
      let e := Memory.word s.wafer.edge (entryPlace s va root d)
      (e.testBit 0 = false → s.walk asid va use = (.absent (4 - d), none)) ∧
      (e.testBit 0 = true → entryBroken (4 - d) e → s.walk asid va use = (.format (4 - d), none)) ∧
      (e.testBit 0 = true → ¬entryBroken (4 - d) e → e.testBit 1 = true →
        ∃ c, leafTaken s asid va (entryPlace s va root d) (4 - d) c ∧
          s.walk asid va use = if e.testBit (useBit use) = true then (.ok c, some (entryPlace s va root d)) else (.denied c, none))) ∧
    (s.wafer.roots.find? (fun r => r.1 == asid) = none → s.walk asid va use = (.absent 4, none))) ∧
  (∀ (s : State), s.memWf = true →
    (∀ n x, s.arg = .flight n → s.wafer.xlates[n]? = some x → x.pkt.at_ = x.pkt.to_ →
      (x.out = none → ∃ t k, exec .translationMiss s = .next t ∧
        t.wafer.xlates = s.wafer.xlates.set n { x with out := some (s.walk x.asid (bits x.va 56 0) x.use).1, pkt := k } ∧
        k.at_ = x.pkt.at_ ∧ k.to_ = x.tile ∧ k.rank = 4 ∧
        ∀ q : Place, t.byteAt q =
          if q.sp = .edge ∧ (s.walk x.asid (bits x.va 56 0) x.use).2 = some q.off
          then s.byteAt q ||| (if x.use = .write then 0xC0 else 0x40) else s.byteAt q) ∧
      (∀ e, x.out = some (.ok e) → ∃ t, exec .translationFill s = .next t ∧ t.wafer.xlates = s.wafer.xlates.eraseIdx n ∧
        (t.getTile x.tile).tlb.getLast? = some e ∧ sameBytes s t) ∧
      (x.tile = s.cur.tile → x.who = .slot s.cur.core s.cur.slot → s.slot.mode = .running →
        (∀ e, x.out = some (.denied e) → exec .translationFill s = .next { s with
          wafer := { s.wafer with xlates := s.wafer.xlates.eraseIdx n }, slot := { s.slot with xl := s.slot.xl ++ [e] } }) ∧
        (∀ l, x.out = some (.absent l) ∨ x.out = some (.format l) → ∃ t b, exec .translationFill s = .next t ∧
          t.slot.mode = .faultWait b (BitVec.ofNat 64 (bits x.va 56 0)) (x.use == .fetch) ∧ t.slot.pc = s.slot.pc ∧
          t.slot.sreg = s.slot.sreg ∧ t.slot.vreg = s.slot.vreg ∧ sameBytes s t))) ∧
    (∀ b va fetch good, s.arg = .batch (dieOf s.cur.tile) b good → inTile s.cur → s.slot.mode = .faultWait b va fetch →
      ∃ t, exec .faultBatchAnswer s = .next t ∧ t.slot.pc = s.slot.pc ∧
        (good = true → t.slot.mode = .running ∧ t.slot.snap = []) ∧
        (good = false → t.slot.mode = .halted ∧ t.slot.trapc = 0x10006 ∧ t.slot.trapv = va)) ∧
    (∀ i, s.arg = .inv i → s.translatedOut i = false → ∃ t, exec .translationInvalidation s = .next t ∧
      (∀ u, (t.getTile u).tlb = ((s.getTile u).tlb.filter fun e => !invNames i e)) ∧
      (∀ d, (t.die d).tlb = ((s.die d).tlb.filter fun e => !invNames i e)) ∧
      t.wafer.netTlb = s.wafer.netTlb.map (fun x => (x.1, x.2.filter fun e => !invNames i e)) ∧
      t.wafer.ioTlb = s.wafer.ioTlb.map (fun x => (x.1, x.2.filter fun e => !invNames i e)) ∧
      reports t .invalidated ∧ sameBytes s t) ∧
    (∀ l, s.arg = .slot l → (s.getSlot l).mode = .running → s.codeHere l = true → s.lineHere l = false →
      ∃ t, exec .instructionLineFill s = .next t ∧ t.lineHere l = true ∧ sameBytes s t))

open Sys2Proof Sys2Proof.Machine Sys2Proof.Claims in
/-- The cellar reads and writes halted slots, resumes, steps, freezes and thaws them.
A read of a halted slot reports the register and its full bit, one of an error, retry or truncation counter its count,
and changes nothing else; a write of a scalar register, of a counter or of the PC of the halted slot at hand sets it;
a resume runs it again from its PC with its record in state 2 and nothing fixed; a step runs it for one instruction;
each of the four reports that a slot is not halted and then changes nothing else. A freeze of the running slot at hand
halts it with BREAKPOINT and reports 1; its thaw runs it again. A trap or fault ring gives up its oldest record, and
the oldest held record of that ring enters it.
(R91, R286, R287, R299, R301, R304.) -/
def Obligations.CellarEvents : Prop :=
  ∀ (s : State), s.memWf = true →
    (∀ l r, s.arg = .read l r →
      ((s.getSlot l).mode = .halted → exec .cellarRead s = .next (s.report (.read (s.cellGet l r).1 (s.cellGet l r).2))) ∧
      ((s.getSlot l).mode ≠ .halted → exec .cellarRead s = .next (s.report .notHalted))) ∧
    (∀ c, s.arg = .counter c → exec .cellarRead s = .next (s.report (.read (s.wafer.counter c) true))) ∧
    (∀ l r v full, s.arg = .write l r v full → (s.getSlot l).mode ≠ .halted → exec .cellarWrite s = .next (s.report .notHalted)) ∧
    (∀ r v full, s.arg = .write s.cur r v full → s.slot.mode = .halted → ∃ t, exec .cellarWrite s = .next t ∧ reports t .done ∧
      (∀ i, r = .s i → i ≠ 0 → t.slot.s i = BitVec.ofNat 64 v ∧ t.slot.isFull i = full) ∧
      (∀ i, r = .lc i → i < 3 → vget t.slot.lc i 0 = BitVec.ofNat 64 v) ∧
      (r = .pc → t.slot.pc.toNat = v / 4 % 2 ^ 55 * 4)) ∧
    (∀ l, s.arg = .slot l → s.recordHeld l = false → (s.getSlot l).mode ≠ .halted →
      exec .cellarResume s = .next (s.report .notHalted)) ∧
    (s.arg = .slot s.cur → s.recordHeld s.cur = false → s.slot.mode = .halted → s.slot.fwait = none →
      ∃ t, exec .cellarResume s = .next t ∧ t.slot.mode = .running ∧ t.slot.pc = s.slot.pc ∧ t.slot.snap = [] ∧
        t.tile.ctx.recState s.slot.run.off = 2 ∧ reports t .done) ∧
    (s.arg = .step (.slot s.cur) → s.recordHeld s.cur = false → s.slot.fwait = none →
      (s.slot.mode = .halted → ∃ t, exec .cellarStep s = .next t ∧ t.slot.mode = .running ∧ t.slot.stepping = true ∧
        t.slot.pc = s.slot.pc) ∧
      (s.slot.mode ≠ .halted → exec .cellarStep s = .next (s.report .notHalted))) ∧
    (s.arg = .scope (.slot s.cur) → s.wafer.freezes = [] →
      (s.slot.mode = .running → ∃ t, exec .freeze s = .next t ∧ t.slot.mode = .halted ∧ t.slot.trapc = 0x1000E ∧
        t.slot.trapv = 0 ∧ t.slot.pc = s.slot.pc ∧ t.slot.frozen = true ∧ t.slot.byFreeze = some (.slot s.cur) ∧ reports t (.freeze 1)) ∧
      (s.slot.mode = .halted → s.slot.byFreeze = some (.slot s.cur) → s.recordHeld s.cur = false → s.slot.fwait = none →
        ∃ t, exec .thaw s = .next t ∧
        t.slot.mode = .running ∧ t.slot.pc = s.slot.pc ∧ t.slot.frozen = false ∧ reports t .done)) ∧
    (∀ d ring, ring < 8 →
      (s.arg = .ring d ring false →
        ((∀ h ∈ (s.die d).heldTrap, h.1 ≠ ring) → ∃ t, exec .trapRingSpace s = .next t ∧
          vget (t.die d).trap ring [] = (vget (s.die d).trap ring []).drop 1) ∧
        (∀ before after src r, (s.die d).heldTrap = before ++ (ring, src, r) :: after → (∀ h ∈ before, h.1 ≠ ring) →
          ((vget (s.die d).trap ring []).drop 1).length < 512 → ∃ t, exec .trapRingSpace s = .next t ∧
            vget (t.die d).trap ring [] = (vget (s.die d).trap ring []).drop 1 ++ [r] ∧
            (t.die d).heldTrap = before ++ after)) ∧
      (s.arg = .ring d ring true → (∀ h ∈ (s.die d).heldFault, h.1 ≠ ring) → ∃ t, exec .trapRingSpace s = .next t ∧
        vget (t.die d).fault ring [] = (vget (s.die d).fault ring []).drop 1))

namespace Sys2Proof.Claims
open Sys2Proof.Machine Host

/-- A slot is as it was but for its waits and its latencies, which a pre-emption ends, and for the bytes that its plain loads
have fixed (spec/08 R155, spec/18 R300, R307). -/
def keptSlot (x y : Slot) : Prop :=
  y.mode = x.mode ∧ y.run = x.run ∧ y.sreg = x.sreg ∧ y.sfull = x.sfull ∧ y.vreg = x.vreg ∧ y.vfull = x.vfull ∧ y.lc = x.lc ∧
    y.loops = x.loops ∧ y.pc = x.pc ∧ y.status = x.status ∧ y.trapc = x.trapc ∧ y.trapv = x.trapv ∧ y.fecfg = x.fecfg ∧
    y.ce = x.ce ∧ y.de = x.de ∧ y.frozen = x.frozen ∧ y.byFreeze = x.byFreeze ∧ y.fwait = x.fwait

/-- A context is as it was in all that a swap saves and restores (spec/03 R55, spec/13 R246, spec/18 R307): its memory with
its full/empty bits, hidden reductions, records, message unit, panels, format contexts, slots, engine queues but for the
translations that a copy has been given, leases, arbiters, breakpoints and watchpoints. The next step of its array path ramps from 0 (spec/15 R265). -/
def keptContext (c d : Ctx) : Prop :=
  d.plot = c.plot ∧ d.n = c.n ∧ d.spad = c.spad ∧ d.empties = c.empties ∧ d.red = c.red ∧ d.binds = c.binds ∧ d.stages = c.stages ∧
    d.ready = c.ready ∧ d.waits = c.waits ∧ d.mu = c.mu ∧ d.lees = c.lees ∧ d.leesFull = c.leesFull ∧ d.panels = c.panels ∧
    d.fctx = c.fctx ∧
    d.ceq.map (fun y => { y with xl := [] }) = c.ceq.map (fun y => { y with xl := [] }) ∧ d.deq = c.deq ∧ d.leases = c.leases ∧ d.engErrs = c.engErrs ∧ d.rot = c.rot ∧
    d.lastIssue = c.lastIssue ∧ d.bps = c.bps ∧ d.wps = c.wps ∧
    (∀ k < 8, (vget d.mq k []).map (fun m => { m with since := 0 }) = (vget c.mq k []).map fun m => { m with since := 0 }) ∧
    (d.arrayArb.holder, d.arrayArb.credit) = (c.arrayArb.holder, c.arrayArb.credit) ∧
    (d.transferArb.holder, d.transferArb.credit) = (c.transferArb.holder, c.transferArb.credit) ∧
    d.ramp.cold = true ∧ d.ramp.up = c.ramp.up ∧ d.ramp.down = c.ramp.down ∧ d.ramp.next = c.ramp.next ∧
    ∀ k < 32, keptSlot (vget c.slots k Slot.reset) (vget d.slots k Slot.reset)

/-- A tile takes on none of its slots' waits for a send, runs no matrix step and no tail: the first two phases of a swap
have ended there (spec/18 R308). -/
def atRest (s : State) (u : Nat) : Prop :=
  (∀ l ∈ slotLocs u, (s.getSlot l).mode ≠ .sendWait) ∧ (s.getTile u).ctx.arrayArb.running = none ∧
    (s.getTile u).ctx.transferArb.running = none ∧ (s.getTile u).ctx.ramp.tail = false

/-- A spare physical core of a tile: it works, and its repair map names it for no exposed logical core (spec/14 R252). -/
def spareCore (s : State) (u k : Nat) : Prop :=
  k < 9 ∧ k ∉ (s.getTile u).deadCores ∧ ∀ i < s.wafer.grade.cores, vget (s.getTile u).repair i 9 ≠ k

end Sys2Proof.Claims

open Sys2Proof Sys2Proof.Machine Sys2Proof.Claims in
/-- Kills, containment reset, swaps, errors and repairs.
The first kill of a live plot freezes it and notes the time; it ends at once where no slot of its tiles waits for the
answer to a send, no matrix step runs there and no access of the plot writes edge or host memory, and it goes on where
one of these holds (for the last: a write that has left its tile). Once no tile holds the plot and its writes have
landed, the plot is gone and the kill is reported. A containment reset, and a tile of a plot that is being killed that
has not quiesced 20 µs after its freeze, clears the tile and leaves it in reset without a plot. A swap of a tile that
is not ready stops its dispatch and its issue; one of a tile that is ready moves its context whole to a free shadow
slot, or brings the waiting one in whole (the record of a slot that a thaw resumed while it waited goes to state 2
then); a waiting context can be moved to edge memory, where its bytes lie as R55 lays them out, and back: that
Rolruica puts it, with its side area, into the highest page frames not yet taken, so that it begins at 0x18000000000
less 4,096 times the frames taken, is the choice of the model (log 28, what R55 does not place going with it as data,
log 40). An error marks the access that meets it, or, as log 55 chooses, the stored bytes, which stay so until they
are rewritten; a corrected one is counted and changes nothing. A failed core makes its slot trap CORE_LOST and a spare
takes its number; without a spare core, or by order, the tile is lost; a column shift, a bank, lane, cellar core or
port repair uses its spare and is counted.
(R55, R252, R304, R305, R306, R307, R308, R310, R311.) -/
def Obligations.PlotAndTileEvents : Prop :=
  ∀ (s : State), s.memWf = true →
    (∀ n p, s.arg = .plot n → s.plot n = some p →
      (p.killing = none →
        ((∃ u ∈ s.resident p, (∃ l ∈ slotLocs u, (s.getSlot l).mode = .sendWait) ∨
            (s.getTile u).ctx.arrayArb.running ≠ none ∨ (s.getTile u).ctx.transferArb.running ≠ none) ∨
          (∃ f ∈ s.flights, f.plot = n ∧ f.isWrite = true ∧ f.st = .going ∧ f.pkt.at_ ≠ f.tile ∧
            ∃ r ∈ f.req.ranges, r.1.sp = .edge ∨ r.1.sp = .host) →
          ∃ t q, exec .plotKill s = .next t ∧ t.plot n = some q ∧ q.killing = some s.wafer.time ∧ q.frozen = true) ∧
        ((∀ u ∈ s.resident p, (∀ l ∈ slotLocs u, (s.getSlot l).mode ≠ .sendWait) ∧
            (s.getTile u).ctx.arrayArb.running = none ∧ (s.getTile u).ctx.transferArb.running = none) →
          (∀ f ∈ s.flights, f.plot = n → ∀ r ∈ f.req.ranges, r.1.sp ≠ .edge ∧ r.1.sp ≠ .host) →
          ∃ t, exec .plotKill s = .next t ∧ (∀ q ∈ t.wafer.plots, q.num ≠ n) ∧ reports t (.killed n))) ∧
      (p.killing.isSome = true → (∀ u ∈ p.tiles, (s.getTile u).ctx.plot ≠ some n) → s.writesOut n = false →
        ∃ t, exec .plotKill s = .next t ∧ (∀ q ∈ t.wafer.plots, q.num ≠ n) ∧ reports t (.killed n))) ∧
    (∀ u, s.arg = .tile u → s.wafer.freezes = [] → ∀ i ∈ [Instr.containmentReset, Instr.quiesceTimeout],
      (i = .quiesceTimeout → s.quiesceLate u = true) → ∃ t, exec i s = .next t ∧
        (t.getTile u).ctx = { Ctx.reset with ramp := { Ramp.reset with ceil := (s.getTile u).ctx.ramp.ceil } } ∧
        (t.getTile u).inReset = true ∧ (t.getTile u).tlb = [] ∧ (t.getTile u).icache = [] ∧
        (u = s.cur.tile → t.slot = Slot.reset)) ∧
    (∀ u, s.arg = .tile u → u ≠ s.cur.tile → (s.getTile u).lost = false →
      (s.exchanges u = true → ¬atRest s u → ∃ t, exec .swap s = .next t ∧ (t.getTile u).swapping = true ∧
        (t.getTile u).ctx = (s.getTile u).ctx ∧ t.dispatches u = false ∧ sameBytes s t) ∧
      (∀ n, atRest s u → (s.getTile u).ctx.plot = some n → (s.getTile u).shadowA = none → (s.getTile u).shadowB = none →
        ∃ t y, exec .swap s = .next t ∧ (t.getTile u).ctx.plot = none ∧ (t.getTile u).shadowA = some y ∧
          keptContext (s.getTile u).ctx y.ctx) ∧
      (∀ y n p, atRest s u → (s.getTile u).ctx.plot = none → (s.getTile u).shadowA = some y → (s.getTile u).shadowB = none →
        y.bad = none → y.ctx.plot = some n → s.plot n = some p → p.still = false → p.frozenStages = [] →
        (s.getTile u).frozen = false → y.ctx.ramp.cold = true → (∀ k < 32, (vget y.ctx.slots k Slot.reset).fwait = none) →
        (∀ k < 32, let x := vget y.ctx.slots k Slot.reset
          x.mode ≠ .free → x.mode ≠ .halted → y.ctx.recState x.run.off ≠ 4) →
        ∃ t, exec .swap s = .next t ∧ (t.getTile u).shadowA = none ∧ keptContext y.ctx (t.getTile u).ctx)) ∧
    (∀ u side,
      (∀ y, s.arg = .context u side true → (if side then (s.getTile u).shadowB else (s.getTile u).shadowA) = some y →
        ∃ t, exec .contextMove s = .next t ∧
          t.wafer.away = s.wafer.away ++ [(u, 0x18000000000 - 4096 * (s.wafer.frames + 416), y)] ∧
          (∀ o < 1622016, t.byteAt ⟨.edge, 0x18000000000 - 4096 * (s.wafer.frames + 416) + o⟩ = y.ctx.byteAt o) ∧
          (if side then (t.getTile u).shadowB else (t.getTile u).shadowA) = none) ∧
      (∀ y a before after, s.arg = .context u side false →
        (if side then (s.getTile u).shadowB else (s.getTile u).shadowA) = none → s.wafer.away = before ++ (u, a, y) :: after →
        (∀ z ∈ before, z.1 ≠ u) → ∃ t, exec .contextMove s = .next t ∧ t.wafer.away = before ++ after ∧
          (if side then (t.getTile u).shadowB else (t.getTile u).shadowA) = some y)) ∧
    (∀ (c : Ctx), (∀ o < 0x100000, c.byteAt o = Memory.read c.spad o) ∧
      (∀ k < 32, ∀ i : Reg, leNat ((List.range 8).map fun b => c.byteAt (0x188000 + 0x200 * k + 8 * i.toNat + b)) =
        ((vget c.slots k Slot.reset).s i).toNat) ∧
      (∀ k < 32, ∀ r b, r < 16 → b < 512 →
        c.byteAt (0x100000 + 0x2000 * k + 512 * r + b) = byteOf (vget (vget c.slots k Slot.reset).vreg r 0).toNat b) ∧
      ∀ p i j b, p < 8 → i < 64 → j < 64 → b < 9 →
        c.byteAt (0x140000 + 0x9000 * p + 9 * (64 * i + j) + b) = byteOf (c.elem p i j).toNat b) ∧
    ((∀ n f, s.arg = .site (.flight n) → s.flights[n]? = some f → f.canFail = true →
        ∃ t, exec .uncorrectableError s = .next t ∧ t.flights[n]?.map Flight.st = some .bad ∧ sameBytes s t) ∧
      (s.arg = .site (.fetch s.cur false) → s.slot.mode = .running → ∃ t, exec .uncorrectableError s = .next t ∧
        t.slot = s.slot ∧ sameBytes s t ∧
        ∀ q, s.mappedAt (s.tile.tlb ++ s.slot.xl) (s.asid s.cur.tile) (bits s.slot.pc 56 0) = some q →
          ∀ i < 4, ⟨q.sp, q.off + i⟩ ∈ t.wafer.bad) ∧
      (∀ c, s.arg = .site (.corrected c) → ∃ t, exec .uncorrectableError s = .next t ∧ sameMachine s t ∧ t.tile = s.tile ∧
        t.wafer.counter (.corrected c) = s.wafer.counter (.corrected c) + 1)) ∧
    (s.arg = .slot s.cur → s.slot.mode = .running → s.cur.core < 8 → ∃ t, exec .coreLost s = .next t ∧ t.slot.mode = .halted ∧
      t.slot.trapc = 0x10011 ∧ t.slot.trapv = 0 ∧ t.tile.deadCores = vget s.tile.repair s.cur.core 0 :: s.tile.deadCores ∧
      ((∃ k, spareCore s s.cur.tile k) → t.tile.lost = s.tile.lost ∧ spareCore s s.cur.tile (vget t.tile.repair s.cur.core 0) ∧
        t.wafer.subst = s.wafer.subst + 1) ∧
      ((∀ k, ¬spareCore s s.cur.tile k) → t.tile.lost = true)) ∧
    (∀ u, s.arg = .tile u →
      (∃ t, exec .tileLost s = .next t ∧ (t.getTile u).lost = true ∧ (t.getTile u).ctx.arrayArb.running = none) ∧
      ((s.getTile u).lost = true → s.quiescentPoint u = true → (s.getTile u).shadowA = none → (s.getTile u).shadowB = none →
        (s.die (dieOf u)).shifted.contains (u % 176) = false → ∃ t, exec .columnShift s = .next t ∧
          (t.getTile u).lost = false ∧ (t.die (dieOf u)).shifted = u % 176 :: (s.die (dieOf u)).shifted ∧
          t.wafer.subst = s.wafer.subst + 1)) ∧
    (∀ u b, s.arg = .bank u b → b < 32 → (s.getTile u).spareBank = true → ∃ t, exec .bankRepair s = .next t ∧
      (t.getTile u).spareBank = false ∧ t.wafer.subst = s.wafer.subst + 1 ∧ sameBytes s t) ∧
    (∀ k n, s.arg = .lane k n → n < 8 → (∀ x ∈ s.wafer.spareLanes, x.1 ≠ k) → exec .laneRepair s = .next { s with
      wafer := { s.wafer with spareLanes := s.wafer.spareLanes ++ [(k, n)], subst := s.wafer.subst + 1 } }) ∧
    (∀ d c, s.arg = .spare d c → (s.die d).spares < 2 → c ∈ (s.die d).serves.toList → ∃ t, exec .cellarCoreSpare s = .next t ∧
      (t.die d).spares = (s.die d).spares + 1 ∧ t.wafer.subst = s.wafer.subst + 1 ∧
      ∀ i < 8, vget (t.die d).serves i 0 = if vget (s.die d).serves i 0 = c then 8 + (s.die d).spares else vget (s.die d).serves i 0) ∧
    (∀ p, s.arg = .port p → p < 64 → s.wafer.portMap.length < 4 → exec .trellisPortSpare s = .next { s with
      wafer := { s.wafer with portMap := s.wafer.portMap ++ [(p, 64 + s.wafer.portMap.length)], subst := s.wafer.subst + 1 } })

namespace Sys2Proof.Claims
open Sys2Proof.Machine Host

/-- The next current-limit fraction (spec/16 R273). -/
def fcRule (fc limit peak : Nat) : Nat :=
  if peak > limit then fc - min fc 4 else if 16 * peak < 15 * limit then min 16 (fc + 1) else fc

/-- The next thermal fraction, with temperatures in tenths of a degree (spec/16 R273). -/
def ftRule (ft limit hot : Nat) : Nat :=
  if hot > limit then ft - min ft 2 else if hot + 50 ≤ limit then min 16 (ft + 1) else ft

/-- The eighths of a period by which a droop stretches a cycle (spec/16 R266). -/
def eighths (mv : Nat) : Nat := if mv < 20 then 0 else if mv < 30 then 1 else if mv < 40 then 2 else if mv < 50 then 3 else 4

/-- The failures counted at a port (spec/19 R325). -/
def failuresAt (s : State) (port : Nat) : Nat := ((s.wafer.authFail.find? fun x => x.1 == port).map Prod.snd).getD 0

end Sys2Proof.Claims

open Sys2Proof Sys2Proof.Machine Sys2Proof.Claims in
/-- Droops, margins, intervals, boost, bias, stagger and the time base.
A droop stretches the next cycle of an elastic tile by the eighths of R266, or of the tile whose margin event is under
way, and leaves any other plumb one. A margin event stretches its cycle, notes its tile and halts its tiles at once
(log 44); another one meanwhile only stretches its cycle. Once they have all halted, the plot turns elastic 256 ns
later, its counts of cycles going on from their plumb values, resumes, and its record is sent. At an interval start
every die takes its next FC and forms the one after it, and a tile takes F as the lower of FC and FT, or, in a gang,
as the FG of its members, with E, I, the pools, I_rem, the ceiling and the next FT as the rules give them; boost takes
effect exactly if F is 16, a slot time lies in the interval, the plot is not plumb and every member of the gang holds
the grant. Boost is granted for the next interval (log 44), not to a plumb plot; idle tiles take reverse bias; held
steps take effect at slot times, the first dispatch of a plot when one is due; wafer time never goes back.
(R28, R266, R268, R269, R270, R273, R274, R275, R276, R281.) -/
def Obligations.PowerEvents : Prop :=
  ∀ (s : State), s.memWf = true →
    (∀ u mv, s.arg = .millivolts u mv →
      let own := fun p : Plot => p.margin ≠ none ∧ p.marginTile = (s.getTile u).ctx.n
      (∀ p, s.plotOf u = some p → p.plumb = true → ¬own p → exec .droopStretch s = .next s) ∧
      (∀ p, s.plotOf u = some p → p.plumb = false ∨ own p →
        exec .droopStretch s = .next (s.onTile u fun x => { x with droop := max x.droop (eighths mv) })) ∧
      (∀ p, s.plotOf u = some p → p.plumb = true → 45 ≤ mv →
        let stretched := s.onTile u fun x => { x with edge := x.edge + eighths mv * 968 / 8 }
        (p.margin ≠ none → exec .plumbMargin s = .next stretched) ∧
        (p.margin = none → ∃ t, exec .plumbMargin s = .next t ∧
          t.plot p.num = some { p with margin := some 0, marginTile := (s.getTile u).ctx.n } ∧
          (t.getTile u).edge = (stretched.getTile u).edge ∧
          ∀ v ∈ p.tiles, (s.getTile v).ctx.plot = some p.num → (t.getTile v).quiet = true))) ∧
    (∀ n p, s.arg = .plot n → s.plot n = some p →
      (p.margin = some 0 → s.haltedAll p = true →
        exec .elasticResume s = .next (s.setPlot { p with margin := some (s.wafer.time + 256) })) ∧
      (∀ m, p.margin = some m → 0 < m → m ≤ s.wafer.time → p.frozen = false → p.killing = none →
        ∃ t, exec .elasticResume s = .next t ∧ t.plot n = some { p with margin := none, plumb := false } ∧
          (∀ v ∈ p.tiles, (s.getTile v).ctx.plot = some n → (t.getTile v).ctx.cyc = s.wafer.time - p.epoch ∧
            (t.getTile v).ctx.cycFrom = (t.getTile v).clk ∧ ((s.getTile v).frozen = false → (t.getTile v).quiet = false)) ∧
          ((vget (s.die p.die).trap (ringOf p.asid) []).length < 512 →
            (∀ h ∈ (s.die p.die).heldTrap, h.1 ≠ ringOf p.asid) →
            (vget (t.die p.die).trap (ringOf p.asid) []).getLast? = some #v[BitVec.ofNat 64 (0x12 * 2 ^ 56), p.ctxid, 0, 0, 0,
              BitVec.ofNat 64 p.marginTile, 0, BitVec.ofNat 64 s.wafer.time])) ∧
      (p.plumb = false → ∃ t, exec .boostGrant s = .next t ∧
        ∀ v ∈ p.tiles, (t.getTile v).boostFor = some (s.wafer.time / 1024 + 1))) ∧
    (s.arg = .none → s.wafer.interval < s.wafer.time / 1024 → ∃ t, exec .controlIntervalStart s = .next t ∧
      t.wafer.interval = s.wafer.time / 1024 ∧
      ∀ d, (t.die d).fc = (s.die d).fcNext ∧ (t.die d).fcNext = fcRule (s.die d).fcNext (s.die d).limit (s.die d).peak ∧
        (t.die d).peak = 0) ∧
    (∀ u, s.arg = .tile u →
      let n := s.wafer.time / 1024
      let x := s.getTile u
      let fc := fun v => if s.wafer.interval < n then (s.die (dieOf v)).fcNext else (s.die (dieOf v)).fc
      let ft := fun v => if (s.getTile v).interval < n then (s.getTile v).ftNext else (s.getTile v).ft
      let slotIn := s.wafer.staggerP = 0 ∨ ∃ i < 1024, (1024 * n + i) % s.wafer.staggerP = s.wafer.staggerO
      (x.interval < n → ∃ t, exec .controlIntervalStart s = .next t ∧
        let y := t.getTile u
        y.interval = n ∧ y.e = (if y.boost then x.eboost else x.enom * y.f / 16) ∧
          y.i = (if y.boost then x.iboost else x.inom * y.f / 16) ∧
          (∀ c < 4, vget y.pools c 0 = y.e * vget x.reserves c 0 / 16) ∧
          y.common = y.e - (vget y.pools 0 0 + vget y.pools 1 0 + vget y.pools 2 0 + vget y.pools 3 0) ∧
          y.irem = (y.i : Int) - s.currents u ∧ y.dispatched = false ∧ y.ft = x.ftNext ∧
          y.ftNext = ftRule x.ftNext x.limit x.sensor ∧
          (s.wafer.staggerP = 0 → y.ctx.ramp.ceil = if y.boost then 16 else max 1 y.f) ∧
          (∀ a b, x.ctx.ramp.next = some (a, b) → y.ctx.ramp.up = a ∧ y.ctx.ramp.down = b) ∧
          ((∀ p, s.plotOf u = some p → p.gang = false) → y.fg = 16 ∧ y.f = min (fc u) (ft u) ∧
            (y.boost = true ↔ y.f = 16 ∧ slotIn ∧ (∀ p, s.plotOf u = some p → p.plumb = false) ∧ x.boostFor = some n)) ∧
          ∀ p, s.plotOf u = some p → p.gang = true → y.fg = y.f ∧ (∀ v ∈ p.tiles, y.f ≤ min (fc v) (ft v)) ∧
            (y.f = 16 ∨ ∃ v ∈ p.tiles, y.f = min (fc v) (ft v)) ∧
            (y.boost = true ↔ y.f = 16 ∧ slotIn ∧ p.plumb = false ∧ ∀ v ∈ p.tiles, (s.getTile v).boostFor = some n)) ∧
      ((∀ p, s.plotOf u = some p → p.plumb = false) →
        exec .boostGrant s = .next (s.onTile u fun x => { x with boostFor := some (n + 1) })) ∧
      (∀ p, s.plotOf u = some p → p.plumb = true → exec .boostGrant s = .next s) ∧
      (∀ p, s.plotOf u = some p → p.plumb = false → 2048 ≤ x.idle → x.reverse = false → s.busy u = false →
        (∀ q < 16, (x.ctx.bind q).valid = true → (x.ctx.bind q).prio ≠ 3) →
        exec .reverseBias s = .next (s.onTile u fun x => { x with reverse := true })) ∧
      (x.idle < 2048 → exec .reverseBias s = .next s) ∧
      (s.wafer.staggerP = 0 ∨ s.wafer.time % s.wafer.staggerP = s.wafer.staggerO → ∃ t, exec .staggerSlotTime s = .next t ∧
        (∀ p, s.plotOf u = some p → ∃ q, t.plotOf u = some q ∧
          (q.started = true ↔ p.started = true ∨ (0 < s.wafer.staggerP ∧ s.wouldDispatch u ≠ none))) ∧
        (t.getTile u).fast = x.boost ∧ (t.getTile u).ctx.ramp.ceil = if x.boost then 16 else max 1 x.f) ∧
      (0 < s.wafer.staggerP → s.wafer.time % s.wafer.staggerP ≠ s.wafer.staggerO → exec .staggerSlotTime s = .next s)) ∧
    (∀ v, s.arg = .time v → ∃ t, exec .timeSyncMessage s = .next t ∧ t.wafer.time = max s.wafer.time v)

namespace Sys2Proof.Claims
open Sys2Proof.Machine Host

/-- None of n bytes from a place is reserved by a ring's header (spec/19 R326). -/
def clearOf (s : State) (p : Place) (n : Nat) : Prop := ∀ i < n, s.reservedAt ⟨p.sp, p.off + i⟩ = false

/-- A message that the port of an open ring takes (spec/19 R327): too long, it counts an oversize and writes nothing else;
where the ring is full, or its TAIL cannot be read (log 55), it counts a drop; else its length and key word and its bytes stand in the slot of HEAD and HEAD has
risen by one. TAIL is read as a scalar load of the word reads it, after the fold of a reduction entry (spec/07 R133). -/
def ringTakes (s t : State) (r : Ring) (m : UeMessage) : Prop :=
  let tail := leNat (s.readAt ⟨.spad r.tile, r.off + 8⟩ 8).1
  let used := (r.head + 2 ^ 64 - tail) % 2 ^ 64
  let full := s.unreadable [(⟨.spad r.tile, r.off + 8⟩, 8)] = true ∨ r.n ≤ used
  (r.slotb - 8 < m.data.length → t.spadWord r.tile (r.off + 24) = (r.oversz + 1) % 2 ^ 64 ∧
    (noHidden s ⟨.spad r.tile, r.off + 24⟩ 8 → onlyBytes s t ⟨.spad r.tile, r.off + 24⟩ (leBytes 8 ((r.oversz + 1) % 2 ^ 64)))) ∧
    (m.data.length ≤ r.slotb - 8 → full → t.spadWord r.tile (r.off + 16) = (r.drops + 1) % 2 ^ 64) ∧
    (m.data.length ≤ r.slotb - 8 → ¬full →
      t.spadWord r.tile r.off = (r.head + 1) % 2 ^ 64 ∧
      (∃ q ∈ t.wafer.rings, q.num = r.num ∧ q.head = (r.head + 1) % 2 ^ 64) ∧
      t.spadWord r.tile (r.off + 64 + r.head % r.n * r.slotb) = m.key % 4096 * 2 ^ 52 + m.data.length % 65536 ∧
      ∀ i < m.data.length, t.byteAt ⟨.spad r.tile, r.off + 64 + r.head % r.n * r.slotb + 8 + i⟩ = m.data[i]?.getD 0)

/-- A DMA lies in the queues that Rolruica has registered for its port (spec/19 R328). -/
def dmaListed (s : State) (d : DmaRequest) : Prop :=
  let n := if d.write then d.data.length else d.len
  ∃ q ∈ s.wafer.ioQueues, q.1 = d.port ∧ q.2.1 = d.asid ∧ q.2.2.1 ≤ d.va ∧ d.va + n ≤ q.2.2.1 + q.2.2.2

/-- The pages of a DMA, walked through the cache of its port. -/
def dmaWalk (s : State) (d : DmaRequest) : DmaWalk × State :=
  let n := if d.write then d.data.length else d.len
  s.walkDma d.port d.asid d.write (pages d.va n (n / 4096 + 2))

/-- The physical cores of a tile that boot finds sound, in order (spec/14 R252). -/
def soundCores (bad : List Nat) : List Nat := (List.range 9).filter fun k => !bad.contains k

end Sys2Proof.Claims

open Sys2Proof Sys2Proof.Machine Sys2Proof.Claims in
/-- Ports, host, jobs, boot and launches.
A message that is not authentic, or has no ring, is counted at its port and writes nothing; one at an open ring does
what R327 says (in one step: log 43). A port number from 8 (network) or 4 (storage) on is none of the part. A DMA
outside the registered queues is refused, as is one denied, and one that would read bytes that cannot be read (log
55); a page that cannot be read holds it (at the cellar of die 0: log 30); else it moves its bytes, and one held is
made again or refused as its answer says. A host access reads what R317 gives (the feature bits are log 9), one
outside the functions is refused, and DMA of a function reaches host memory. A job runs only if its signature and
digests verify. A refused launch reports its status and changes nothing else (where its image has been read, pages are
marked, R107); one whose mapping an access not yet acknowledged may have used waits and comes again (R111); an
accepted one on a new rectangle makes the plot (its number is log 3, the place of its tables log 28), numbers its
tiles row-major and reports its CTXID; an accepted reuse first evicts what other plots have on its tiles (log 39),
then reports. Boot runs or fails as the signatures say, and writes the repair maps.
(R111, R252, R256, R317, R325, R327, R328, R337.) -/
def Obligations.HostEvents : Prop :=
  ∀ (s : State), s.memWf = true →
    (∀ m, s.arg = .ue m →
      (8 ≤ m.port → exec .ueMessage s = .next s) ∧
      (m.port < 8 → m.authentic = false ∨ s.ringFor m = none → ∃ t, exec .ueMessage s = .next t ∧ sameBytes s t ∧
        failuresAt t m.port = failuresAt s m.port + 1) ∧
      (∀ r, m.port < 8 → m.authentic = true → s.ringFor m = some r → s.ringOpen m r = true → noneParked s →
        clearOf s ⟨.spad r.tile, r.off⟩ 32 →
        clearOf s ⟨.spad r.tile, r.off + 64 + r.head % r.n * r.slotb⟩ (8 + m.data.length) →
        ∃ t, exec .ueMessage s = .next t ∧ ringTakes s t r m)) ∧
    (∀ d, s.arg = .dma d →
      (4 ≤ d.port → exec .storageDma s = .next s) ∧
      (d.port < 4 → ¬dmaListed s d → exec .storageDma s = .next (s.report (.dma false []))) ∧
      (∀ s', d.port < 4 → dmaListed s d → dmaWalk s d = (.denied, s') →
        exec .storageDma s = .next (s'.report (.dma false []))) ∧
      (∀ f s', d.port < 4 → dmaListed s d → dmaWalk s d = (.fault f, s') → ∃ t, exec .storageDma s = .next t ∧
        reports t (.dmaFault d.port f.va) ∧ ∃ h, t.wafer.heldDma = s'.wafer.heldDma ++ [h] ∧ h.dma = d ∧ h.answer = none) ∧
      (∀ ps s', d.port < 4 → dmaListed s d → dmaWalk s d = (.ok ps, s') →
        (d.write = true → exec .storageDma s = .next ((s'.writeRanges ps d.data).report (.dma true []))) ∧
        (d.write = false → s'.unreadable ps = true → exec .storageDma s = .next (s'.report (.dma false []))) ∧
        (d.write = false → s'.unreadable ps = false → exec .storageDma s =
          .next ((s'.readRanges ps).2.report (.dma true (s'.readRanges ps).1))))) ∧
    (∀ port i h, s.arg = .port port → s.wafer.heldDma[i]? = some h → h.dma.port = port →
      (∀ j < i, ∀ g, s.wafer.heldDma[j]? = some g → g.dma.port ≠ port ∨ g.answer = none) →
      let s' : State := { s with wafer := { s.wafer with heldDma := s.wafer.heldDma.eraseIdx i } }
      (h.answer = some false → exec .storageDma s = .next (s'.report (.dma false []))) ∧
      (h.answer = some true → exec .storageDma s = .next (s'.dma h.dma))) ∧
    (∀ a, s.arg = .host a →
      (2 ≤ a.endpoint ∨ 3 ≤ a.fn → exec .hostAccess s = .next (s.report (.host none))) ∧
      (a.endpoint < 2 → a.write = false →
        (a.fn = 0 → a.reg = .maxPairs → exec .hostAccess s = .next (s.report (.host (some 16)))) ∧
        (a.fn = 0 → a.reg = .mtu → exec .hostAccess s = .next (s.report (.host (some 9216)))) ∧
        (a.fn = 2 → a.reg = .maxPorts → exec .hostAccess s = .next (s.report (.host (some 8)))) ∧
        (a.fn < 3 → a.reg = .features → exec .hostAccess s =
          .next (s.report (.host (some (BitVec.ofNat 64 (virtioFeatures a.fn)))))))) ∧
    (∀ d, s.arg = .hostDma d → d.endpoint < 2 → d.fn < 3 → d.interrupt = false →
      (d.write = true → exec .hostAccess s = .next (s.writeAt ⟨.host, d.addr⟩ d.data)) ∧
      (d.write = false → exec .hostAccess s = .next (s.report (.dma true (Memory.readN s.wafer.host d.addr d.len))))) ∧
    (∀ j, s.arg = .job j → ∃ t b, exec .jobSubmission s = .next t ∧ reports t (.job b) ∧
      (b = true ↔ s.wafer.boot = .running ∧ (j.tenant, j.key) ∈ s.wafer.enrolled ∧
        Config.falconVerify j.key (Config.shake256 j.manifest) j.signature = true ∧ j.layers.map Config.shake256 = j.digests) ∧
      t.wafer.jobs = if b then s.wafer.jobs ++ [j] else s.wafer.jobs) ∧
    (∀ k, s.arg = .launch k →
      (0 < s.launchStatus k → s.launchStatus k < 4 →
        exec .launch s = .next (s.report (.launch k.source (s.launchStatus k) 0 0))) ∧
      (4 ≤ s.launchStatus k → ∃ t, exec .launch s = .next t ∧ reports t (.launch k.source (s.launchStatus k) 0 0) ∧
        t.wafer.plots = s.wafer.plots ∧ (∀ u, t.getTile u = s.getTile u) ∧ ∀ q : Place, q.sp ≠ .edge → t.byteAt q = s.byteAt q) ∧
      (s.evictions k = [] → s.remapWaits k = true → exec .launch s =
        .next { s with agenda := ⟨none, .launch, .launch k⟩ :: s.agenda }) ∧
      (∀ x y w h, s.launchStatus k = 0 → s.remapWaits k = false → s.siteOf k = .fresh x y w h → (∀ q ∈ s.wafer.plots, q.num ≠ s.wafer.nextPlot) →
        ∃ t p, exec .launch s = .next t ∧ t.plot s.wafer.nextPlot = some p ∧ p.num = s.wafer.nextPlot ∧
          p.tenant = k.tenant ∧ p.x0 = x ∧ p.y0 = y ∧ p.w = w ∧ p.h = h ∧ p.epoch = s.wafer.time / 32768 * 32768 ∧
          reports t (.launch k.source 0 p.num p.ctxid) ∧
          ∀ i u, p.tiles[i]? = some u → (t.getTile u).ctx.plot = some p.num ∧ (t.getTile u).ctx.n = i) ∧
      (∀ p, s.launchStatus k = 0 → s.siteOf k = .reuse p →
        ((∃ u ∈ p.tiles, ∃ n, (s.getTile u).ctx.plot = some n ∧ n ≠ p.num) → ∃ t, exec .launch s = .next t ∧
          t.agenda = ⟨none, .launch, .launch k⟩ :: s.agenda) ∧
        ((∀ u ∈ p.tiles, ∀ n, (s.getTile u).ctx.plot = some n → n = p.num) → s.remapWaits k = false → ∃ t q, exec .launch s = .next t ∧
          t.plot p.num = some q ∧ q.tenant = p.tenant ∧ q.epoch = s.wafer.time / 32768 * 32768 ∧
          reports t (.launch k.source 0 p.num q.ctxid)))) ∧
    (∀ b, s.arg = .boot b →
      let first := Config.falconVerify Config.bootKey (Config.shake256 b.pyunsin) b.pyunsinSig
      let second := Config.falconVerify Config.bootKey (Config.shake256 b.rolruica) b.rolruicaSig
      (s.wafer.boot ≠ .inReset → exec .moduleBoot s = .next s) ∧
      (s.wafer.boot = .inReset → ∃ t, exec .moduleBoot s = .next t ∧
        (t.wafer.boot = .running ↔ first = true ∧ second = true) ∧
        (first = false ∨ second = false → t.wafer.boot = .failed ∧ reports t .bootFailed) ∧
        (t.wafer.boot = .running → t.wafer.grade = b.grade ∧ t.wafer.mfw = Config.shake256 b.pyunsin ∧
          t.wafer.mkern = Config.shake256 b.rolruica ∧ t.wafer.mcfg = Config.shake256 b.configData) ∧
        (first = true → b.shifted = [] → ∀ u,
          let bad := (b.badCores.filter fun x => x.1 == u).map Prod.snd
          bad ≠ [] → (t.getTile u).deadCores = bad ∧
            ((t.getTile u).lost = true ↔ (soundCores bad).length < b.grade.cores) ∧
            ∀ k < 8, vget (t.getTile u).repair k 0 = (soundCores bad)[k]?.getD k)))

namespace Sys2Proof.Claims
open Sys2Proof.Machine Host

/-- The interval that has begun by now is in force on the dies and on a tile (spec/16 R273). -/
def begun (s : State) (u : Nat) : Prop :=
  s.wafer.time / 1024 ≤ s.wafer.interval ∧ s.wafer.time / 1024 ≤ (s.getTile u).interval

/-- A setting of a tile: the interval that has begun by now is entered first, where that has not yet been done. -/
def setsTile (s : State) (g : Setting) (u : Nat) (k : Tile → Tile) : Prop :=
  s.arg = .setting g → exec .managementSettingWrite s = .next ((s.entered u).onTile u k) ∧
    (begun s u → exec .managementSettingWrite s = .next (s.onTile u k))

/-- A setting of a die, in the same way. -/
def setsDie (s : State) (g : Setting) (d : Nat) (k : Die → Die) : Prop :=
  s.arg = .setting g → exec .managementSettingWrite s = .next (s.diesEntered.onDie d k) ∧
    (s.wafer.time / 1024 ≤ s.wafer.interval → exec .managementSettingWrite s = .next (s.onDie d k))

end Sys2Proof.Claims

open Sys2Proof Sys2Proof.Machine Sys2Proof.Claims in
/-- Bind records, the launch table and the settings of the firmware and the kernel.
A bind record is written with its reserved bits zero, except one that is valid with no core to run it, and a valid one
of PRIO 3 lifts the reverse bias of its tile; a line of the launch table is written under its tenant. Each setting
writes its own state, in the form and within the bounds that its rule gives, and nothing else, but that one of a tile
or a die first enters the control interval that has begun by now, where this has not been done, since it belongs to
that interval: class reserves that sum to at most 16, tile budgets, limits of a die and of a tile, readings (the
highest of the interval is kept), the stagger period and offset, the device id, keys of network ports, launch peers,
enrolled keys, at most 64 system ranges for each ASID, storage queues, breakpoints and watchpoints with their reserved
bits zero, table entries and roots.
(R26, R106, R255, R269, R273, R275, R281, R302, R324, R325, R328.) -/
def Obligations.ManagementWrites : Prop :=
  ∀ (s : State), s.memWf = true →
    (∀ u q w0 w1, s.arg = .bind u q w0 w1 →
      (bits w0 63 63 = 1 → bits w0 55 48 % 2 ^ s.wafer.grade.cores = 0 → exec .bindRecordWrite s = .next s) ∧
      (q < 16 → bits w0 63 63 = 0 ∨ bits w0 55 48 % 2 ^ s.wafer.grade.cores ≠ 0 → ∃ t, exec .bindRecordWrite s = .next t ∧
        ((t.getTile u).reverse = true ↔ (s.getTile u).reverse = true ∧ ¬(bits w0 63 63 = 1 ∧ bits w0 47 46 = 3)) ∧
        ∀ r < 16, vget (t.getTile u).ctx.binds r (0, 0) =
          if r = q then (w0 &&& 0x80FFF8FF000FFFC0, w1 &&& 0xFFFFFFFF) else vget (s.getTile u).ctx.binds r (0, 0))) ∧
    (∀ n w0 w1, s.arg = .launchTable n w0 w1 → n < 4096 → ∃ t, exec .launchTableWrite s = .next t ∧
      t.launchEntry n = some (w0 &&& 0xF80000000000FFFF, w1 &&& 0xFFFFFFFFFFFF0000) ∧
      ∀ m, m ≠ n → t.launchEntry m = s.launchEntry m) ∧
    (∀ u a b c d,
      (a + b + c + d ≤ 16 → setsTile s (.reserves u a b c d) u fun x => { x with reserves := #v[a, b, c, d] }) ∧
      (s.arg = .setting (.reserves u a b c d) → 16 < a + b + c + d → exec .managementSettingWrite s = .next s)) ∧
    (∀ u e i eb ib, setsTile s (.budgets u e i eb ib) u fun x =>
      { x with enom := e, inom := i, eboost := eb, iboost := ib }) ∧
    (∀ u n,
      (setsDie s (.dieLimit u n) u fun x => { x with limit := n }) ∧
      (setsTile s (.tileLimit u n) u fun x => { x with limit := n }) ∧
      (setsDie s (.railPeak u n) u fun x => { x with peak := max x.peak n }) ∧
      (setsTile s (.sensor u n) u fun x => { x with sensor := max x.sensor n }) ∧
      (s.arg = .setting (.launchPeer u n) → exec .managementSettingWrite s =
        .next { s with wafer := { s.wafer with launchPeers := s.wafer.launchPeers ++ [(u, n)] } }) ∧
      (s.arg = .setting (.enrolKey u n) → exec .managementSettingWrite s =
        .next { s with wafer := { s.wafer with enrolled := s.wafer.enrolled ++ [(u, n)] } })) ∧
    (∀ p o, s.arg = .setting (.stagger p o) →
      (p = 0 ∨ (p % 8 = 0 ∧ p ≤ 65536 ∧ o < p) → exec .managementSettingWrite s =
        .next { s with wafer := { s.wafer with staggerP := p, staggerO := o } }) ∧
      (p ≠ 0 → p % 8 ≠ 0 ∨ 65536 < p ∨ p ≤ o → exec .managementSettingWrite s = .next s)) ∧
    (∀ n, s.arg = .setting (.deviceId n) → exec .managementSettingWrite s =
      .next { s with wafer := { s.wafer with deviceId := n % 4096 } }) ∧
    (∀ port n tenant, s.arg = .setting (.ueKey port n tenant) →
      (port < 8 → n < 4096 → ∃ t, exec .managementSettingWrite s = .next t ∧
        ∀ k, k ∈ t.wafer.ueKeys ↔ k = (port, n, tenant) ∨ (k ∈ s.wafer.ueKeys ∧ ¬(k.1 = port ∧ k.2.1 = n))) ∧
      (8 ≤ port ∨ 4096 ≤ n → exec .managementSettingWrite s = .next s)) ∧
    (∀ a va len home, s.arg = .setting (.systemRange a va len home) →
      ((s.wafer.sysRanges.filter fun r => r.asid == a).length < 64 → exec .managementSettingWrite s =
        .next { s with wafer := { s.wafer with sysRanges := s.wafer.sysRanges ++ [⟨a, va, len, home⟩] } }) ∧
      (64 ≤ (s.wafer.sysRanges.filter fun r => r.asid == a).length → exec .managementSettingWrite s = .next s)) ∧
    (∀ port a va len, s.arg = .setting (.ioQueues port a va len) →
      (port < 4 → exec .managementSettingWrite s =
        .next { s with wafer := { s.wafer with ioQueues := s.wafer.ioQueues ++ [(port, a, va, len)] } }) ∧
      (4 ≤ port → exec .managementSettingWrite s = .next s)) ∧
    (∀ u c n x0 x1, c < 8 → n < 4 →
      (s.arg = .setting (.breakpoint u c n x0) → ∃ t, exec .managementSettingWrite s = .next t ∧
        ∀ c' < 8, ∀ n' < 4, vget (vget (t.getTile u).ctx.bps c' (Vector.replicate 4 0)) n' 0 =
          if c' = c ∧ n' = n then x0 &&& 0x81FFFFFFFFFFFFFC
          else vget (vget (s.getTile u).ctx.bps c' (Vector.replicate 4 0)) n' 0) ∧
      (s.arg = .setting (.watchpoint u c n x0 x1) → ∃ t, exec .managementSettingWrite s = .next t ∧
        ∀ c' < 8, ∀ n' < 4, vget (vget (t.getTile u).ctx.wps c' (Vector.replicate 4 (0, 0))) n' (0, 0) =
          if c' = c ∧ n' = n then (x0, x1 &&& 0x1DF)
          else vget (vget (s.getTile u).ctx.wps c' (Vector.replicate 4 (0, 0))) n' (0, 0))) ∧
    (∀ pa e, s.arg = .setting (.pageEntry pa e) → ∃ t, exec .managementSettingWrite s = .next t ∧
      onlyBytes s t ⟨.edge, pa / 8 * 8⟩ (leBytes 8 e.toNat)) ∧
    (∀ a pa, s.arg = .setting (.tableRoot a pa) → ∃ t, exec .managementSettingWrite s = .next t ∧ sameBytes s t ∧
      (t.wafer.roots.find? fun r => r.1 == a) = some (a, pa / 4096 * 4096) ∧
      ∀ a', a' ≠ a → (t.wafer.roots.find? fun r => r.1 == a') = s.wafer.roots.find? fun r => r.1 == a')

namespace Sys2Proof.Claims
open Sys2Proof.Machine Host

/-- The calls with their numbers (spec/19 R322). -/
def callRows : List (Instr × Nat) := [(.createBarrier, 1), (.freeHandle, 2), (.createCopyRegion, 3), (.createReplicaSet, 4),
  (.createVintage, 5), (.createRing, 6), (.writeRampTable, 7), (.launchCall, 8), (.attest, 9), (.consoleWrite, 10),
  (.offerWindow, 11), (.acceptWindow, 12), (.withdrawWindow, 13)]

/-- Access n is a call that has reached the cellar, of a live plot: whether it is strong, its queue and its number among the
strong calls of that queue. Its turn has come (spec/19 R320). -/
def callAt (s : State) (n : Nat) (f : Flight) (num : Nat) (arg : Word) (p : Plot) (strong : Bool) (q k : Nat) : Prop :=
  about s n f ∧ f.st = .going ∧ f.arrived = true ∧ s.plot f.plot = some p ∧
    f.req = .call num strong arg q k ∧ p.callTurn f strong q k = true

/-- The same, whatever its order. -/
def atCall (s : State) (n : Nat) (f : Flight) (num : Nat) (arg : Word) (p : Plot) : Prop :=
  ∃ strong q k, callAt s n f num arg p strong q k

/-- The reply to a call is on its way back. -/
def replies (t : State) (f : Flight) (value : Nat) : Prop :=
  ∃ g ∈ t.flights, g.seq = f.seq ∧ g.st = .served value 0 ∧ g.dest = f.dest ∧ g.owner = f.owner ∧ g.tile = f.tile

/-- The calling plot's handle table after a call. -/
def handlesOf (t : State) (p : Plot) (hs : List HEntry) : Prop := ∃ q, t.plot p.num = some q ∧ q.handles = hs

/-- A call answers an error and changes no handle. -/
def fails (out : Out) (f : Flight) (p : Plot) (code : Nat) : Prop :=
  ∃ t, out = .next t ∧ replies t f (2 ^ 63 + code) ∧ handlesOf t p p.handles

/-- A call answers a handle and leaves a handle table. -/
def makes (out : Out) (f : Flight) (q : Plot) (result : Nat) : Prop :=
  ∃ t, out = .next t ∧ replies t f (result % 2 ^ 63) ∧ handlesOf t q q.handles

/-- The handle table with the entry of a handle freed (spec/06 R116). -/
def without (p : Plot) (h : Nat) : List HEntry := p.handles.map fun e => if e.index = h % 2 ^ 20 then e.free else e

/-- The entry that a new handle takes is the choice of log 29; no entry means code 3. -/
def entersHandle (out : Out) (f : Flight) (p : Plot) (o : Obj) (extra : Nat) : Prop :=
  (∀ h q, p.alloc o = some (h, q) → makes out f q (extra + h)) ∧ (p.alloc o = none → ∃ t, out = .next t ∧ replies t f (2 ^ 63 + 3))

end Sys2Proof.Claims

open Sys2Proof Sys2Proof.Machine Sys2Proof.Claims in
/-- The calls of Rolruica whose argument is a word, and their replies.
A call whose turn has come does what its number says: it waits and changes nothing, or does a part of its work and
comes again, or fails with a code, when its reply is 2^63 + the code and the handle table stays as it was (the reads
that it has made of its argument mark pages, R107, and fold reductions, R133), or its reply is its result with bit 63
clear in the machine that the call leaves; an unknown number fails with code 1. A barrier is made in the handle table
(the entry chosen is log 29) with its scope, tile and expected count, or the argument is refused with code 4 (unused
tile bits: log 42); freeing a handle that names nothing is refused with code 4 and freeing a vintage that is being
filled with code 2, any other object goes, a barrier with all that waits on it; a vintage takes half A, or else half
B, where that half holds none or a sealed one, and is refused with code 2 where neither does; a ramp table takes
effect from the next interval on the tiles it names; an offer accepted by its grantee makes a handle of its window,
one of another tenant is denied with code 5, one that does not exist is refused with code 4; withdrawing an offer
frees every handle made from it. A reply arrives in its register.
(R116, R278, R296, R313, R320, R321, R322, R329, R330, R342.) -/
def Obligations.CallEvents : Prop :=
  ∀ (s : State) (n : Nat) (f : Flight) (num : Nat) (arg : Word) (p : Plot), s.memWf = true →
    (∀ strong q k, callAt s n f num arg p strong q k → ∀ row ∈ callRows, row.2 = num →
      (callOf num arg f p s = .wait → exec row.1 s = .next s) ∧
      (∀ s', callOf num arg f p s = .again s' → exec row.1 s = .next s') ∧
      (∀ c s', callOf num arg f p s = .err c s' → exec row.1 s = .next (s'.answerCall f strong q (2 ^ 63 + c)) ∧
        replies (s'.answerCall f strong q (2 ^ 63 + c)) f (2 ^ 63 + c) ∧ handlesOf (s'.answerCall f strong q (2 ^ 63 + c)) p p.handles) ∧
      (∀ v s', callOf num arg f p s = .ok v s' → exec row.1 s = .next (s'.answerCall f strong q (v % 2 ^ 63)) ∧
        replies (s'.answerCall f strong q (v % 2 ^ 63)) f (v % 2 ^ 63))) ∧
    (atCall s n f num arg p →
      (num = 0 ∨ 13 < num → fails (exec .unknownCall s) f p 1) ∧
      (num = 1 →
        (bits arg 63 48 ≤ 1 → bits arg 31 16 = 0 → bits arg 15 0 ≠ 0 → bits arg 47 32 < p.count →
          (bits arg 63 48 = 1 → bits arg 47 32 = 0) →
          entersHandle (exec .createBarrier s) f p
            (.barrier ⟨bits arg 63 48 == 1, bits arg 47 32, 0, bits arg 15 0, 0, 0, none, false, []⟩) 0) ∧
        (bits arg 15 0 = 0 ∨ 1 < bits arg 63 48 ∨ bits arg 31 16 ≠ 0 ∨ p.count ≤ bits arg 47 32 →
          fails (exec .createBarrier s) f p 4)) ∧
      (num = 2 →
        (bits arg 63 32 ≠ 0 ∨ p.find (handleOf arg) = none → fails (exec .freeHandle s) f p 4) ∧
        (∀ o, bits arg 63 32 = 0 → p.find (handleOf arg) = some o →
          ((∃ v, o = .vintage v ∧ v.state ≠ 2 ∧ ¬(v.state = 1 ∧ v.pend = 0)) → fails (exec .freeHandle s) f p 2) ∧
          ((∀ v, o = .vintage v → v.state = 2 ∨ (v.state = 1 ∧ v.pend = 0)) → ∃ t, exec .freeHandle s = .next t ∧
            replies t f 0 ∧ handlesOf t p (without p (handleOf arg)) ∧
            (∀ b, o = .barrier b →
              (∀ u ∈ p.tiles, (s.getTile u).ctx.plot = some p.num →
                ∀ w ∈ (s.getTile u).ctx.waits, (s.getTile u).ctx.waitKind w.off = (4, handleOf arg) →
                  w ∉ (t.getTile u).ctx.waits ∧ ∃ r ∈ (t.getTile u).ctx.ready, r.off = w.off) ∧
              ∀ l ph d a c wa wc, l.tile ∈ p.tiles → l.core < 8 → l.slot < 4 → (s.getTile l.tile).ctx.plot = some p.num →
                (s.getSlot l).mode = .running → (s.getSlot l).bwait = some (handleOf arg, ph) →
                decode (s.getSlot l).ir = some (.bwait d a c wa wc) → d ≠ 0 →
                (t.getSlot l).s d = BitVec.ofNat 64 (2 ^ 63 + 2 ^ 62 + ph % 2 ^ 32))))) ∧
      (num = 5 →
        (arg ≠ 0 → fails (exec .createVintage s) f p 4) ∧
        (arg = 0 → p.qualifies false = false → p.qualifies true = false → fails (exec .createVintage s) f p 2) ∧
        (∀ half, arg = 0 → p.qualifies half = true → (half = true → p.qualifies false = false) →
          (p.onHalf half = none →
            entersHandle (exec .createVintage s) f p (.vintage ⟨1, half, 0, 0, 0⟩) (if half then 2 ^ 32 else 0)) ∧
          (∀ h v, p.onHalf half = some (h, v) → entersHandle (exec .createVintage s) f { p with handles := without p h }
            (.vintage ⟨1, half, 0, 0, 0⟩) (if half then 2 ^ 32 else 0)))) ∧
      (num = 7 →
        let good := bits arg 62 48 = 0 ∧ bits arg 31 13 = 0 ∧ bits arg 7 5 = 0 ∧ 1 ≤ bits arg 4 0 ∧ bits arg 4 0 ≤ 16 ∧
          1 ≤ bits arg 12 8 ∧ bits arg 12 8 ≤ 16 ∧ bits arg 47 32 < p.count ∧ (bits arg 63 63 = 1 → bits arg 47 32 = 0)
        (good → ∃ t, exec .writeRampTable s = .next t ∧ replies t f 0 ∧
          ∀ u ∈ p.tiles, (s.getTile u).ctx.plot = some p.num → (t.getTile u).ctx.ramp.next =
            if bits arg 63 63 = 1 ∨ (s.getTile u).ctx.n = bits arg 47 32 then some (bits arg 4 0, bits arg 12 8)
            else (s.getTile u).ctx.ramp.next) ∧
        (¬good → fails (exec .writeRampTable s) f p 4)) ∧
      (num = 12 →
        (bits arg 63 48 ≠ 0 ∨ bits arg 31 16 ≠ 0 ∨ s.plot (bits arg 47 32) = none → fails (exec .acceptWindow s) f p 4) ∧
        (∀ q, bits arg 63 48 = 0 → bits arg 31 16 = 0 → s.plot (bits arg 47 32) = some q →
          ((∀ o ∈ q.offers, o.num ≠ bits arg 15 0) → fails (exec .acceptWindow s) f p 4) ∧
          (∀ o, (q.offers.find? fun o => o.num == bits arg 15 0) = some o →
            (o.grantee ≠ p.tenant → fails (exec .acceptWindow s) f p 5) ∧
            (o.grantee = p.tenant →
              entersHandle (exec .acceptWindow s) f p (.region (.grant o.tile o.off q.num o.num) o.len o.write) 0)))) ∧
      (num = 13 →
        ((∀ o ∈ p.offers, o.num ≠ arg.toNat) → fails (exec .withdrawWindow s) f p 4) ∧
        ((∃ o ∈ p.offers, o.num = arg.toNat) → ∃ t q, exec .withdrawWindow s = .next t ∧ replies t f 0 ∧
          t.plot p.num = some q ∧ (∀ o, o ∈ q.offers ↔ o ∈ p.offers ∧ o.num ≠ arg.toNat) ∧
          ∀ r ∈ t.wafer.plots, ∀ e ∈ r.handles, ∀ tile off len w, e.obj ≠ some (.region (.grant tile off p.num arg.toNat) len w)))) ∧
    (∀ strong q k v fl l, about s n f → f.req = .call num strong arg q k → f.st = .served v fl → f.arrived = true →
      s.home f = true → ({ s with flights := s.flights.eraseIdx n } : State).runner f = some l →
      ∃ t, exec .syscReply s = .next t ∧ t.flights = s.flights.eraseIdx n ∧
        ∀ r, (t.getSlot l).s r = if f.dest = .s r ∧ r ≠ 0 then BitVec.ofNat 64 v else (s.getSlot l).s r)

namespace Sys2Proof.Claims
open Sys2Proof.Machine Host

/-- A call reads the n bytes that its argument points to: the bytes, in the machine that the reading leaves (hidden entries
of reductions are folded, and pages marked). Every tile that holds them has the plot on it, every bank that holds them is free and
no cask bank is in its refresh window (spec/06 R96, R102, R103), and they can be read. -/
def readsBlock (s : State) (f : Flight) (p : Plot) (x : Word) (n : Nat) (bs : List Byte) (s' : State) : Prop :=
  ∃ ps s0, s.callPlaces f p x n .read = (some ps, s0) ∧ s0.allHeld p.num ps = true ∧
    s0.banksFree ps = true ∧ (∀ a ∈ ps, s0.refreshing a.1 a.2 = false) ∧ s0.unreadable ps = false ∧ s0.readRanges ps = (bs, s')

/-- A call may write n bytes at a place of a tile: the plot stands there, no lease holds them, and their banks are free (spec/06
R96; spec/07 R120). -/
def mayWrite (s : State) (p : Plot) (u off n : Nat) : Prop :=
  s.holds u p.num = true ∧ s.leased ⟨.spad u, off⟩ n = false ∧ s.banksFree [(⟨.spad u, off⟩, n)] = true

/-- The n bytes to which the argument of a call points cannot be had: they are not the plot's memory, or they cannot be read,
which is answered in the same way (log 55). -/
def badBlock (s : State) (f : Flight) (p : Plot) (x : Word) (n : Nat) : Prop :=
  (s.callPlaces f p x n .read).1 = none ∨ ∃ ps s0, s.callPlaces f p x n .read = (some ps, s0) ∧ s0.allHeld p.num ps = true ∧
    s0.banksFree ps = true ∧ (∀ a ∈ ps, s0.refreshing a.1 a.2 = false) ∧ s0.unreadable ps = true

/-- Word i of a block, its lowest byte first (spec/03 R41). -/
def wordOf (bs : List Byte) (i : Nat) : Word := BitVec.ofNat 64 (leNat ((bs.drop (8 * i)).take 8))

/-- A field of a report: its bytes, cut or filled with zeros. -/
def fieldOf (n : Nat) (bs : List Byte) : List Byte := (bs ++ List.replicate n 0).take n

/-- Bytes 0 to 367 of an attestation report (spec/19 R338). -/
def reportOf (s : State) (p : Plot) (nonce : List Byte) : List Byte :=
  leBytes 8 (2 ^ 48 + s.wafer.grade.cores * 2 ^ 40 + s.wafer.subst % 2 ^ 32) ++ fieldOf 32 (Config.shake256 Config.identityKey) ++
    fieldOf 64 nonce ++ fieldOf 64 s.wafer.mfw ++ fieldOf 64 s.wafer.mkern ++ fieldOf 64 s.wafer.mcfg ++ fieldOf 64 p.digest ++
    leBytes 8 p.ctxid.toNat

/-- The members of a replica set whose items are pointers of window 0xA. -/
def itemMembers (p : Plot) (len : Nat) (items : List Word) : List Member :=
  items.map fun x => ⟨[(⟨.spad (p.at (bits x 47 32)), bits x 19 0⟩, len)], none, none⟩

end Sys2Proof.Claims

open Sys2Proof Sys2Proof.Machine Sys2Proof.Claims in
/-- The calls of Rolruica whose argument points to a block.
Where the block can be read, and a place that the call writes is free of leases and of other accesses: a copy region
is made with its base, length and write bit (a length of 0 too, which is the choice of log 42), or refused with code 4
for a bad one; a replica set is made of the members that its items name; a ring of a key of the calling tenant is made
with a header of zeros at its base, refused with code 5 for another key (log 29) and with code 4 for a bad block; a
launch packet is launched for the calling tenant once its evictions are over, and the number of its status alone
returned (that the call waits, and what it returns, is log 39; the form of the packet is log 9); the report of R338 is
written behind the nonce; bytes of the console are appended; an offer takes the next offer number (from 1: log 3), and
one of length 0 is refused with code 4 (log 42). A block that is not the plot's memory, or cannot be read (log 55), is
refused with code 4. Objects enter the handle table where log 29 puts them.
(R96, R120, R145, R147, R254, R256, R296, R321, R322, R326, R338.) -/
def Obligations.CallBlocks : Prop :=
  ∀ (s s' : State) (n : Nat) (f : Flight) (num : Nat) (arg : Word) (p : Plot) (bs : List Byte), s.memWf = true →
    atCall s n f num arg p →
    (num = 3 → readsBlock s f p arg 24 bs s' →
      let base := wordOf bs 0
      let len := (wordOf bs 1).toNat
      let w := wordOf bs 2
      (bits w 63 1 ≠ 0 ∨ wellFormed p.count base (max 1 len) = false → fails (exec .createCopyRegion s) f p 4) ∧
      (bits w 63 1 = 0 → wellFormed p.count base (max 1 len) = true → win base = 0xA → wellFormed p.count base len = true →
        entersHandle (exec .createCopyRegion s) f p (.region (.ptr base) len (bits w 0 0 == 1)) 0)) ∧
    (num = 4 → readsBlock s f p arg 8 bs s' →
      let m := (wordOf bs 0).toNat
      (m = 0 ∨ 16 < m → fails (exec .createReplicaSet s) f p 4) ∧
      (∀ cs s'', 1 ≤ m → m ≤ 16 → readsBlock s' f p arg (16 + 8 * m) cs s'' →
        let len := (wordOf cs 1).toNat
        let items := (List.range m).map fun i => wordOf cs (2 + i)
        (len = 0 → fails (exec .createReplicaSet s) f p 4) ∧
        (len ≠ 0 → (∀ x ∈ items, win x = 0xA ∧ x.toNat % 8 = 0 ∧ wellFormed p.count x len = true) →
          entersHandle (exec .createReplicaSet s) f p (.replica len (itemMembers p len items)) 0))) ∧
    (num = 6 → readsBlock s f p arg 24 bs s' →
      let base := wordOf bs 0
      let w := wordOf bs 1
      let k := wordOf bs 2
      let lb := bits w 63 48
      let ln := bits w 47 32
      let bad := (win base ≠ 0x9 ∧ win base ≠ 0xA) ∨ base.toNat % 64 ≠ 0 ∨ lb < 6 ∨ 14 < lb ∨ ln < 1 ∨ 16 < ln ∨
        bits w 31 16 ≠ 0 ∨ bits k 63 12 ≠ 0 ∨ wellFormed p.count base (64 + 2 ^ ln * 2 ^ lb) = false
      let u := p.at (bits base 47 32)
      (bad → fails (exec .createRing s) f p 4) ∧
      (¬bad → win base = 0xA → (∀ y ∈ s.wafer.ueKeys, ¬(y.2.1 = bits k 11 0 ∧ y.2.2 = p.tenant)) → fails (exec .createRing s) f p 5) ∧
      (∀ m, ¬bad → win base = 0xA → (∃ y ∈ s.wafer.ueKeys, y.2.1 = bits k 11 0 ∧ y.2.2 = p.tenant) → mayWrite s' p u (bits base 19 0) 64 →
        s'.ringNum = some m → noneParked s' → ∃ t, exec .createRing s = .next t ∧ replies t f m ∧
          (noHidden s' ⟨.spad u, bits base 19 0⟩ 64 → onlyBytes s' t ⟨.spad u, bits base 19 0⟩ (List.replicate 64 0)) ∧
          t.wafer.rings = s.wafer.rings ++ [⟨m, p.num, p.tenant, u, bits base 19 0, 2 ^ lb, 2 ^ ln, bits w 15 0, bits k 11 0, 0, 0, 0⟩])) ∧
    (num = 8 → readsBlock s f p arg Config.launchSize bs s' → (∀ m ∈ s'.agenda, m.i ≠ .launch) →
      let k := { Config.parseLaunch bs with source := 2, peer := none, authentic := (Config.parseLaunch bs).tenant == p.tenant }
      s'.evictions k = [] → s'.remapWaits k = false → ∃ t, exec .launchCall s = .next t ∧ replies t f (s'.launchStatus k) ∧
        (s'.launchStatus k ≠ 0 → handlesOf t p p.handles ∧ ∀ q : Place, q.sp ≠ .edge → t.byteAt q = s'.byteAt q) ∧
        (∀ x y w h, s'.launchStatus k = 0 → s'.siteOf k = .fresh x y w h → (∀ q ∈ s'.wafer.plots, q.num ≠ s'.wafer.nextPlot) →
          ∃ q, t.plot s'.wafer.nextPlot = some q ∧ q.tenant = p.tenant ∧ q.x0 = x ∧ q.y0 = y ∧ q.w = w ∧ q.h = h)) ∧
    (num = 9 → readsBlock s f p arg 64 bs s' → win arg = 0xA → wellFormed p.count arg 1712 = true →
      mayWrite s' p (p.at (bits arg 47 32)) (bits arg 19 0 + 64) 1648 → noneParked s' →
      ∃ t, exec .attest s = .next t ∧ replies t f 1648 ∧
        (noHidden s' ⟨.spad (p.at (bits arg 47 32)), bits arg 19 0 + 64⟩ 1648 →
          onlyBytes s' t ⟨.spad (p.at (bits arg 47 32)), bits arg 19 0 + 64⟩
            (reportOf s p bs ++ fieldOf 1280 (Config.falconSign (reportOf s p bs))))) ∧
    (num = 10 → readsBlock s f p arg 8 bs s' →
      let m := (wordOf bs 0).toNat
      (m = 0 ∨ 4096 < m → fails (exec .consoleWrite s) f p 4) ∧
      (∀ cs s'', 1 ≤ m → m ≤ 4096 → readsBlock s' f p arg (8 + m) cs s'' → ∃ t, exec .consoleWrite s = .next t ∧
        replies t f m ∧ t.wafer.console = s.wafer.console ++ [(p.num, cs.drop 8)])) ∧
    (num = 11 → readsBlock s f p arg 24 bs s' →
      let base := wordOf bs 0
      let len := (wordOf bs 1).toNat
      let w := wordOf bs 2
      let bad := win base ≠ 0xA ∨ base.toNat % 64 ≠ 0 ∨ len % 64 ≠ 0 ∨ len = 0 ∨ wellFormed p.count base len = false ∨
        bits w 51 1 ≠ 0
      (bad → fails (exec .offerWindow s) f p 4) ∧
      (¬bad → 65535 < p.nextOffer → fails (exec .offerWindow s) f p 3) ∧
      (¬bad → p.nextOffer ≤ 65535 → ∃ t q, exec .offerWindow s = .next t ∧ replies t f p.nextOffer ∧
        t.plot p.num = some q ∧ q.nextOffer = p.nextOffer + 1 ∧ q.offers = p.offers ++
          [⟨p.nextOffer, p.at (bits base 47 32), bits base 19 0, len, bits w 63 52, bits w 0 0 == 1⟩])) ∧
    (badBlock s f p arg (if num = 4 ∨ num = 10 then 8 else if num = 9 then 64 else if num = 8 then Config.launchSize else 24) →
      (num = 3 → fails (exec .createCopyRegion s) f p 4) ∧ (num = 4 → fails (exec .createReplicaSet s) f p 4) ∧
      (num = 6 → fails (exec .createRing s) f p 4) ∧ (num = 8 → fails (exec .launchCall s) f p 4) ∧ (num = 9 → fails (exec .attest s) f p 4) ∧
      (num = 10 → fails (exec .consoleWrite s) f p 4) ∧ (num = 11 → fails (exec .offerWindow s) f p 4))

namespace Sys2Proof.Claims
open Sys2Proof.Machine Host

/-- The eight words of a trap record, as spec/05 R90 lays them out. -/
def trapRecordWords (s : State) (p : Plot) (cause : Nat) (value : Word) (w : Insn) : Vector Word 8 := #v[
  BitVec.ofNat 64 (cause * 2 ^ 56 + s.stageOf s.cur.tile s.slot.run.queue % 256 * 2 ^ 48), p.ctxid, s.slotReg s.cur,
  BitVec.ofNat 64 (s.slot.pc.toNat % 2 ^ 57 / 4 * 4), pointer 9 (s.tile.ctx.n % 65536) (s.slot.run.off % 2 ^ 20), value,
  w.setWidth 64, BitVec.ofNat 64 s.wafer.time]

end Sys2Proof.Claims

open Sys2Proof Sys2Proof.Machine Sys2Proof.Claims in
/-- Taking a trap, undefined words and empty sources.
A precise trap halts the slot with its PC at the instruction, writes TRAPC and TRAPV, puts the record in state 4,
keeps every register, full bit, loop and control register else, and sends the trap record of R90 to its ring. An
undefined word traps ILLEGAL with the word. Where no load of the slot has failed (log 66 orders that case), an
instruction of major 0x01 whose source is empty traps EMPTY_READ with its number if the w bit is set, sA before sB; it
stalls if no empty source has its w bit set, and stalls where its destination is owed.
(R43, R44, R52, R53, R59, R90.) -/
def Obligations.TrapEntry : Prop :=
  (∀ (s : State) (c : Cause) (v : Word), s.memWf = true →
    let t := s.takeTrap c v
    t.slot.mode = .halted ∧ t.slot.pc = s.slot.pc ∧ t.slot.trapc = BitVec.ofNat 64 (2 ^ 16 + c.code) ∧ t.slot.trapv = v ∧
    t.slot.sreg = s.slot.sreg ∧ t.slot.sfull = s.slot.sfull ∧ t.slot.vreg = s.slot.vreg ∧ t.slot.vfull = s.slot.vfull ∧
    t.slot.lc = s.slot.lc ∧ t.slot.loops = s.slot.loops ∧ t.slot.status = s.slot.status ∧ t.slot.fecfg = s.slot.fecfg ∧
    t.slot.ce = s.slot.ce ∧ t.slot.de = s.slot.de ∧ t.flights = s.flights ∧
    t.tile.ctx.recState s.slot.run.off = 4 ∧
    (∀ q : Place, (q.sp ≠ .spad s.cur.tile ∨ q.off < s.slot.run.off ∨ s.slot.run.off + 8 ≤ q.off) → t.byteAt q = s.byteAt q) ∧
    ∀ p, s.own = some p → (vget (s.die p.die).trap (ringOf p.asid) []).length < 512 →
      (∀ h ∈ (s.die p.die).heldTrap, h.1 ≠ ringOf p.asid) →
      vget (t.die p.die).trap (ringOf p.asid) [] =
        vget (s.die p.die).trap (ringOf p.asid) [] ++ [trapRecordWords s p c.code v s.slot.ir]) ∧
  (∀ s : State, exec .illegalWord s = .next (s.takeTrap .illegal (s.slot.ir.setWidth 64))) ∧
  (∀ row ∈ aluRows, ∀ (d a b : Reg) (wa wb : Bool) (s : State),
    (s.slot.badReg = [] → wa = true → s.slot.isFull a = false →
      exec (row.1 d a b wa wb) s = .next (s.takeTrap .emptyRead (a.setWidth 64))) ∧
    (s.slot.badReg = [] → ¬(wa = true ∧ s.slot.isFull a = false) → wb = true → s.slot.isFull b = false →
      exec (row.1 d a b wa wb) s = .next (s.takeTrap .emptyRead (b.setWidth 64))) ∧
    (¬(wa = true ∧ s.slot.isFull a = false) → ¬(wb = true ∧ s.slot.isFull b = false) → s.slot.badReg = [] →
      (s.slot.isFull a = false ∨ s.slot.isFull b = false →
        ∃ r, (r = a ∨ r = b) ∧ s.slot.isFull r = false ∧ exec (row.1 d a b wa wb) s = stalledEmpty r.toNat s) ∧
      (s.slot.isFull a = true → s.slot.isFull b = true → s.producing (.s d) = true →
        exec (row.1 d a b wa wb) s = stalled s)))

namespace Sys2Proof.Claims
open Sys2Proof.Machine Host

/-- Words of the spec's worked encodings, with what they stand for. -/
def printedWords : List (Insn × Instr) := [
  (0x04611000, .add 3 1 2 false false), (0x04E84A06, .divn 7 8 9 false true), (0x04A60013, .clz 5 6 false),
  (0x19072004, .shri 8 7 4 false), (0x1CA44064, .sltni 5 4 100 false), (0x25240002, .lea 9 true 2),
  (0x3085A003, .brGen 4 5 3), (0x3FEC0001, .jalr 31 12 false), (0x4140161F, .loopi 1 1000 5), (0x42000001, .lbrk 2),
  (0x4CE00002, .csrrd 7 .slot), (0x28BE5001, .wincSh 5 30 false), (0x5D041000, .refq 8 4 false 0),
  (0x54DE2FFF, .st 6 30 false .h 0xFFF), (0x60A32128, .amoCas 5 3 4 false false .plot .d), (0x64032022, .redFadd 3 4 false false .f32),
  (0x68020805, .fence 2 1 false false .system), (0x6CE30001, .barv 7 3 false), (0x6D033803, .bwait 8 3 7 false false),
  (0x98C06402, .vcmpLt 3 0 1 .f32), (0x9D06A400, .vcvt 4 1 .bf16 .f32 .rne 0), (0xA9502402, .vsqrt 5 4 .f32 .rne),
  (0xB4602400, .vbcast 1 8 .f32), (0xB5C42410, .vextImm 7 1 .f32 0)]

end Sys2Proof.Claims

open Sys2Proof Sys2Proof.Machine Sys2Proof.Claims in
/-- Words of the spec decode to what stands beside them.
The words that the worked encodings of the spec print, several for each family, decode to the instruction printed
beside them, and the encoder gives the words back; words of the majors 0x00 and 0x3F, of a reserved major, and words
with a field set that must be zero have no meaning and run as the ILLEGAL trap.
(R40, R45, R47, R48, R49, R50, R51, R52.) -/
def Obligations.DecodeSanity : Prop :=
  (printedWords.all fun x => decode x.1 == some x.2 && encode x.2 == some x.1) = true ∧
  (([0x00000000, 0xFC000000, 0xFFFFFFFF, 0xBC000000, 0x04A60813, 0x43081C00] : List Insn).all fun w =>
    decode w == none && decodeOrIllegal w == .illegalWord) = true

open Sys2Proof Sys2Proof.Machine Sys2Proof.Claims in
/-- Decoding and encoding agree, both ways.
A word decodes to an instruction exactly if that instruction is well formed and its encoding is the word; every well-
formed instruction of tile code has an encoding, and no step of the part has one. So every operand is kept at every
value that the encoding admits, and no two words share a meaning.
(R40, R41, R42, R45, R46, R47, R48, R49, R50, R51, R52.) -/
def Obligations.RoundTrip : Prop :=
  (∀ (w : Insn) (i : Instr), decode w = some i ↔ i.wf = true ∧ encode i = some w) ∧
  (∀ i : Instr, i.wf = true → i.isWord = true → ∃ w, encode i = some w ∧ decode w = some i) ∧
  (∀ i : Instr, i.isWord = false → encode i = none)

namespace Sys2Proof.Claims
open Sys2Proof.Machine Host

/-- The slot at hand with the word that it runs, which the loop buffer keeps where the PC lies in the body of an active
level (spec/04 R78). -/
def withWord (u : State) (w : Insn) : State := u.onCur fun x =>
  { x with ir := w, buf := if x.loops.any (fun l => l.has x.pc) then x.buf ++ [(x.pc, w)] else x.buf }

end Sys2Proof.Claims

open Sys2Proof Sys2Proof.Machine Sys2Proof.Claims in
/-- A step runs the instruction at the PC.
Where the step at hand is the turn of a slot and no breakpoint meets its PC, take the word that the loop buffer holds
for the PC; or, where it holds none, the PC lies on a page that the translation caches map executable, its line is
resident and its bytes can be read, the word stored there. If that word decodes to i, the step is exec of i on the
slot with that word in place, followed by the end of the turn; if it decodes to nothing, the step is the ILLEGAL trap,
followed by the end of the turn. A step of the part is exec of that step. Where nothing can be done, time passes.
(R31, R40, R52, R54, R78.) -/
def Obligations.StepRunsDecoded : Prop :=
  ∀ (s : State),
    (∀ l e, s.turn = .issue l →
      let u := s.takeTurn l
      let at_ := e.place (bits u.slot.pc 56 0)
      let w : Insn := BitVec.ofNat 32 (leNat (u.readPlace at_ 4))
      u.slot.buffered u.slot.pc = none → lookupIn u.slotTlb (u.asid u.cur.tile) (bits u.slot.pc 56 0) = some e → e.x = true →
      u.lineIn u.cur.tile u.slot.pc = true → u.unreadable [(at_, 4)] = false → u.breaks u.slot.pc = false →
      (∀ i v, decode w = some i → exec i (withWord u w) = .next v → step s = .next (v.endTurn l)) ∧
      (decode w = none → step s = .next (((withWord u w).takeTrap .illegal (w.setWidth 64)).endTurn l))) ∧
    (∀ l w, s.turn = .issue l →
      let u := s.takeTurn l
      u.slot.buffered u.slot.pc = some w → u.breaks u.slot.pc = false →
      (∀ i v, decode w = some i → exec i (u.onCur fun x => { x with ir := w }) = .next v → step s = .next (v.endTurn l)) ∧
      (decode w = none →
        step s = .next (((u.onCur fun x => { x with ir := w }).takeTrap .illegal (w.setWidth 64)).endTurn l))) ∧
    (∀ i a, s.turn = .auto i a → step s = exec i { s with arg := a }) ∧
    (∀ m rest, s.turn = .move m rest → m.loc = none → isEvent m.i = true →
      step s = exec m.i { s with agenda := rest, arg := m.arg }) ∧
    (s.turn = .idle → step s = .next s.tick)

open Sys2Proof Sys2Proof.Machine Sys2Proof.Claims in
/-- What module reset leaves, and s0.
After module reset no plot is live, the part is in reset, wafer time is 0 (log 10), all memory reads as zero (log 5),
every tile is free with FC and FT at 16, the budgets of shipment, no boost and no stagger, every ring empty, and every
memory in canonical form. The values that the spec does not give are the choices of the log (entries 1 to 5 and 10).
In every state s0 reads zero and full, and a write to it changes nothing.
(R43, R55, R62, R273, R275, R281, R337.) -/
def Obligations.ResetState : Prop :=
  State.reset.memWf = true ∧ State.reset.wafer.time = 0 ∧ State.reset.wafer.boot = .inReset ∧ State.reset.wafer.plots = [] ∧
  State.reset.wafer.staggerP = 0 ∧ State.reset.agenda = [] ∧ State.reset.flights = [] ∧
  (∀ u, let x := State.reset.getTile u
    x.ctx.plot = none ∧ x.ft = 16 ∧ x.f = 16 ∧ x.enom = 112640 ∧ x.inom = 2200 ∧ x.eboost = 123904 ∧ x.iboost = 2420 ∧
      x.boost = false) ∧
  (∀ d, (State.reset.die d).fc = 16 ∧ ∀ r < 8, vget (State.reset.die d).trap r [] = [] ∧ vget (State.reset.die d).fault r [] = []) ∧
  (∀ q : Place, State.reset.byteAt q = 0) ∧
  ∀ (s : State) (x : Word), s.slot.s 0 = 0 ∧ s.slot.isFull 0 = true ∧ s.write 0 x = s

open Sys2Proof Sys2Proof.Machine Sys2Proof.Claims in
/-- Every step keeps the memories in canonical form.
In every state, reached or not, whose byte memories (scratchpads, casks, edge and host memory, the waiting contexts)
and tables of tiles and dies are in canonical form, a step that answers a next state leaves them so: equal memories
stay equal data.
(R3, R16, R259.) -/
def Obligations.MemWfKept : Prop :=
  ∀ s t : State, s.memWf = true → step s = .next t → t.memWf = true

open Sys2Proof Sys2Proof.Machine Sys2Proof.Claims in
/-- No step stops the part.
Every step of every state, reached or not, answers a next state: no instruction and no other step of the part ends in
a fault or a refusal; a trap halts one slot and the part runs on.
(R53, R91.) -/
def Obligations.NeverStops : Prop :=
  ∀ s : State, ∃ t, step s = .next t
end

