-- ==== Sys2Proof/Laws/Memory.lean ====
section
/-!
SUPPORT. Sys2Proof/Laws/Memory.lean: what reading after writing gives, and the canonical form of sparse tables and byte
memories, kept by every operation on them.
-/
namespace Sys2Proof.Machine

/-! ### Sparse tables -/

variable {β : Type} [DecidableEq β]

theorem Sparse.wfFrom_mono (d : β) {m : Sparse β} {lo lo' : Nat} (h : Sparse.wfFrom d lo m = true) (le : lo' ≤ lo) :
    Sparse.wfFrom d lo' m = true := by
  cases m with
  | nil => rfl
  | cons e m => simp only [Sparse.wfFrom, Bool.and_eq_true, decide_eq_true_eq] at h ⊢; exact ⟨⟨by omega, h.1.2⟩, h.2⟩

theorem Sparse.wf_nil (d : β) : Sparse.wf d ([] : Sparse β) = true := rfl

/-- Setting an entry keeps the canonical form. -/
theorem Sparse.wfFrom_set (d : β) (m : Sparse β) (lo a : Nat) (x : β) (h : Sparse.wfFrom d lo m = true) (le : lo ≤ a) :
    Sparse.wfFrom d lo (Sparse.set d m a x) = true := by
  induction m generalizing lo with
  | nil => unfold Sparse.set; split <;> simp_all [Sparse.wfFrom]
  | cons e m ih =>
    obtain ⟨k, v⟩ := e
    simp only [Sparse.wfFrom, Bool.and_eq_true, decide_eq_true_eq] at h
    unfold Sparse.set
    split
    · split
      · simp [Sparse.wfFrom, h]
      · simp [Sparse.wfFrom, *] <;> omega
    · split
      · split
        · exact Sparse.wfFrom_mono d h.2 (by omega)
        · subst a; simp [Sparse.wfFrom, *]
      · simp only [Sparse.wfFrom, Bool.and_eq_true, decide_eq_true_eq]
        exact ⟨h.1, ih (k + 1) h.2 (by omega)⟩

theorem Sparse.wf_set (d : β) {m : Sparse β} (h : Sparse.wf d m = true) (a : Nat) (x : β) :
    Sparse.wf d (Sparse.set d m a x) = true := Sparse.wfFrom_set d m 0 a x h (Nat.zero_le a)

/-- A key below every listed one reads as the default. -/
theorem Sparse.get_below (d : β) {m : Sparse β} {lo a : Nat} (h : Sparse.wfFrom d lo m = true) (lt : a < lo) :
    Sparse.get d m a = d := by
  cases m with
  | nil => rfl
  | cons e m =>
    simp only [Sparse.wfFrom, Bool.and_eq_true, decide_eq_true_eq] at h
    simp [Sparse.get, show a < e.1 by omega]

/-- What was set is read. -/
theorem Sparse.get_set_self (d : β) {m : Sparse β} {lo : Nat} (h : Sparse.wfFrom d lo m = true) (a : Nat) (x : β) :
    Sparse.get d (Sparse.set d m a x) a = x := by
  induction m generalizing lo with
  | nil => unfold Sparse.set; split <;> simp_all [Sparse.get]
  | cons e m ih =>
    obtain ⟨k, v⟩ := e
    simp only [Sparse.wfFrom, Bool.and_eq_true, decide_eq_true_eq] at h
    unfold Sparse.set
    split
    · split <;> simp_all [Sparse.get]
    · split
      · split
        · subst a; simp_all [Sparse.get_below d h.2 (Nat.lt_succ_self k)]
        · subst a; simp [Sparse.get]
      · simp only [Sparse.get, ih h.2]; rw [if_neg (by omega), if_neg (by omega)]

/-- Every other key reads as before. -/
theorem Sparse.get_set_ne (d : β) {m : Sparse β} {lo : Nat} (h : Sparse.wfFrom d lo m = true) {a b : Nat} (ne : b ≠ a)
    (x : β) : Sparse.get d (Sparse.set d m a x) b = Sparse.get d m b := by
  induction m generalizing lo with
  | nil => unfold Sparse.set; split <;> simp_all [Sparse.get]
  | cons e m ih =>
    obtain ⟨k, v⟩ := e
    simp only [Sparse.wfFrom, Bool.and_eq_true, decide_eq_true_eq] at h
    unfold Sparse.set
    split
    · split
      · rfl
      · simp only [Sparse.get]
        split
        · simp [show b < k by omega]
        · simp_all
    · split
      · subst a
        split
        · simp only [Sparse.get]
          split
          · exact Sparse.get_below d h.2 (by omega)
          · simp_all
        · simp_all [Sparse.get]
      · simp only [Sparse.get, ih h.2]

/-- What is listed is not the default, and its key is listed once. -/
theorem Sparse.get_of_mem (d : β) {m : Sparse β} {lo : Nat} (h : Sparse.wfFrom d lo m = true) {k : Nat} {v : β}
    (hm : (k, v) ∈ m) : Sparse.get d m k = v ∧ lo ≤ k := by
  induction m generalizing lo with
  | nil => cases hm
  | cons e m ih =>
    obtain ⟨k', v'⟩ := e
    simp only [Sparse.wfFrom, Bool.and_eq_true, decide_eq_true_eq] at h
    cases hm with
    | head => simp [Sparse.get, h.1.1]
    | tail _ hm =>
      have := ih h.2 hm
      refine ⟨?_, by omega⟩
      simp [Sparse.get, show ¬ k < k' by omega, show ¬ k = k' by omega, this.1]

omit [DecidableEq β] in
/-- A table read at any key gives the default or something listed. -/
theorem Sparse.get_mem (d : β) (m : Sparse β) (a : Nat) : Sparse.get d m a = d ∨ (a, Sparse.get d m a) ∈ m := by
  induction m with
  | nil => exact .inl rfl
  | cons e m ih =>
    obtain ⟨k, v⟩ := e
    simp only [Sparse.get]
    split
    · exact .inl rfl
    · split
      · subst a; exact .inr (List.mem_cons_self ..)
      · exact ih.imp id (List.mem_cons_of_mem _)

/-- What a table lists after an entry is set was listed before, or is the new entry. -/
theorem Sparse.mem_set (d : β) {m : Sparse β} {a : Nat} {x : β} {e : Nat × β} (h : e ∈ Sparse.set d m a x) :
    e ∈ m ∨ (e = (a, x) ∧ x ≠ d) := by
  induction m with
  | nil => unfold Sparse.set at h; split at h <;> simp_all
  | cons f m ih =>
    obtain ⟨k, v⟩ := f
    unfold Sparse.set at h
    split at h
    · split at h <;> simp_all [or_comm, or_left_comm]
    · split at h
      · split at h
        · exact .inl (List.mem_cons_of_mem _ h)
        · cases h with
          | head => exact .inr ⟨rfl, by assumption⟩
          | tail _ h => exact .inl (List.mem_cons_of_mem _ h)
      · cases h with
        | head => exact .inl (List.mem_cons_self ..)
        | tail _ h => exact (ih h).imp (List.mem_cons_of_mem _) id

/-! ### Byte memories -/

theorem Memory.wf_nil : Memory.wf [] = true := rfl

/-- Writing bytes keeps the canonical form. -/
theorem Memory.wf_writeN {m : Mem} (h : Memory.wf m = true) (a : Nat) (bs : List Byte) :
    Memory.wf (Memory.writeN m a bs) = true := by
  induction bs generalizing m a with
  | nil => exact h
  | cons b bs ih => exact ih (Sparse.wf_set 0 h a b) (a + 1)

/-- A byte after a write: the written one inside the range, the old one outside. -/
theorem Memory.read_writeN {m : Mem} (h : Memory.wf m = true) (a : Nat) (bs : List Byte) (b : Nat) :
    Memory.read (Memory.writeN m a bs) b =
      if a ≤ b ∧ b < a + bs.length then bs[b - a]?.getD 0 else Memory.read m b := by
  induction bs generalizing m a with
  | nil => simp only [Memory.writeN, List.length_nil, Nat.add_zero]; rw [if_neg (by omega)]
  | cons x xs ih =>
    rw [Memory.writeN, ih (Sparse.wf_set 0 h a x) (a + 1)]
    simp only [List.length_cons]
    by_cases e : b = a
    · subst e
      rw [if_neg (by omega), if_pos (by omega)]
      simp only [Memory.read, Nat.sub_self, List.getElem?_cons_zero, Option.getD_some]
      exact Sparse.get_set_self 0 h b x
    · simp only [Memory.read, Sparse.get_set_ne 0 h e]
      by_cases c : a + 1 ≤ b ∧ b < a + 1 + xs.length
      · rw [if_pos c, if_pos (by omega), show b - a = b - (a + 1) + 1 by omega]; simp
      · rw [if_neg c, if_neg (by omega)]

/-- What was written is read, whole. -/
theorem Memory.readN_writeN_self {m : Mem} (h : Memory.wf m = true) (a : Nat) (bs : List Byte) :
    Memory.readN (Memory.writeN m a bs) a bs.length = bs := by
  have key : ∀ (n k : Nat), k + n = bs.length → Memory.readN (Memory.writeN m a bs) (a + k) n = bs.drop k := by
    intro n
    induction n with
    | zero => intro k e; simp [Memory.readN, List.drop_eq_nil_of_le (show bs.length ≤ k by omega)]
    | succ n ih =>
      intro k e
      have hk : k < bs.length := by omega
      rw [Memory.readN, Nat.add_assoc, ih (k + 1) (by omega), Memory.read_writeN h, if_pos (by omega),
        List.drop_eq_getElem_cons hk]
      simp [hk]
  simpa using key bs.length 0 (by omega)

/-- A range that a write does not meet reads as before. -/
theorem Memory.readN_writeN_ne {m : Mem} (h : Memory.wf m = true) (a : Nat) (bs : List Byte) (b n : Nat)
    (apart : b + n ≤ a ∨ a + bs.length ≤ b) : Memory.readN (Memory.writeN m a bs) b n = Memory.readN m b n := by
  induction n generalizing b with
  | zero => rfl
  | succ n ih =>
    rw [Memory.readN, Memory.readN, Memory.read_writeN h, if_neg (by omega), ih (b + 1) (by omega)]

/-! ### Parts of memories -/

/-- A table with entries left out is canonical. -/
theorem Sparse.wfFrom_filter {β : Type} [DecidableEq β] (d : β) {m : Sparse β} {lo : Nat} (h : Sparse.wfFrom d lo m = true) (p : Nat × β → Bool) :
    Sparse.wfFrom d lo (m.filter p) = true := by
  induction m generalizing lo with
  | nil => exact h
  | cons e m ih =>
    obtain ⟨k, v⟩ := e
    simp only [Sparse.wfFrom, Bool.and_eq_true, decide_eq_true_eq] at h
    by_cases hp : p (k, v) = true
    · rw [List.filter_cons_of_pos hp]
      simp only [Sparse.wfFrom, Bool.and_eq_true, decide_eq_true_eq]
      exact ⟨h.1, ih h.2⟩
    · rw [List.filter_cons_of_neg hp]
      exact Sparse.wfFrom_mono d (ih h.2) (by omega)

/-- A table moved upward is canonical. -/
theorem Sparse.wfFrom_up {β : Type} [DecidableEq β] (d : β) (a : Nat) {m : Sparse β} {lo : Nat} (h : Sparse.wfFrom d lo m = true) :
    Sparse.wfFrom d (a + lo) (m.map fun c => (a + c.1, c.2)) = true := by
  induction m generalizing lo with
  | nil => rfl
  | cons e m ih =>
    obtain ⟨k, v⟩ := e
    simp only [List.map_cons, Sparse.wfFrom, Bool.and_eq_true, decide_eq_true_eq] at h ⊢
    exact ⟨⟨by omega, h.1.2⟩, by simpa [Nat.add_assoc] using ih h.2⟩

/-- A table whose keys all lie above an address, moved downward by it, is canonical. -/
theorem Sparse.wfFrom_down {β : Type} [DecidableEq β] (d : β) (a : Nat) {m : Sparse β} {lo : Nat} (h : Sparse.wfFrom d lo m = true) (le : a ≤ lo) :
    Sparse.wfFrom d (lo - a) (m.map fun c => (c.1 - a, c.2)) = true := by
  induction m generalizing lo with
  | nil => rfl
  | cons e m ih =>
    obtain ⟨k, v⟩ := e
    simp only [List.map_cons, Sparse.wfFrom, Bool.and_eq_true, decide_eq_true_eq] at h ⊢
    refine ⟨⟨by omega, h.1.2⟩, ?_⟩
    have := ih h.2 (by omega)
    rwa [show k + 1 - a = k - a + 1 by omega] at this

/-- Two tables of which the first ends below a bound from which the second starts. -/
theorem Sparse.wfFrom_append {β : Type} [DecidableEq β] (d : β) {m n : Sparse β} {lo hi : Nat} (h : Sparse.wfFrom d lo m = true)
    (hn : Sparse.wfFrom d hi n = true) (le : lo ≤ hi) (lt : ∀ e ∈ m, e.1 < hi) : Sparse.wfFrom d lo (m ++ n) = true := by
  induction m generalizing lo with
  | nil => exact Sparse.wfFrom_mono d hn le
  | cons e m ih =>
    obtain ⟨k, v⟩ := e
    simp only [List.cons_append, Sparse.wfFrom, Bool.and_eq_true, decide_eq_true_eq] at h ⊢
    exact ⟨h.1, ih h.2 (lt (k, v) (by simp)) fun e he => lt e (by simp [he])⟩

/-- The entries of a canonical table from a bound on are canonical from that bound. -/
theorem Sparse.wfFrom_from {β : Type} [DecidableEq β] (d : β) {m : Sparse β} {lo : Nat} (h : Sparse.wfFrom d lo m = true) {p : Nat × β → Bool} {a : Nat}
    (hp : ∀ e, p e = true → a ≤ e.1) : Sparse.wfFrom d a (m.filter p) = true := by
  induction m generalizing lo with
  | nil => rfl
  | cons e m ih =>
    obtain ⟨k, v⟩ := e
    simp only [Sparse.wfFrom, Bool.and_eq_true, decide_eq_true_eq] at h
    by_cases hk : p (k, v) = true
    · rw [List.filter_cons_of_pos hk]
      simp only [Sparse.wfFrom, Bool.and_eq_true, decide_eq_true_eq]
      exact ⟨⟨hp _ hk, h.1.2⟩, Sparse.wfFrom_filter d h.2 p⟩
    · rw [List.filter_cons_of_neg hk]
      exact ih h.2

/-- A part of a canonical memory is canonical. -/
theorem Memory.wf_slice {m : Mem} (h : Memory.wf m = true) (a n : Nat) : Memory.wf (Memory.slice m a n) = true := by
  have h₁ := Sparse.wfFrom_from (0 : Byte) (lo := 0) h (p := fun c => decide (a ≤ c.1 ∧ c.1 < a + n)) (a := a)
    (fun e he => (of_decide_eq_true he).1)
  simpa [Memory.wf, Sparse.wf, Memory.slice] using Sparse.wfFrom_down (0 : Byte) a h₁ (Nat.le_refl a)

/-- A canonical memory with another one put into it is canonical. -/
theorem Memory.wf_splice {m x : Mem} (h : Memory.wf m = true) (hx : Memory.wf x = true) (a n : Nat) :
    Memory.wf (Memory.splice m a n x) = true := by
  have h₁ := Sparse.wfFrom_filter (0 : Byte) (lo := 0) h fun c => decide (c.1 < a)
  have h₂ := Sparse.wfFrom_up (0 : Byte) a (Sparse.wfFrom_filter (0 : Byte) (lo := 0) hx fun c => decide (c.1 < n))
  have h₃ := Sparse.wfFrom_from (0 : Byte) (lo := 0) h (p := fun c => decide (a + n ≤ c.1)) (a := a + n) (fun e he => of_decide_eq_true he)
  have h₄ := Sparse.wfFrom_append (0 : Byte) h₁ h₂ (Nat.zero_le _) (by
    intro e he; have := (List.mem_filter.1 he).2; simp only [decide_eq_true_eq] at this; omega)
  refine Sparse.wfFrom_append (0 : Byte) h₄ h₃ (Nat.zero_le _) ?_
  intro e he
  rcases List.mem_append.1 he with e₁ | e₁
  · have := (List.mem_filter.1 e₁).2; simp only [decide_eq_true_eq] at this; omega
  · obtain ⟨c, hc, rfl⟩ := List.mem_map.1 e₁
    have := (List.mem_filter.1 hc).2
    simp only [decide_eq_true_eq] at this
    dsimp only; omega

@[simp] theorem leBytes_length (n x : Nat) : (leBytes n x).length = n := by
  induction n generalizing x with
  | zero => rfl
  | succ n ih => simp [leBytes, ih]

/-- Bytes of a number give the number back, modulo their width. -/
theorem leNat_leBytes (n x : Nat) : leNat (leBytes n x) = x % 256 ^ n := by
  induction n generalizing x with
  | zero => simp [leBytes, leNat, Nat.mod_one]
  | succ n ih =>
    rw [leBytes, leNat, ih, Nat.pow_succ, Nat.mul_comm (256 ^ n) 256, Nat.mod_mul]
    simp

/-- A word written and read. -/
theorem Memory.word_writeN_self {m : Mem} (h : Memory.wf m = true) (a x : Nat) :
    Memory.word (Memory.writeN m a (leBytes 8 x)) a = x % 2 ^ 64 := by
  have e : Memory.readN (Memory.writeN m a (leBytes 8 x)) a 8 = leBytes 8 x := by
    simpa using Memory.readN_writeN_self h a (leBytes 8 x)
  have k : (256 : Nat) ^ 8 = 2 ^ 64 := by decide
  rw [Memory.word, e, leNat_leBytes, k]

/-- A word that a write does not meet. -/
theorem Memory.word_writeN_ne {m : Mem} (h : Memory.wf m = true) (a : Nat) (bs : List Byte) (b : Nat)
    (apart : b + 8 ≤ a ∨ a + bs.length ≤ b) : Memory.word (Memory.writeN m a bs) b = Memory.word m b := by
  rw [Memory.word, Memory.word, Memory.readN_writeN_ne h a bs b 8 apart]

/-! ### Vectors by number -/

theorem vget_vset_self {α : Type} {n : Nat} (v : Vector α n) {i : Nat} (h : i < n) (x d : α) : vget (vset v i x) i d = x := by
  simp [vget, vset, h]

theorem vget_vset_ne {α : Type} {n : Nat} (v : Vector α n) {i j : Nat} (h : i ≠ j) (x d : α) :
    vget (vset v i x) j d = vget v j d := by
  simp [vget, vset, h]

theorem vset_beyond {α : Type} {n : Nat} (v : Vector α n) {i : Nat} (h : n ≤ i) (x : α) : vset v i x = v := by
  simp only [vset]
  ext j hj
  rw [Vector.getElem_setIfInBounds, if_neg (by omega)]

end Sys2Proof.Machine
end

