-- ==== Sys2Proof/Laws/State.lean ====
section
/-!
SUPPORT. Sys2Proof/Laws/State.lean: what each named update of the machine does to each field, one lemma for each, so
that no proof unfolds a record update; then the registers of a slot after each way of writing one.
-/
namespace Sys2Proof.Machine

/-! ### Updates of the machine -/

@[simp] theorem State.onCur_cur (s : State) (f : Slot → Slot) : (s.onCur f).cur = s.cur := rfl
@[simp] theorem State.onCur_slot (s : State) (f : Slot → Slot) : (s.onCur f).slot = f s.slot := rfl
@[simp] theorem State.onCur_tile (s : State) (f : Slot → Slot) : (s.onCur f).tile = s.tile := rfl
@[simp] theorem State.onCur_wafer (s : State) (f : Slot → Slot) : (s.onCur f).wafer = s.wafer := rfl
@[simp] theorem State.onCur_flights (s : State) (f : Slot → Slot) : (s.onCur f).flights = s.flights := rfl
@[simp] theorem State.onCur_arg (s : State) (f : Slot → Slot) : (s.onCur f).arg = s.arg := rfl
@[simp] theorem State.onCur_agenda (s : State) (f : Slot → Slot) : (s.onCur f).agenda = s.agenda := rfl
@[simp] theorem State.onCur_stamp (s : State) (f : Slot → Slot) : (s.onCur f).stamp = s.stamp := rfl
@[simp] theorem State.onCur_free (s : State) (f : Slot → Slot) : (s.onCur f).free = s.free := rfl

@[simp] theorem State.write_cur (s : State) (r : Reg) (x : Word) : (s.write r x).cur = s.cur := rfl
@[simp] theorem State.write_slot (s : State) (r : Reg) (x : Word) : (s.write r x).slot = s.slot.write r x := rfl
@[simp] theorem State.write_tile (s : State) (r : Reg) (x : Word) : (s.write r x).tile = s.tile := rfl
@[simp] theorem State.write_wafer (s : State) (r : Reg) (x : Word) : (s.write r x).wafer = s.wafer := rfl
@[simp] theorem State.write_flights (s : State) (r : Reg) (x : Word) : (s.write r x).flights = s.flights := rfl
@[simp] theorem State.write_arg (s : State) (r : Reg) (x : Word) : (s.write r x).arg = s.arg := rfl
@[simp] theorem State.write_agenda (s : State) (r : Reg) (x : Word) : (s.write r x).agenda = s.agenda := rfl
@[simp] theorem State.write_stamp (s : State) (r : Reg) (x : Word) : (s.write r x).stamp = s.stamp := rfl
@[simp] theorem State.write_free (s : State) (r : Reg) (x : Word) : (s.write r x).free = s.free := rfl

@[simp] theorem State.send_cur (s : State) (f : Flight) : (s.send f).cur = s.cur := rfl
@[simp] theorem State.send_slot (s : State) (f : Flight) : (s.send f).slot = s.slot.pend f.dest := rfl
@[simp] theorem State.send_tile (s : State) (f : Flight) : (s.send f).tile = s.tile := rfl
@[simp] theorem State.send_wafer (s : State) (f : Flight) : (s.send f).wafer = s.wafer := rfl
@[simp] theorem State.send_flights (s : State) (f : Flight) : (s.send f).flights = s.flights ++ [f] := rfl
@[simp] theorem State.send_arg (s : State) (f : Flight) : (s.send f).arg = s.arg := rfl
@[simp] theorem State.send_agenda (s : State) (f : Flight) : (s.send f).agenda = s.agenda := rfl
@[simp] theorem State.send_stamp (s : State) (f : Flight) : (s.send f).stamp = s.stamp + 1 := rfl
@[simp] theorem State.send_free (s : State) (f : Flight) : (s.send f).free = s.free := rfl

@[simp] theorem State.setFlight_cur (s : State) (n : Nat) (f : Flight) : (s.setFlight n f).cur = s.cur := rfl
@[simp] theorem State.setFlight_slot (s : State) (n : Nat) (f : Flight) : (s.setFlight n f).slot = s.slot := rfl
@[simp] theorem State.setFlight_tile (s : State) (n : Nat) (f : Flight) : (s.setFlight n f).tile = s.tile := rfl
@[simp] theorem State.setFlight_wafer (s : State) (n : Nat) (f : Flight) : (s.setFlight n f).wafer = s.wafer := rfl
@[simp] theorem State.setFlight_flights (s : State) (n : Nat) (f : Flight) : (s.setFlight n f).flights =
    s.flights.set n f := rfl
@[simp] theorem State.setFlight_arg (s : State) (n : Nat) (f : Flight) : (s.setFlight n f).arg = s.arg := rfl
@[simp] theorem State.setFlight_agenda (s : State) (n : Nat) (f : Flight) : (s.setFlight n f).agenda = s.agenda := rfl
@[simp] theorem State.setFlight_stamp (s : State) (n : Nat) (f : Flight) : (s.setFlight n f).stamp = s.stamp := rfl
@[simp] theorem State.setFlight_free (s : State) (n : Nat) (f : Flight) : (s.setFlight n f).free = s.free := rfl

@[simp] theorem State.dropFlight_cur (s : State) (n : Nat) : (s.dropFlight n).cur = s.cur := rfl
@[simp] theorem State.dropFlight_slot (s : State) (n : Nat) : (s.dropFlight n).slot = s.slot := rfl
@[simp] theorem State.dropFlight_tile (s : State) (n : Nat) : (s.dropFlight n).tile = s.tile := rfl
@[simp] theorem State.dropFlight_wafer (s : State) (n : Nat) : (s.dropFlight n).wafer = s.wafer := rfl
@[simp] theorem State.dropFlight_flights (s : State) (n : Nat) : (s.dropFlight n).flights = s.flights.eraseIdx n := rfl
@[simp] theorem State.dropFlight_arg (s : State) (n : Nat) : (s.dropFlight n).arg = s.arg := rfl
@[simp] theorem State.dropFlight_agenda (s : State) (n : Nat) : (s.dropFlight n).agenda = s.agenda := rfl
@[simp] theorem State.dropFlight_stamp (s : State) (n : Nat) : (s.dropFlight n).stamp = s.stamp := rfl
@[simp] theorem State.dropFlight_free (s : State) (n : Nat) : (s.dropFlight n).free = s.free := rfl

@[simp] theorem State.report_cur (s : State) (r : Report) : (s.report r).cur = s.cur := rfl
@[simp] theorem State.report_slot (s : State) (r : Report) : (s.report r).slot = s.slot := rfl
@[simp] theorem State.report_tile (s : State) (r : Report) : (s.report r).tile = s.tile := rfl
@[simp] theorem State.report_wafer (s : State) (r : Report) : (s.report r).wafer =
    { s.wafer with reports := r :: s.wafer.reports } := rfl
@[simp] theorem State.report_flights (s : State) (r : Report) : (s.report r).flights = s.flights := rfl
@[simp] theorem State.report_arg (s : State) (r : Report) : (s.report r).arg = s.arg := rfl
@[simp] theorem State.report_agenda (s : State) (r : Report) : (s.report r).agenda = s.agenda := rfl
@[simp] theorem State.report_stamp (s : State) (r : Report) : (s.report r).stamp = s.stamp := rfl
@[simp] theorem State.report_free (s : State) (r : Report) : (s.report r).free = s.free := rfl

@[simp] theorem State.setPlot_cur (s : State) (p : Plot) : (s.setPlot p).cur = s.cur := rfl
@[simp] theorem State.setPlot_slot (s : State) (p : Plot) : (s.setPlot p).slot = s.slot := rfl
@[simp] theorem State.setPlot_tile (s : State) (p : Plot) : (s.setPlot p).tile = s.tile := rfl
@[simp] theorem State.setPlot_wafer (s : State) (p : Plot) : (s.setPlot p).wafer =
    { s.wafer with plots := s.wafer.plots.map fun q => if q.num = p.num then p else q } := rfl
@[simp] theorem State.setPlot_flights (s : State) (p : Plot) : (s.setPlot p).flights = s.flights := rfl
@[simp] theorem State.setPlot_arg (s : State) (p : Plot) : (s.setPlot p).arg = s.arg := rfl
@[simp] theorem State.setPlot_agenda (s : State) (p : Plot) : (s.setPlot p).agenda = s.agenda := rfl
@[simp] theorem State.setPlot_stamp (s : State) (p : Plot) : (s.setPlot p).stamp = s.stamp := rfl
@[simp] theorem State.setPlot_free (s : State) (p : Plot) : (s.setPlot p).free = s.free := rfl

@[simp] theorem State.onDie_cur (s : State) (d : Nat) (f : Die → Die) : (s.onDie d f).cur = s.cur := rfl
@[simp] theorem State.onDie_slot (s : State) (d : Nat) (f : Die → Die) : (s.onDie d f).slot = s.slot := rfl
@[simp] theorem State.onDie_tile (s : State) (d : Nat) (f : Die → Die) : (s.onDie d f).tile = s.tile := rfl
@[simp] theorem State.onDie_wafer (s : State) (d : Nat) (f : Die → Die) : (s.onDie d f).wafer =
    { s.wafer with dies := Sparse.set Die.reset s.wafer.dies d (f (s.die d)) } := rfl
@[simp] theorem State.onDie_flights (s : State) (d : Nat) (f : Die → Die) : (s.onDie d f).flights = s.flights := rfl
@[simp] theorem State.onDie_arg (s : State) (d : Nat) (f : Die → Die) : (s.onDie d f).arg = s.arg := rfl
@[simp] theorem State.onDie_agenda (s : State) (d : Nat) (f : Die → Die) : (s.onDie d f).agenda = s.agenda := rfl
@[simp] theorem State.onDie_stamp (s : State) (d : Nat) (f : Die → Die) : (s.onDie d f).stamp = s.stamp := rfl
@[simp] theorem State.onDie_free (s : State) (d : Nat) (f : Die → Die) : (s.onDie d f).free = s.free := rfl

@[simp] theorem State.putBack_cur (s : State) : (s.putBack).cur = s.cur := rfl
@[simp] theorem State.putBack_slot (s : State) : (s.putBack).slot = s.slot := rfl
@[simp] theorem State.putBack_tile (s : State) : (s.putBack).tile =
    { s.tile with ctx := { s.tile.ctx with slots := vset s.tile.ctx.slots (slotIx s.cur) s.slot } } := rfl
@[simp] theorem State.putBack_wafer (s : State) : (s.putBack).wafer = s.wafer := rfl
@[simp] theorem State.putBack_flights (s : State) : (s.putBack).flights = s.flights := rfl
@[simp] theorem State.putBack_arg (s : State) : (s.putBack).arg = s.arg := rfl
@[simp] theorem State.putBack_agenda (s : State) : (s.putBack).agenda = s.agenda := rfl
@[simp] theorem State.putBack_stamp (s : State) : (s.putBack).stamp = s.stamp := rfl
@[simp] theorem State.putBack_free (s : State) : (s.putBack).free = s.free := rfl

@[simp] theorem State.takeOut_cur (s : State) : (s.takeOut).cur = s.cur := rfl
@[simp] theorem State.takeOut_slot (s : State) : (s.takeOut).slot =
    vget s.tile.ctx.slots (slotIx s.cur) Slot.reset := rfl
@[simp] theorem State.takeOut_tile (s : State) : (s.takeOut).tile =
    { s.tile with ctx := { s.tile.ctx with slots := vset s.tile.ctx.slots (slotIx s.cur) Slot.reset } } := rfl
@[simp] theorem State.takeOut_wafer (s : State) : (s.takeOut).wafer = s.wafer := rfl
@[simp] theorem State.takeOut_flights (s : State) : (s.takeOut).flights = s.flights := rfl
@[simp] theorem State.takeOut_arg (s : State) : (s.takeOut).arg = s.arg := rfl
@[simp] theorem State.takeOut_agenda (s : State) : (s.takeOut).agenda = s.agenda := rfl
@[simp] theorem State.takeOut_stamp (s : State) : (s.takeOut).stamp = s.stamp := rfl
@[simp] theorem State.takeOut_free (s : State) : (s.takeOut).free = s.free := rfl

@[simp] theorem State.setRecState_cur (s : State) (st : Nat) : (s.setRecState st).cur = s.cur := rfl
@[simp] theorem State.setRecState_slot (s : State) (st : Nat) : (s.setRecState st).slot = s.slot := rfl
@[simp] theorem State.setRecState_tile (s : State) (st : Nat) : (s.setRecState st).tile =
    { s.tile with ctx := s.tile.ctx.setState s.slot.run.off st } := rfl
@[simp] theorem State.setRecState_wafer (s : State) (st : Nat) : (s.setRecState st).wafer = s.wafer := rfl
@[simp] theorem State.setRecState_flights (s : State) (st : Nat) : (s.setRecState st).flights = s.flights := rfl
@[simp] theorem State.setRecState_arg (s : State) (st : Nat) : (s.setRecState st).arg = s.arg := rfl
@[simp] theorem State.setRecState_agenda (s : State) (st : Nat) : (s.setRecState st).agenda = s.agenda := rfl
@[simp] theorem State.setRecState_stamp (s : State) (st : Nat) : (s.setRecState st).stamp = s.stamp := rfl
@[simp] theorem State.setRecState_free (s : State) (st : Nat) : (s.setRecState st).free = s.free := rfl

@[simp] theorem State.forgetMiss_cur (s : State) (l : SlotLoc) : (s.forgetMiss l).cur = s.cur := rfl
@[simp] theorem State.forgetMiss_slot (s : State) (l : SlotLoc) : (s.forgetMiss l).slot = s.slot := rfl
@[simp] theorem State.forgetMiss_tile (s : State) (l : SlotLoc) : (s.forgetMiss l).tile = s.tile := rfl
@[simp] theorem State.forgetMiss_wafer (s : State) (l : SlotLoc) : (s.forgetMiss l).wafer =
    { s.wafer with xlates := s.wafer.xlates.filter fun x => !(x.tile == l.tile && x.who == .slot l.core l.slot) } := rfl
@[simp] theorem State.forgetMiss_flights (s : State) (l : SlotLoc) : (s.forgetMiss l).flights = s.flights := rfl
@[simp] theorem State.forgetMiss_arg (s : State) (l : SlotLoc) : (s.forgetMiss l).arg = s.arg := rfl
@[simp] theorem State.forgetMiss_agenda (s : State) (l : SlotLoc) : (s.forgetMiss l).agenda = s.agenda := rfl
@[simp] theorem State.forgetMiss_stamp (s : State) (l : SlotLoc) : (s.forgetMiss l).stamp = s.stamp := rfl
@[simp] theorem State.forgetMiss_free (s : State) (l : SlotLoc) : (s.forgetMiss l).free = s.free := rfl

@[simp] theorem State.cancel_cur (s : State) (l : SlotLoc) (d : Dest) : (s.cancel l d).cur = s.cur := rfl
@[simp] theorem State.cancel_slot (s : State) (l : SlotLoc) (d : Dest) : (s.cancel l d).slot = s.slot := rfl
@[simp] theorem State.cancel_tile (s : State) (l : SlotLoc) (d : Dest) : (s.cancel l d).tile = s.tile := rfl
@[simp] theorem State.cancel_wafer (s : State) (l : SlotLoc) (d : Dest) : (s.cancel l d).wafer = s.wafer := rfl
@[simp] theorem State.cancel_flights (s : State) (l : SlotLoc) (d : Dest) : (s.cancel l d).flights =
    s.flights.map fun f =>
      if f.of l.tile ((s.getTile l.tile).ctx.plot.getD 0) (s.getSlot l).run.off && f.dest == d then { f with dest := .none } else f := rfl
@[simp] theorem State.cancel_arg (s : State) (l : SlotLoc) (d : Dest) : (s.cancel l d).arg = s.arg := rfl
@[simp] theorem State.cancel_agenda (s : State) (l : SlotLoc) (d : Dest) : (s.cancel l d).agenda = s.agenda := rfl
@[simp] theorem State.cancel_stamp (s : State) (l : SlotLoc) (d : Dest) : (s.cancel l d).stamp = s.stamp := rfl
@[simp] theorem State.cancel_free (s : State) (l : SlotLoc) (d : Dest) : (s.cancel l d).free = s.free := rfl

@[simp] theorem State.publish_cur (s : State) : (s.publish).cur = s.cur := rfl
@[simp] theorem State.publish_slot (s : State) : (s.publish).slot = s.slot := rfl
@[simp] theorem State.publish_tile (s : State) : (s.publish).tile = s.tile := rfl
@[simp] theorem State.publish_wafer (s : State) : (s.publish).wafer = s.wafer := rfl
@[simp] theorem State.publish_flights (s : State) : (s.publish).flights =
    s.flights.map fun f => if s.mine f && f.isWrite then { f with pub := true } else f := rfl
@[simp] theorem State.publish_arg (s : State) : (s.publish).arg = s.arg := rfl
@[simp] theorem State.publish_agenda (s : State) : (s.publish).agenda = s.agenda := rfl
@[simp] theorem State.publish_stamp (s : State) : (s.publish).stamp = s.stamp := rfl
@[simp] theorem State.publish_free (s : State) : (s.publish).free = s.free := rfl

@[simp] theorem State.taken_cur (s : State) : (s.taken).cur = s.cur := rfl
@[simp] theorem State.taken_slot (s : State) : (s.taken).slot = { s.slot with notBefore := s.now + 3 } := rfl
@[simp] theorem State.taken_tile (s : State) : (s.taken).tile = s.tile := rfl
@[simp] theorem State.taken_wafer (s : State) : (s.taken).wafer = s.wafer := rfl
@[simp] theorem State.taken_flights (s : State) : (s.taken).flights = s.flights := rfl
@[simp] theorem State.taken_arg (s : State) : (s.taken).arg = s.arg := rfl
@[simp] theorem State.taken_agenda (s : State) : (s.taken).agenda = s.agenda := rfl
@[simp] theorem State.taken_stamp (s : State) : (s.taken).stamp = s.stamp := rfl
@[simp] theorem State.taken_free (s : State) : (s.taken).free = s.free := rfl

/-! ### The slot at hand -/

@[simp] theorem State.getSlot_cur (s : State) : s.getSlot s.cur = s.slot := by simp [State.getSlot]
@[simp] theorem State.getTile_cur (s : State) : s.getTile s.cur.tile = s.tile := by simp [State.getTile]
@[simp] theorem State.setTile_cur (s : State) (x : Tile) : s.setTile s.cur.tile x = { s with tile := x } := by simp [State.setTile]
@[simp] theorem State.setSlot_cur (s : State) (x : Slot) : s.setSlot s.cur x = { s with slot := x } := by simp [State.setSlot]
@[simp] theorem State.focus_cur (s : State) : s.focus s.cur = s := by simp [State.focus]
@[simp] theorem State.onSlot_cur (s : State) (f : Slot → Slot) : s.onSlot s.cur f = s.onCur f := by
  simp [State.onSlot, State.onCur]

/-- What a tile's replacement leaves alone. -/
@[simp] theorem State.setTile_cur' (s : State) (t : Nat) (x : Tile) : (s.setTile t x).cur = s.cur := by
  unfold State.setTile; split <;> rfl
@[simp] theorem State.setTile_slot (s : State) (t : Nat) (x : Tile) : (s.setTile t x).slot = s.slot := by
  unfold State.setTile; split <;> rfl
@[simp] theorem State.setTile_flights (s : State) (t : Nat) (x : Tile) : (s.setTile t x).flights = s.flights := by
  unfold State.setTile; split <;> rfl
@[simp] theorem State.setTile_plots (s : State) (t : Nat) (x : Tile) : (s.setTile t x).wafer.plots = s.wafer.plots := by
  unfold State.setTile; split <;> rfl
@[simp] theorem State.setTile_edge (s : State) (t : Nat) (x : Tile) : (s.setTile t x).wafer.edge = s.wafer.edge := by
  unfold State.setTile; split <;> rfl
@[simp] theorem State.setTile_time (s : State) (t : Nat) (x : Tile) : (s.setTile t x).wafer.time = s.wafer.time := by
  unfold State.setTile; split <;> rfl

/-! ### Registers of a slot -/

theorem setBit_self {n : Nat} (m : BitVec n) {i : Nat} (h : i < n) (b : Bool) : (setBit m i b).getLsbD i = b := by
  have k : (BitVec.ofNat n (2 ^ i)).getLsbD i = true := by
    rw [BitVec.getLsbD_ofNat, Nat.testBit_two_pow]; simp [h]
  cases b <;> simp only [setBit, if_true, if_false, Bool.false_eq_true, BitVec.getLsbD_or, BitVec.getLsbD_and,
    BitVec.getLsbD_not, k, Bool.or_true, Bool.not_true, Bool.and_false]

theorem setBit_ne {n : Nat} (m : BitVec n) {i j : Nat} (h : i ≠ j) (b : Bool) :
    (setBit m i b).getLsbD j = m.getLsbD j := by
  have k : j < n → (BitVec.ofNat n (2 ^ i)).getLsbD j = false := fun hj => by
    rw [BitVec.getLsbD_ofNat, Nat.testBit_two_pow]; simp [h]
  by_cases hj : j < n
  · have k := k hj
    cases b <;> simp only [setBit, if_true, if_false, Bool.false_eq_true, BitVec.getLsbD_or, BitVec.getLsbD_and,
      BitVec.getLsbD_not, k, Bool.or_false, Bool.not_false, Bool.and_true, decide_eq_true hj]
  · rw [BitVec.getLsbD_of_ge _ _ (by omega), BitVec.getLsbD_of_ge _ _ (by omega)]

theorem Slot.s_zero (x : Slot) : x.s 0 = 0 := rfl
theorem Slot.isFull_zero (x : Slot) : x.isFull 0 = true := rfl

/-- s[q] after s[r] is written: s0 stays zero. -/
theorem Slot.writeFrom_s (x : Slot) (r q : Reg) (w : Word) (n : Nat) :
    (x.writeFrom r w n).s q = if q = r ∧ q ≠ 0 then w else x.s q := by
  unfold Slot.writeFrom Slot.s
  by_cases hq : q = 0
  · rw [if_pos hq, if_pos hq, if_neg (fun h => h.2 hq)]
  · rw [if_neg hq, if_neg hq]
    by_cases hr : r = 0
    · rw [if_pos hr, if_neg (fun h => hq (h.1.trans hr))]
    · rw [if_neg hr]
      by_cases e : q = r
      · subst e; rw [if_pos ⟨rfl, hq⟩]; exact Vector.getElem_set_self q.isLt
      · have ne : r.toNat ≠ q.toNat := fun h => e (BitVec.eq_of_toNat_eq h.symm)
        rw [if_neg (fun h => e h.1)]; exact Vector.getElem_set_ne r.isLt q.isLt ne

/-- The full bit of s[q] after s[r] is written. -/
theorem Slot.writeFrom_isFull (x : Slot) (r q : Reg) (w : Word) (n : Nat) :
    (x.writeFrom r w n).isFull q = (x.isFull q || q == r) := by
  unfold Slot.writeFrom Slot.isFull
  by_cases hr : r = 0
  · rw [if_pos hr, hr, Bool.or_right_comm, Bool.or_self]
  · rw [if_neg hr]
    by_cases e : q = r
    · subst e
      rw [setBit_self _ (show q.toNat < 32 from q.isLt)]
      simp
    · have ne : r.toNat ≠ q.toNat := fun h => e (BitVec.eq_of_toNat_eq h.symm)
      rw [setBit_ne _ ne, beq_false_of_ne e, Bool.or_false]

@[simp] theorem Slot.writeFrom_mode (x : Slot) (r : Reg) (w : Word) (n : Nat) : (x.writeFrom r w n).mode = x.mode := by
  unfold Slot.writeFrom; split <;> rfl
@[simp] theorem Slot.writeFrom_run (x : Slot) (r : Reg) (w : Word) (n : Nat) : (x.writeFrom r w n).run = x.run := by
  unfold Slot.writeFrom; split <;> rfl
@[simp] theorem Slot.writeFrom_vreg (x : Slot) (r : Reg) (w : Word) (n : Nat) : (x.writeFrom r w n).vreg = x.vreg := by
  unfold Slot.writeFrom; split <;> rfl
@[simp] theorem Slot.writeFrom_vfull (x : Slot) (r : Reg) (w : Word) (n : Nat) : (x.writeFrom r w n).vfull = x.vfull := by
  unfold Slot.writeFrom; split <;> rfl
@[simp] theorem Slot.writeFrom_lc (x : Slot) (r : Reg) (w : Word) (n : Nat) : (x.writeFrom r w n).lc = x.lc := by
  unfold Slot.writeFrom; split <;> rfl
@[simp] theorem Slot.writeFrom_loops (x : Slot) (r : Reg) (w : Word) (n : Nat) : (x.writeFrom r w n).loops = x.loops := by
  unfold Slot.writeFrom; split <;> rfl
@[simp] theorem Slot.writeFrom_pc (x : Slot) (r : Reg) (w : Word) (n : Nat) : (x.writeFrom r w n).pc = x.pc := by
  unfold Slot.writeFrom; split <;> rfl
@[simp] theorem Slot.writeFrom_ir (x : Slot) (r : Reg) (w : Word) (n : Nat) : (x.writeFrom r w n).ir = x.ir := by
  unfold Slot.writeFrom; split <;> rfl
@[simp] theorem Slot.writeFrom_status (x : Slot) (r : Reg) (w : Word) (n : Nat) : (x.writeFrom r w n).status = x.status := by
  unfold Slot.writeFrom; split <;> rfl
@[simp] theorem Slot.writeFrom_trapc (x : Slot) (r : Reg) (w : Word) (n : Nat) : (x.writeFrom r w n).trapc = x.trapc := by
  unfold Slot.writeFrom; split <;> rfl
@[simp] theorem Slot.writeFrom_trapv (x : Slot) (r : Reg) (w : Word) (n : Nat) : (x.writeFrom r w n).trapv = x.trapv := by
  unfold Slot.writeFrom; split <;> rfl
@[simp] theorem Slot.writeFrom_fecfg (x : Slot) (r : Reg) (w : Word) (n : Nat) : (x.writeFrom r w n).fecfg = x.fecfg := by
  unfold Slot.writeFrom; split <;> rfl
@[simp] theorem Slot.writeFrom_ce (x : Slot) (r : Reg) (w : Word) (n : Nat) : (x.writeFrom r w n).ce = x.ce := by
  unfold Slot.writeFrom; split <;> rfl
@[simp] theorem Slot.writeFrom_de (x : Slot) (r : Reg) (w : Word) (n : Nat) : (x.writeFrom r w n).de = x.de := by
  unfold Slot.writeFrom; split <;> rfl
@[simp] theorem Slot.writeFrom_snap (x : Slot) (r : Reg) (w : Word) (n : Nat) : (x.writeFrom r w n).snap = x.snap := by
  unfold Slot.writeFrom; split <;> rfl
@[simp] theorem Slot.writeFrom_held (x : Slot) (r : Reg) (w : Word) (n : Nat) : (x.writeFrom r w n).held = x.held := by
  unfold Slot.writeFrom; split <;> rfl
@[simp] theorem Slot.writeFrom_notBefore (x : Slot) (r : Reg) (w : Word) (n : Nat) : (x.writeFrom r w n).notBefore = x.notBefore := by
  unfold Slot.writeFrom; split <;> rfl
@[simp] theorem Slot.writeFrom_stepping (x : Slot) (r : Reg) (w : Word) (n : Nat) : (x.writeFrom r w n).stepping = x.stepping := by
  unfold Slot.writeFrom; split <;> rfl
@[simp] theorem Slot.writeFrom_badReg (x : Slot) (r : Reg) (w : Word) (n : Nat) : (x.writeFrom r w n).badReg = x.badReg := by
  unfold Slot.writeFrom; split <;> rfl
@[simp] theorem Slot.writeFrom_leaving (x : Slot) (r : Reg) (w : Word) (n : Nat) : (x.writeFrom r w n).leaving = x.leaving := by
  unfold Slot.writeFrom; split <;> rfl
@[simp] theorem Slot.write_mode (x : Slot) (r : Reg) (w : Word) : (x.write r w).mode = x.mode := by
  unfold Slot.write Slot.writeFrom; split <;> rfl
@[simp] theorem Slot.write_run (x : Slot) (r : Reg) (w : Word) : (x.write r w).run = x.run := by
  unfold Slot.write Slot.writeFrom; split <;> rfl
@[simp] theorem Slot.write_vreg (x : Slot) (r : Reg) (w : Word) : (x.write r w).vreg = x.vreg := by
  unfold Slot.write Slot.writeFrom; split <;> rfl
@[simp] theorem Slot.write_vfull (x : Slot) (r : Reg) (w : Word) : (x.write r w).vfull = x.vfull := by
  unfold Slot.write Slot.writeFrom; split <;> rfl
@[simp] theorem Slot.write_lc (x : Slot) (r : Reg) (w : Word) : (x.write r w).lc = x.lc := by
  unfold Slot.write Slot.writeFrom; split <;> rfl
@[simp] theorem Slot.write_loops (x : Slot) (r : Reg) (w : Word) : (x.write r w).loops = x.loops := by
  unfold Slot.write Slot.writeFrom; split <;> rfl
@[simp] theorem Slot.write_pc (x : Slot) (r : Reg) (w : Word) : (x.write r w).pc = x.pc := by
  unfold Slot.write Slot.writeFrom; split <;> rfl
@[simp] theorem Slot.write_ir (x : Slot) (r : Reg) (w : Word) : (x.write r w).ir = x.ir := by
  unfold Slot.write Slot.writeFrom; split <;> rfl
@[simp] theorem Slot.write_status (x : Slot) (r : Reg) (w : Word) : (x.write r w).status = x.status := by
  unfold Slot.write Slot.writeFrom; split <;> rfl
@[simp] theorem Slot.write_trapc (x : Slot) (r : Reg) (w : Word) : (x.write r w).trapc = x.trapc := by
  unfold Slot.write Slot.writeFrom; split <;> rfl
@[simp] theorem Slot.write_trapv (x : Slot) (r : Reg) (w : Word) : (x.write r w).trapv = x.trapv := by
  unfold Slot.write Slot.writeFrom; split <;> rfl
@[simp] theorem Slot.write_fecfg (x : Slot) (r : Reg) (w : Word) : (x.write r w).fecfg = x.fecfg := by
  unfold Slot.write Slot.writeFrom; split <;> rfl
@[simp] theorem Slot.write_ce (x : Slot) (r : Reg) (w : Word) : (x.write r w).ce = x.ce := by
  unfold Slot.write Slot.writeFrom; split <;> rfl
@[simp] theorem Slot.write_de (x : Slot) (r : Reg) (w : Word) : (x.write r w).de = x.de := by
  unfold Slot.write Slot.writeFrom; split <;> rfl
@[simp] theorem Slot.write_snap (x : Slot) (r : Reg) (w : Word) : (x.write r w).snap = x.snap := by
  unfold Slot.write Slot.writeFrom; split <;> rfl
@[simp] theorem Slot.write_held (x : Slot) (r : Reg) (w : Word) : (x.write r w).held = x.held := by
  unfold Slot.write Slot.writeFrom; split <;> rfl
@[simp] theorem Slot.write_notBefore (x : Slot) (r : Reg) (w : Word) : (x.write r w).notBefore = x.notBefore := by
  unfold Slot.write Slot.writeFrom; split <;> rfl
@[simp] theorem Slot.write_stepping (x : Slot) (r : Reg) (w : Word) : (x.write r w).stepping = x.stepping := by
  unfold Slot.write Slot.writeFrom; split <;> rfl
@[simp] theorem Slot.write_badReg (x : Slot) (r : Reg) (w : Word) : (x.write r w).badReg = x.badReg := by
  unfold Slot.write Slot.writeFrom; split <;> rfl
@[simp] theorem Slot.write_leaving (x : Slot) (r : Reg) (w : Word) : (x.write r w).leaving = x.leaving := by
  unfold Slot.write Slot.writeFrom; split <;> rfl
@[simp] theorem Slot.pend_mode (x : Slot) (d : Dest) : (x.pend d).mode = x.mode := by
  unfold Slot.pend; split <;> (try split) <;> rfl
@[simp] theorem Slot.pend_run (x : Slot) (d : Dest) : (x.pend d).run = x.run := by
  unfold Slot.pend; split <;> (try split) <;> rfl
@[simp] theorem Slot.pend_sreg (x : Slot) (d : Dest) : (x.pend d).sreg = x.sreg := by
  unfold Slot.pend; split <;> (try split) <;> rfl
@[simp] theorem Slot.pend_vreg (x : Slot) (d : Dest) : (x.pend d).vreg = x.vreg := by
  unfold Slot.pend; split <;> (try split) <;> rfl
@[simp] theorem Slot.pend_lc (x : Slot) (d : Dest) : (x.pend d).lc = x.lc := by
  unfold Slot.pend; split <;> (try split) <;> rfl
@[simp] theorem Slot.pend_loops (x : Slot) (d : Dest) : (x.pend d).loops = x.loops := by
  unfold Slot.pend; split <;> (try split) <;> rfl
@[simp] theorem Slot.pend_pc (x : Slot) (d : Dest) : (x.pend d).pc = x.pc := by
  unfold Slot.pend; split <;> (try split) <;> rfl
@[simp] theorem Slot.pend_ir (x : Slot) (d : Dest) : (x.pend d).ir = x.ir := by
  unfold Slot.pend; split <;> (try split) <;> rfl
@[simp] theorem Slot.pend_status (x : Slot) (d : Dest) : (x.pend d).status = x.status := by
  unfold Slot.pend; split <;> (try split) <;> rfl
@[simp] theorem Slot.pend_trapc (x : Slot) (d : Dest) : (x.pend d).trapc = x.trapc := by
  unfold Slot.pend; split <;> (try split) <;> rfl
@[simp] theorem Slot.pend_trapv (x : Slot) (d : Dest) : (x.pend d).trapv = x.trapv := by
  unfold Slot.pend; split <;> (try split) <;> rfl
@[simp] theorem Slot.pend_fecfg (x : Slot) (d : Dest) : (x.pend d).fecfg = x.fecfg := by
  unfold Slot.pend; split <;> (try split) <;> rfl
@[simp] theorem Slot.pend_ce (x : Slot) (d : Dest) : (x.pend d).ce = x.ce := by
  unfold Slot.pend; split <;> (try split) <;> rfl
@[simp] theorem Slot.pend_de (x : Slot) (d : Dest) : (x.pend d).de = x.de := by
  unfold Slot.pend; split <;> (try split) <;> rfl
@[simp] theorem Slot.pend_snap (x : Slot) (d : Dest) : (x.pend d).snap = x.snap := by
  unfold Slot.pend; split <;> (try split) <;> rfl
@[simp] theorem Slot.pend_held (x : Slot) (d : Dest) : (x.pend d).held = x.held := by
  unfold Slot.pend; split <;> (try split) <;> rfl
@[simp] theorem Slot.pend_notBefore (x : Slot) (d : Dest) : (x.pend d).notBefore = x.notBefore := by
  unfold Slot.pend; split <;> (try split) <;> rfl
@[simp] theorem Slot.pend_stepping (x : Slot) (d : Dest) : (x.pend d).stepping = x.stepping := by
  unfold Slot.pend; split <;> (try split) <;> rfl
@[simp] theorem Slot.pend_badReg (x : Slot) (d : Dest) : (x.pend d).badReg = x.badReg := by
  unfold Slot.pend; split <;> (try split) <;> rfl
@[simp] theorem Slot.pend_leaving (x : Slot) (d : Dest) : (x.pend d).leaving = x.leaving := by
  unfold Slot.pend; split <;> (try split) <;> rfl
@[simp] theorem Slot.hold_mode (x : Slot) (now : Nat) : (x.hold now).mode = x.mode := rfl
@[simp] theorem Slot.hold_run (x : Slot) (now : Nat) : (x.hold now).run = x.run := rfl
@[simp] theorem Slot.hold_sreg (x : Slot) (now : Nat) : (x.hold now).sreg = x.sreg := rfl
@[simp] theorem Slot.hold_sfull (x : Slot) (now : Nat) : (x.hold now).sfull = x.sfull := rfl
@[simp] theorem Slot.hold_vreg (x : Slot) (now : Nat) : (x.hold now).vreg = x.vreg := rfl
@[simp] theorem Slot.hold_vfull (x : Slot) (now : Nat) : (x.hold now).vfull = x.vfull := rfl
@[simp] theorem Slot.hold_lc (x : Slot) (now : Nat) : (x.hold now).lc = x.lc := rfl
@[simp] theorem Slot.hold_loops (x : Slot) (now : Nat) : (x.hold now).loops = x.loops := rfl
@[simp] theorem Slot.hold_pc (x : Slot) (now : Nat) : (x.hold now).pc = x.pc := rfl
@[simp] theorem Slot.hold_ir (x : Slot) (now : Nat) : (x.hold now).ir = x.ir := rfl
@[simp] theorem Slot.hold_status (x : Slot) (now : Nat) : (x.hold now).status = x.status := rfl
@[simp] theorem Slot.hold_trapc (x : Slot) (now : Nat) : (x.hold now).trapc = x.trapc := rfl
@[simp] theorem Slot.hold_trapv (x : Slot) (now : Nat) : (x.hold now).trapv = x.trapv := rfl
@[simp] theorem Slot.hold_fecfg (x : Slot) (now : Nat) : (x.hold now).fecfg = x.fecfg := rfl
@[simp] theorem Slot.hold_ce (x : Slot) (now : Nat) : (x.hold now).ce = x.ce := rfl
@[simp] theorem Slot.hold_de (x : Slot) (now : Nat) : (x.hold now).de = x.de := rfl
@[simp] theorem Slot.hold_snap (x : Slot) (now : Nat) : (x.hold now).snap = x.snap := rfl
@[simp] theorem Slot.hold_stepping (x : Slot) (now : Nat) : (x.hold now).stepping = x.stepping := rfl
@[simp] theorem Slot.hold_badReg (x : Slot) (now : Nat) : (x.hold now).badReg = x.badReg := rfl
@[simp] theorem Slot.hold_leaving (x : Slot) (now : Nat) : (x.hold now).leaving = x.leaving := rfl

end Sys2Proof.Machine
end

