-- ==== Sys2Proof/Laws/Keep.lean ====
section
/-!
SUPPORT. Sys2Proof/Laws/Keep.lean: the canonical form of every memory (State.memWf) is kept by each named update of a
context, a tile and the machine.
-/
namespace Sys2Proof.Machine

/-! ### Contexts -/

@[simp] theorem Ctx.setFull_spad (c : Ctx) (off : Nat) (b : Bool) : (c.setFull off b).spad = c.spad := rfl
@[simp] theorem Ctx.putWord_spad (c : Ctx) (off x : Nat) :
    (c.putWord off x).spad = Memory.writeN c.spad off (leBytes 8 x) := rfl
@[simp] theorem Ctx.unpaced_spad (c : Ctx) (n : Nat) : (c.unpaced n).spad = c.spad := rfl

/-- Only the scratchpad counts. -/
theorem Ctx.memWf_of_spad {c c' : Ctx} (h : c.memWf = true) (e : c'.spad = c.spad) : c'.memWf = true := by
  rw [Ctx.memWf, e]; exact h

theorem Ctx.memWf_setFull {c : Ctx} (h : c.memWf = true) (off : Nat) (b : Bool) : (c.setFull off b).memWf = true := h

theorem Ctx.memWf_putWord {c : Ctx} (h : c.memWf = true) (off x : Nat) : (c.putWord off x).memWf = true :=
  Memory.wf_writeN h off _

theorem Ctx.memWf_setState {c : Ctx} (h : c.memWf = true) (off st : Nat) : (c.setState off st).memWf = true :=
  Ctx.memWf_putWord h _ _

theorem Ctx.memWf_setHead {c : Ctx} (h : c.memWf = true) (off st : Nat) (pc : Word) : (c.setHead off st pc).memWf = true :=
  Ctx.memWf_putWord h _ _

theorem Ctx.memWf_setWait {c : Ctx} (h : c.memWf = true) (off k p : Nat) : (c.setWait off k p).memWf = true :=
  Ctx.memWf_putWord h _ _

theorem Ctx.memWf_setCarried {c : Ctx} (h : c.memWf = true) (off : Nat) (regs : List (Word × Bool)) :
    (c.setCarried off regs).memWf = true := by
  unfold Ctx.setCarried
  generalize (List.range 6).zip regs = l
  induction l generalizing c with
  | nil => exact h
  | cons e l ih => exact ih (Ctx.memWf_setFull (Ctx.memWf_putWord h _ _) _ _)

/-- The lists of ready and of waiting records are no memory. -/
theorem Ctx.memWf_ready {c : Ctx} (h : c.memWf = true) (r : List Ready) : ({ c with ready := r } : Ctx).memWf = true := h
theorem Ctx.memWf_waits {c : Ctx} (h : c.memWf = true) (w : List Wait) : ({ c with waits := w } : Ctx).memWf = true := h

/-! ### Tiles -/

/-- A tile with another context in canonical form. -/
theorem Tile.memWf_ctx {x : Tile} (h : x.memWf = true) {c : Ctx} (hc : c.memWf = true) :
    ({ x with ctx := c } : Tile).memWf = true := by
  simp_all [Tile.memWf]

theorem Tile.memWf_getCtx {x : Tile} (h : x.memWf = true) : x.ctx.memWf = true := by
  simp_all [Tile.memWf]

theorem Tile.memWf_reset : Tile.reset.memWf = true := rfl

/-- The parts of a tile that count. -/
theorem Tile.memWf_of {x y : Tile} (h : x.memWf = true) (e₁ : y.ctx.spad = x.ctx.spad) (e₂ : y.caskA = x.caskA)
    (e₃ : y.caskB = x.caskB) (e₄ : y.shadowA = x.shadowA) (e₅ : y.shadowB = x.shadowB) : y.memWf = true := by
  rw [Tile.memWf, Ctx.memWf, e₁, e₂, e₃, e₄, e₅]; exact h

theorem Tile.memWf_clocked {x : Tile} (h : x.memWf = true) (p : Bool) (t f : Nat) : (x.clocked p t f).memWf = true := by
  unfold Tile.clocked; split <;> exact h

/-! ### The machine -/

/-- The canonical form, part by part. -/
theorem State.memWf_iff (s : State) : s.memWf = true ↔
    Sparse.wf Tile.reset s.wafer.tiles = true ∧ Sparse.wf Die.reset s.wafer.dies = true ∧
    Memory.wf s.wafer.edge = true ∧ Memory.wf s.wafer.host = true ∧ s.tile.memWf = true ∧
    (∀ x ∈ s.wafer.tiles, x.2.memWf = true) ∧ ∀ y ∈ s.wafer.away, y.2.2.ctx.memWf = true := by
  simp [State.memWf, and_assoc]

theorem State.memWf_reset : State.reset.memWf = true := rfl

/-- Only the tile at hand and the wafer count. -/
theorem State.memWf_of {s s' : State} (h : s.memWf = true) (e₁ : s'.wafer = s.wafer) (e₂ : s'.tile = s.tile) :
    s'.memWf = true := by
  rw [State.memWf, e₁, e₂]; exact h

/-- The tile at hand replaced. -/
theorem State.memWf_tile {s : State} (h : s.memWf = true) {x : Tile} (hx : x.memWf = true) :
    ({ s with tile := x } : State).memWf = true := by
  rw [State.memWf_iff] at h ⊢; exact ⟨h.1, h.2.1, h.2.2.1, h.2.2.2.1, hx, h.2.2.2.2.2⟩

/-- Any tile of the machine. -/
theorem State.memWf_getTile {s : State} (h : s.memWf = true) (t : Nat) : (s.getTile t).memWf = true := by
  rw [State.memWf_iff] at h
  unfold State.getTile
  split
  · exact h.2.2.2.2.1
  · rcases Sparse.get_mem Tile.reset s.wafer.tiles t with e | e
    · rw [e]; exact Tile.memWf_reset
    · exact h.2.2.2.2.2.1 _ e

/-- The table of tiles with one replaced. -/
theorem State.memWf_tiles {s : State} (h : s.memWf = true) (t : Nat) {x : Tile} (hx : x.memWf = true) :
    ({ s with wafer := { s.wafer with tiles := Sparse.set Tile.reset s.wafer.tiles t x } } : State).memWf = true := by
  rw [State.memWf_iff] at h ⊢
  refine ⟨Sparse.wf_set _ h.1 t x, h.2.1, h.2.2.1, h.2.2.2.1, h.2.2.2.2.1, ?_, h.2.2.2.2.2.2⟩
  intro y hy
  rcases Sparse.mem_set _ hy with e | e
  · exact h.2.2.2.2.2.1 y e
  · rw [e.1]; exact hx

theorem State.memWf_setTile {s : State} (h : s.memWf = true) (t : Nat) {x : Tile} (hx : x.memWf = true) :
    (s.setTile t x).memWf = true := by
  unfold State.setTile; split
  · exact State.memWf_tile h hx
  · exact State.memWf_tiles h t hx

theorem State.memWf_onTile {s : State} (h : s.memWf = true) (t : Nat) {f : Tile → Tile}
    (hf : ∀ x, x.memWf = true → (f x).memWf = true) : (s.onTile t f).memWf = true :=
  State.memWf_setTile h t (hf _ (State.memWf_getTile h t))

theorem State.memWf_onCtx {s : State} (h : s.memWf = true) (t : Nat) {f : Ctx → Ctx}
    (hf : ∀ c, c.memWf = true → (f c).memWf = true) : (s.onCtx t f).memWf = true :=
  State.memWf_onTile h t fun _ hx => Tile.memWf_ctx hx (hf _ (Tile.memWf_getCtx hx))

/-- The slot at hand is no memory. -/
@[simp] theorem State.memWf_slot (s : State) (x : Slot) : ({ s with slot := x } : State).memWf = s.memWf := rfl
@[simp] theorem State.memWf_flights (s : State) (x : List Flight) : ({ s with flights := x } : State).memWf = s.memWf := rfl
@[simp] theorem State.memWf_agenda (s : State) (x : List Move) : ({ s with agenda := x } : State).memWf = s.memWf := rfl
@[simp] theorem State.memWf_arg (s : State) (x : EvArg) : ({ s with arg := x } : State).memWf = s.memWf := rfl
@[simp] theorem State.memWf_stamp (s : State) (x : Nat) : ({ s with stamp := x } : State).memWf = s.memWf := rfl
@[simp] theorem State.memWf_free (s : State) (x : Nat) : ({ s with free := x } : State).memWf = s.memWf := rfl
@[simp] theorem State.memWf_onCur (s : State) (f : Slot → Slot) : (s.onCur f).memWf = s.memWf := rfl
@[simp] theorem State.memWf_write (s : State) (r : Reg) (x : Word) : (s.write r x).memWf = s.memWf := rfl
@[simp] theorem State.memWf_send (s : State) (f : Flight) : (s.send f).memWf = s.memWf := rfl
@[simp] theorem State.memWf_setFlight (s : State) (n : Nat) (f : Flight) : (s.setFlight n f).memWf = s.memWf := rfl
@[simp] theorem State.memWf_dropFlight (s : State) (n : Nat) : (s.dropFlight n).memWf = s.memWf := rfl
@[simp] theorem State.memWf_later (s : State) (d : Dest) (c : Cls) (a : Bool) (v l : Nat) :
    (s.later d c a v l).memWf = s.memWf := rfl
@[simp] theorem State.memWf_report (s : State) (r : Report) : (s.report r).memWf = s.memWf := rfl
@[simp] theorem State.memWf_stepReport (s : State) (st c : Nat) : (s.stepReport st c).memWf = s.memWf := rfl
@[simp] theorem State.memWf_forgetMiss (s : State) (l : SlotLoc) : (s.forgetMiss l).memWf = s.memWf := rfl
@[simp] theorem State.memWf_putBack (s : State) : s.putBack.memWf = s.memWf := rfl
@[simp] theorem State.memWf_takeOut (s : State) : s.takeOut.memWf = s.memWf := rfl
@[simp] theorem State.memWf_taken (s : State) : s.taken.memWf = s.memWf := rfl
@[simp] theorem State.memWf_unpaceFlights (s : State) (t : Nat) : (s.unpaceFlights t).memWf = s.memWf := rfl

theorem State.memWf_setSlot {s : State} (h : s.memWf = true) (l : SlotLoc) (x : Slot) : (s.setSlot l x).memWf = true := by
  unfold State.setSlot; split
  · exact h
  · exact State.memWf_onCtx h _ fun _ hc => hc

theorem State.memWf_onSlot {s : State} (h : s.memWf = true) (l : SlotLoc) (f : Slot → Slot) :
    (s.onSlot l f).memWf = true := State.memWf_setSlot h l _

theorem State.memWf_focus {s : State} (h : s.memWf = true) (l : SlotLoc) : (s.focus l).memWf = true := by
  unfold State.focus
  split
  · exact h
  · split
    · exact h
    · have h₁ : s.putBack.memWf = true := h
      have h₂ := State.memWf_tiles h₁ s.cur.tile (x := s.putBack.tile) (((State.memWf_iff _).1 h₁).2.2.2.2.1)
      have h₃ := State.memWf_tiles h₂ l.tile (x := Tile.reset) Tile.memWf_reset
      have ht : (Sparse.get Tile.reset (Sparse.set Tile.reset s.putBack.wafer.tiles s.cur.tile s.putBack.tile) l.tile).memWf
          = true := by
        rcases Sparse.get_mem Tile.reset (Sparse.set Tile.reset s.putBack.wafer.tiles s.cur.tile s.putBack.tile) l.tile with e | e
        · rw [e]; exact Tile.memWf_reset
        · exact ((State.memWf_iff _).1 h₂).2.2.2.2.2.1 _ e
      exact State.memWf_tile h₃ ht

theorem State.memWf_onWhole {s : State} {f : State → State} (h : (f s.putBack).memWf = true) : (s.onWhole f).memWf = true := h

theorem State.memWf_onDie {s : State} (h : s.memWf = true) (d : Nat) (f : Die → Die) : (s.onDie d f).memWf = true := by
  rw [State.memWf_iff] at h ⊢
  exact ⟨h.1, Sparse.wf_set _ h.2.1 d _, h.2.2⟩

/-- A plot replaced is no memory. -/
@[simp] theorem State.memWf_setPlot (s : State) (p : Plot) : (s.setPlot p).memWf = s.memWf := rfl

theorem State.plot_mem {s : State} {n : Nat} {p : Plot} (h : s.plot n = some p) : p ∈ s.wafer.plots :=
  List.mem_of_find?_eq_some h

theorem State.own_mem {s : State} {p : Plot} (h : s.own = some p) : p ∈ s.wafer.plots := by
  unfold State.own at h
  obtain ⟨n, _, e⟩ := Option.bind_eq_some_iff.1 h
  exact State.plot_mem e

theorem State.plotOf_mem {s : State} {t : Nat} {p : Plot} (h : s.plotOf t = some p) : p ∈ s.wafer.plots := by
  unfold State.plotOf at h
  obtain ⟨n, _, e⟩ := Option.bind_eq_some_iff.1 h
  exact State.plot_mem e

@[simp] theorem Plot.put_casks (p : Plot) (h : Nat) (o : Obj) : (p.put h o).casks = p.casks := rfl

/-- Edge memory and host memory written. -/
theorem State.memWf_edge {s : State} (h : s.memWf = true) {m : Mem} (hm : Memory.wf m = true) :
    ({ s with wafer := { s.wafer with edge := m } } : State).memWf = true := by
  rw [State.memWf_iff] at h ⊢; exact ⟨h.1, h.2.1, hm, h.2.2.2⟩

theorem State.memWf_host {s : State} (h : s.memWf = true) {m : Mem} (hm : Memory.wf m = true) :
    ({ s with wafer := { s.wafer with host := m } } : State).memWf = true := by
  rw [State.memWf_iff] at h ⊢; exact ⟨h.1, h.2.1, h.2.2.1, hm, h.2.2.2.2⟩

theorem State.memWf_makeReady {s : State} (h : s.memWf = true) (t queue index off : Nat) :
    (s.makeReady t queue index off).memWf = true :=
  State.memWf_onCtx h t fun c hc =>
    Ctx.memWf_of_spad (c := (c.setState off 1).setWait off 0 0) (Ctx.memWf_setWait (Ctx.memWf_setState hc _ _) _ _ _) rfl

theorem State.memWf_setRecState {s : State} (h : s.memWf = true) (st : Nat) : (s.setRecState st).memWf = true :=
  State.memWf_tile h (Tile.memWf_ctx ((State.memWf_iff s).1 h).2.2.2.2.1
    (Ctx.memWf_setState (Tile.memWf_getCtx ((State.memWf_iff s).1 h).2.2.2.2.1) _ _))

/-! ### Traps and the end of an instruction -/

theorem State.memWf_sendTrapRecord {s : State} (h : s.memWf = true) (p : Plot) (l : TrapSrc) (r : Vector Word 8) :
    (s.sendTrapRecord p l r).memWf = true := State.memWf_onDie h _ _

theorem State.memWf_trapRecord {s : State} (h : s.memWf = true) (c : Nat) (v : Word) (i : Insn) :
    (s.trapRecord c v i).memWf = true := by
  unfold State.trapRecord; split
  · exact h
  · exact State.memWf_sendTrapRecord h _ _ _

theorem State.memWf_takeTrapWith {s : State} (h : s.memWf = true) (c : Cause) (v : Word) (i : Insn) (b : Bool) :
    (s.takeTrapWith c v i b).memWf = true := by
  unfold State.takeTrapWith
  generalize e : s.trapRecord c.code v i = u
  have h₁ : u.memWf = true := e ▸ State.memWf_trapRecord h c.code v i
  dsimp only
  split
  · rw [State.memWf_stepReport]; exact State.memWf_setRecState (by rw [State.memWf_slot]; exact h₁) 4
  · exact State.memWf_setRecState (by rw [State.memWf_slot]; exact h₁) 4

theorem State.memWf_takeTrap {s : State} (h : s.memWf = true) (c : Cause) (v : Word) : (s.takeTrap c v).memWf = true :=
  State.memWf_takeTrapWith h _ _ _ _

theorem State.memWf_pageFault {s : State} (h : s.memWf = true) (va : Word) (fetch : Bool) :
    (s.pageFault va fetch).memWf = true :=
  State.memWf_takeTrapWith h _ _ _ _

theorem State.memWf_resume {s : State} (h : s.memWf = true) : s.resume.memWf = true := by
  unfold State.resume
  generalize e : (s.setRecState 2).forgetMiss s.cur = u
  have h₁ : u.memWf = true := e ▸ State.memWf_setRecState h 2
  dsimp only
  split
  · exact h₁
  · exact h₁
  · exact h₁
  · exact State.memWf_pageFault (by rw [State.memWf_slot]; exact h₁) _ _

theorem State.memWf_unitTrap {s : State} (h : s.memWf = true) (t core slot owner : Nat) (n : TrapSrc) (c : Cause) (v : Word) :
    (s.unitTrap t core slot owner n c v).memWf = true := by
  unfold State.unitTrap; split
  · exact h
  · exact State.memWf_sendTrapRecord h _ _ _

theorem State.memWf_ended {s : State} (h : s.memWf = true) : s.ended.memWf = true := by
  unfold State.ended; split
  · dsimp only; rw [State.memWf_stepReport]; exact State.memWf_setRecState (by rw [State.memWf_slot]; exact h) 4
  · exact h

theorem State.memWf_goTo {s : State} (h : s.memWf = true) (pc : Word) (ls : List Loop) (lc : Vector Word 3) :
    (s.goTo pc ls lc).memWf = true := State.memWf_ended (s := { s with slot := _ }) h

theorem State.memWf_advance {s : State} (h : s.memWf = true) : s.advance.memWf = true := State.memWf_goTo h _ _ _

end Sys2Proof.Machine
end

