-- ==== Sys2Proof/Laws/KeepBank.lean ====
section
/-!
SUPPORT. Sys2Proof/Laws/KeepBank.lean: the canonical form of every memory is kept by reads, writes, full/empty
operations, folds, page-table writes, freezes of a tile and the turns of the scheduler.
-/
namespace Sys2Proof.Machine

/-! ### Raw stores -/

theorem State.memWf_storePlace {s : State} (h : s.memWf = true) (p : Place) (bs : List Byte) :
    (s.storePlace p bs).memWf = true := by
  have hh := (State.memWf_iff s).1 h
  unfold State.storePlace
  split
  · exact State.memWf_edge h (Memory.wf_writeN hh.2.2.1 _ _)
  · exact State.memWf_host h (Memory.wf_writeN hh.2.2.2.1 _ _)
  · exact State.memWf_onCtx h _ fun _ hc => Memory.wf_writeN hc _ _
  · refine State.memWf_onTile h _ fun x hx => ?_
    split
    · simp only [Tile.memWf, Bool.and_eq_true] at hx ⊢
      exact ⟨⟨⟨⟨hx.1.1.1.1, Memory.wf_writeN hx.1.1.1.2 _ _⟩, hx.1.1.2⟩, hx.1.2⟩, hx.2⟩
    · simp only [Tile.memWf, Bool.and_eq_true] at hx ⊢
      exact ⟨⟨⟨hx.1.1.1, Memory.wf_writeN hx.1.1.2 _ _⟩, hx.1.2⟩, hx.2⟩

theorem State.memWf_markUsed {s : State} (h : s.memWf = true) (at_ : Nat) (w : Bool) : (s.markUsed at_ w).memWf = true :=
  State.memWf_edge h (Memory.wf_writeN ((State.memWf_iff s).1 h).2.2.1 _ _)

/-- A fold over a list keeps what each of its steps keeps. -/
theorem State.memWf_foldl {α : Type} {f : State → α → State} (hf : ∀ s a, s.memWf = true → (f s a).memWf = true)
    (l : List α) {s : State} (h : s.memWf = true) : (l.foldl f s).memWf = true := by
  induction l generalizing s with
  | nil => exact h
  | cons a l ih => exact ih (hf s a h)

/-! ### Bad bytes and banks -/

@[simp] theorem State.memWf_markBad (s : State) (ps : List (Place × Nat)) : (s.markBad ps).memWf = s.memWf := rfl

@[simp] theorem State.memWf_rewritten (s : State) (p : Place) (n : Nat) : (s.rewritten p n).memWf = s.memWf := by
  unfold State.rewritten; split <;> rfl

theorem State.memWf_takeBank {s : State} (h : s.memWf = true) (l : Place) : (s.takeBank l).memWf = true := by
  unfold State.takeBank
  split
  · exact State.memWf_onTile h _ fun _ hx => hx
  · exact State.memWf_onTile h _ fun _ hx => hx
  · exact h

theorem State.memWf_takeBanks {s : State} (h : s.memWf = true) (ps : List (Place × Nat)) : (s.takeBanks ps).memWf = true :=
  State.memWf_foldl (fun _ l h => State.memWf_takeBank h l) _ h

/-! ### Full/empty words -/

theorem Ctx.memWf_meet {c : Ctx} (h : c.memWf = true) (w : Nat) : (c.meet w).memWf = true := h

@[simp] theorem State.memWf_serveWaita (s : State) (t w : Nat) : (s.serveWaita t w).memWf = s.memWf := rfl

theorem State.memWf_onSlots {s : State} (h : s.memWf = true) (t : Nat) (f : Slot → Slot) : (s.onSlots t f).memWf = true :=
  State.memWf_foldl (fun _ l h => State.memWf_onSlot h l f) _ h

theorem State.memWf_meetLeaving {s : State} (h : s.memWf = true) (t w : Nat) : (s.meetLeaving t w).memWf = true := by
  unfold State.meetLeaving; split
  · exact State.memWf_onSlots h t _
  · exact h

theorem State.memWf_wrote {s : State} (h : s.memWf = true) (t w : Nat) : (s.wrote t w).memWf = true := by
  rw [State.wrote, State.memWf_serveWaita]
  exact State.memWf_meetLeaving (State.memWf_onCtx h t fun _ hc => Ctx.memWf_meet hc w) t w

theorem State.memWf_applyFe {s : State} (h : s.memWf = true) (t w : Nat) (op : FeOp) (x : Word) :
    (s.applyFe t w op x).2.memWf = true := by
  cases op
  · exact h
  · exact State.memWf_wrote (State.memWf_onCtx h t fun _ hc => Ctx.memWf_setFull hc _ _) _ _
  · refine State.memWf_wrote ?_ _ _
    rw [State.memWf_rewritten]
    exact State.memWf_onCtx (State.memWf_storePlace h _ _) t fun _ hc => Ctx.memWf_setFull hc _ _
  · refine State.memWf_wrote ?_ _ _
    rw [State.memWf_rewritten]
    exact State.memWf_onCtx (State.memWf_storePlace h _ _) t fun _ hc => Ctx.memWf_setFull hc _ _
  · exact State.memWf_wrote (State.memWf_onCtx h t fun _ hc => Ctx.memWf_setFull hc _ _) _ _
  · exact h
  · exact h

theorem State.memWf_serveFe {s : State} (h : s.memWf = true) (n : Nat) (f : Flight) (t w : Nat) (op : FeOp) (x : Word) :
    (s.serveFe n f t w op x).memWf = true := by
  unfold State.serveFe
  split
  · rw [State.memWf_setFlight]; exact h
  · dsimp only
    rw [State.memWf_setFlight]
    split
    · exact State.memWf_onSlot (State.memWf_applyFe h _ _ _ _) _ _
    · exact State.memWf_onSlot (State.memWf_applyFe h _ _ _ _) _ _
    · exact State.memWf_applyFe h _ _ _ _

theorem State.memWf_scan (t w k : Nat) {s : State} (h : s.memWf = true) : (State.scan t w k s).memWf = true := by
  induction k generalizing s with
  | zero => exact h
  | succ k ih =>
    unfold State.scan
    split
    · exact h
    · split
      · exact h
      · split
        · exact ih (State.memWf_serveFe h _ _ _ _ _ _)
        · exact h

theorem State.memWf_wroteScan {s : State} (h : s.memWf = true) (t w : Nat) : (s.wroteScan t w).memWf = true :=
  State.memWf_scan t w _ (State.memWf_wrote h t w)

/-! ### Reductions -/

theorem State.memWf_foldEntry {s : State} (h : s.memWf = true) (t : Nat) (e : RedEntry) : (s.foldEntry t e).memWf = true := by
  have h₁ := State.memWf_onCtx h t (f := fun c => { c with red := c.red.filter fun x => x != e }) fun _ hc => hc
  unfold State.foldEntry
  dsimp only
  split
  · exact h₁
  · exact State.memWf_wroteScan (State.memWf_onCtx (State.memWf_storePlace h₁ _ _) t fun _ hc => Ctx.memWf_setFull hc _ _) _ _

theorem State.memWf_foldAll {s : State} (h : s.memWf = true) (t : Nat) (es : List RedEntry) :
    (s.foldAll t es).memWf = true := State.memWf_foldl (fun _ e h => State.memWf_foldEntry h t e) es h

theorem State.memWf_foldTouched {s : State} (h : s.memWf = true) (t off n : Nat) : (s.foldTouched t off n).memWf = true :=
  State.memWf_foldAll h t _

theorem State.memWf_contribute {s : State} (h : s.memWf = true) (t core : Nat) (op : RedOp) (ty : AmoTy) (off x : Nat) :
    (s.contribute t core op ty off x).memWf = true := by
  unfold State.contribute
  dsimp only
  split
  · exact State.memWf_onCtx (State.memWf_foldAll h t _) t fun _ hc => hc
  · split
    · exact State.memWf_onCtx (State.memWf_foldAll (State.memWf_foldAll h t _) t _) t fun _ hc => hc
    · exact State.memWf_onCtx (State.memWf_foldAll h t _) t fun _ hc => hc

/-! ### Reads and writes as agents make them -/

theorem State.memWf_readAt {s : State} (h : s.memWf = true) (p : Place) (n : Nat) : (s.readAt p n).2.memWf = true := by
  unfold State.readAt
  split
  · exact State.memWf_foldTouched h _ _ _
  · exact h

theorem State.memWf_writeAt {s : State} (h : s.memWf = true) (p : Place) (bs : List Byte) :
    (s.writeAt p bs).memWf = true := by
  unfold State.writeAt
  split
  · exact State.memWf_foldl (fun s w h => State.memWf_wroteScan (State.memWf_onCtx h _ fun _ hc => Ctx.memWf_setFull hc _ _) _ _)
      _ (by rw [State.memWf_rewritten]; exact State.memWf_storePlace (State.memWf_foldTouched h _ _ _) _ _)
  · rw [State.memWf_rewritten]; exact State.memWf_storePlace h _ _

theorem State.memWf_serveLines (ls : List Place) {s : State} (h : s.memWf = true) : (s.serveLines ls).2.memWf = true := by
  induction ls generalizing s with
  | nil => exact h
  | cons l ls ih =>
    unfold State.serveLines
    split
    · exact ih (State.memWf_takeBank h l)
    · exact ih h

theorem State.memWf_loadPieces (l : Option SlotLoc) (ps : List (Place × Nat)) {s : State} (h : s.memWf = true) :
    (s.loadPieces l ps).2.memWf = true := by
  induction ps generalizing s with
  | nil => exact h
  | cons a ps ih =>
    obtain ⟨p, n⟩ := a
    cases l with
    | none => exact ih (State.memWf_readAt h p n)
    | some l => exact ih (State.memWf_onSlot (State.memWf_readAt h p n) l _)

theorem State.memWf_storeAll (l : Option SlotLoc) (ps : List (Place × List Byte)) {s : State} (h : s.memWf = true) :
    (s.storeAll l ps).memWf = true := by
  induction ps generalizing s with
  | nil => exact h
  | cons a ps ih =>
    obtain ⟨p, bs⟩ := a
    cases l with
    | none => exact ih (State.memWf_writeAt h p bs)
    | some l => exact ih (State.memWf_onSlot (State.memWf_writeAt h p bs) l _)

/-! ### Other slots, and turns -/

/-- An operation made with another slot at hand. -/
theorem State.memWf_at {s : State} (h : s.memWf = true) (l : SlotLoc) {f : State → State}
    (hf : ∀ s, s.memWf = true → (f s).memWf = true) : (s.at l f).memWf = true :=
  State.memWf_focus (hf _ (State.memWf_focus h l)) _

theorem State.memWf_liftBias {s : State} (h : s.memWf = true) (t n : Nat) : (s.liftBias t n).memWf = true := by
  unfold State.liftBias; split
  · exact h
  · exact State.memWf_onTile (State.memWf_onSlot h _ _) t fun _ hx => hx

theorem State.memWf_tick {s : State} (h : s.memWf = true) : s.tick.memWf = true := by
  unfold State.tick
  dsimp only
  refine State.memWf_foldl (fun s t h => ?_) s.clocks h
  split
  · exact h
  · exact State.memWf_onTile (State.memWf_liftBias h t _) t fun _ hx => hx

theorem State.memWf_takeTurn {s : State} (h : s.memWf = true) (l : SlotLoc) : (s.takeTurn l).memWf = true :=
  State.memWf_focus h l

theorem State.memWf_endTurn {s : State} (h : s.memWf = true) (l : SlotLoc) : (State.endTurn l s).memWf = true := by
  unfold State.endTurn
  split
  · exact h
  · exact State.memWf_onCtx h _ fun _ hc => hc

end Sys2Proof.Machine
end

