-- ==== Sys2Proof/Laws/Ops.lean ====
section
/-!
SUPPORT. Sys2Proof/Laws/Ops.lean: one lemma for each shared operation of the meanings, which says once everything the
operation can answer; and, for any property of outcomes, that it holds of the operation when it holds of its parts.
-/
namespace Sys2Proof.Machine

/-! ### Outcomes -/

/-- An outcome is a next state that has a property. -/
def Out.Gives (P : State → Prop) (o : Out) : Prop := ∃ t, o = .next t ∧ P t

theorem Out.gives_next {P : State → Prop} {t : State} (h : P t) : Out.Gives P (.next t) := ⟨t, rfl, h⟩

theorem Out.gives_mono {P Q : State → Prop} {o : Out} (h : Out.Gives P o) (pq : ∀ t, P t → Q t) : Out.Gives Q o :=
  h.imp fun t ht => ⟨ht.1, pq t ht.2⟩

/-- What a given outcome says of the next state. -/
theorem Out.gives_elim {P : State → Prop} {o : Out} (h : Out.Gives P o) {t : State} (e : o = .next t) : P t := by
  obtain ⟨u, eu, hu⟩ := h
  rw [e] at eu
  cases eu
  exact hu

/-! ### The end of an instruction -/

@[simp] theorem trap_eq (c : Cause) (v : Word) (s : State) : trap c v s = .next (s.takeTrap c v) := rfl
@[simp] theorem done_eq (s : State) : done s = .next s.advance := rfl
@[simp] theorem writeDone_eq (d : Reg) (x : Word) (s : State) : writeDone d x s = .next (s.write d x).advance := rfl
@[simp] theorem stalled_eq (s : State) :
    stalled s = .next { s with slot := { s.slot.hold s.now with stallFrom := none } } := rfl

/-- A pass that is not at the end of any body goes on at the next address. -/
theorem passEnd_next {pc : Word} {ls : List Loop} {lc : Vector Word 3} (h : ∀ l, ls.head? = some l → l.last ≠ pc) :
    passEnd pc ls lc = (pc + 4, ls, lc) := by
  cases ls with
  | nil => rfl
  | cons l r => rw [passEnd, if_neg (h l rfl)]

/-- A pass at the end of a body that is to run again goes to the body's first address. -/
theorem passEnd_again {pc : Word} {l : Loop} {r : List Loop} {lc : Vector Word 3} (h : l.last = pc)
    (c : vget lc l.ctr 0 - 1 ≠ 0) : passEnd pc (l :: r) lc = (l.first, l :: r, vset lc l.ctr (vget lc l.ctr 0 - 1)) := by
  rw [passEnd, if_pos h]
  simp only
  rw [if_pos c]

/-- A pass at the end of a body's last run pops the level and looks at the next one. -/
theorem passEnd_last {pc : Word} {l : Loop} {r : List Loop} {lc : Vector Word 3} (h : l.last = pc)
    (c : vget lc l.ctr 0 - 1 = 0) : passEnd pc (l :: r) lc = passEnd pc r (vset lc l.ctr (vget lc l.ctr 0 - 1)) := by
  rw [passEnd, if_pos h]
  simp only
  rw [if_neg fun e => e c]

/-- Outside a step of the cellar an instruction that completes changes its slot only. -/
theorem State.goTo_eq {s : State} (h : s.slot.stepping = false) (pc : Word) (ls : List Loop) (lc : Vector Word 3) :
    s.goTo pc ls lc = { s with slot := { s.slot with
      pc := pc, loops := ls, lc := lc, stallFrom := none, skipBp := false, bwait := none, mwait := none, idleTo := none,
      leaving := none, waitFrom := none, xl := [], buf := bufOf ls s.slot.buf } } := by
  unfold State.goTo State.ended
  simp [h]

theorem State.advance_eq (s : State) : s.advance =
    s.goTo (passEnd s.slot.pc s.slot.loops s.slot.lc).1 (passEnd s.slot.pc s.slot.loops s.slot.lc).2.1
      (passEnd s.slot.pc s.slot.loops s.slot.lc).2.2 := rfl

/-! ### Reading sources and claiming destinations -/

/-- An instruction held up by none of its registers goes on. -/
theorem gate_ready {s : State} {srcs : List Src} {dests : List Dest} (h : s.ready srcs dests = true) (k : State → Out) :
    gate srcs dests k s = k s := by
  simp only [State.ready, Bool.and_eq_true, List.all_eq_true, Bool.not_eq_true', Option.isNone_iff_eq_none] at h
  obtain ⟨⟨hs, hf⟩, hd⟩ := h
  have e₁ : srcs.find? s.slot.srcTraps = none := by
    rw [List.find?_eq_none]
    intro a ha
    have := (hs a ha).1
    cases a <;> simp_all [Slot.srcEmpty, Slot.srcTraps]
  have e₂ : s.slot.lowestEmpty srcs = none := by
    have : srcs.filter s.slot.srcEmpty = [] := by
      rw [List.filter_eq_nil_iff]; intro a ha; simp [(hs a ha).1]
    simp [Slot.lowestEmpty, this]
  have e₃ : dests.any (fun d => s.producing d) = false := by
    rw [List.any_eq_false]; intro d h'; simp [hd d h']
  have e₄ : srcs.any (fun a => !s.slot.srcReady s.now a) = false := by
    rw [List.any_eq_false]; intro a ha; simp [(hs a ha).2]
  unfold gate
  rw [hf]
  simp only
  rw [e₁]
  simp only
  rw [e₂]
  simp [e₃, e₄]

/-- Everything that reading sources and claiming destinations can answer. -/
theorem gate_cases (srcs : List Src) (dests : List Dest) (k : State → Out) (s : State) :
    (∃ v, gate srcs dests k s = trap .emptyRead v s) ∨
    (∃ r v, gate srcs dests k s = trap .ecc v { s with slot := s.slot.told r }) ∨
    (∃ r, gate srcs dests k s = stalledEmpty r s) ∨ gate srcs dests k s = stalled s ∨ gate srcs dests k s = k s := by
  unfold gate
  split
  · exact .inr (.inl ⟨_, _, rfl⟩)
  · split
    · exact .inl ⟨_, rfl⟩
    · split
      · exact .inr (.inr (.inl ⟨_, rfl⟩))
      · split
        · exact .inr (.inr (.inr (.inl rfl)))
        · exact .inr (.inr (.inr (.inr rfl)))

/-- An empty source with w = 1 traps, the first in the order given, where no register of the instruction failed. -/
theorem gate_empty {s : State} {srcs : List Src} {a : Src} (h : srcs.find? s.slot.srcTraps = some a) {dests : List Dest}
    (hf : s.slot.failedReg (srcs.map Src.dest ++ dests) = none) (k : State → Out) :
    gate srcs dests k s = trap .emptyRead (BitVec.ofNat 64 a.dest.num) s := by
  unfold gate; rw [hf]; simp only; rw [h]

/-- A register that a load left bad traps at the first instruction that names it, and is told of once. -/
theorem gate_failed {s : State} {srcs : List Src} {dests : List Dest} {r : Nat} {a : Word}
    (h : s.slot.failedReg (srcs.map Src.dest ++ dests) = some (r, a)) (k : State → Out) :
    gate srcs dests k s = trap .ecc a { s with slot := s.slot.told r } := by
  unfold gate; rw [h]

/-- A property of outcomes holds of a gated instruction if it holds of its traps, its stalls and its body. -/
theorem gate_gives {P : State → Prop} {srcs : List Src} {dests : List Dest} {k : State → Out} {s : State}
    (ht : ∀ c v, P (s.takeTrap c v)) (hb : ∀ r c v, P (({ s with slot := s.slot.told r } : State).takeTrap c v))
    (he : ∀ r, Out.Gives P (stalledEmpty r s)) (hs : Out.Gives P (stalled s))
    (hk : Out.Gives P (k s)) : Out.Gives P (gate srcs dests k s) := by
  rcases gate_cases srcs dests k s with ⟨v, e⟩ | ⟨r, v, e⟩ | ⟨r, e⟩ | e | e <;> rw [e]
  · exact Out.gives_next (ht _ _)
  · exact Out.gives_next (hb _ _ _)
  · exact he r
  · exact hs
  · exact hk

/-! ### Access classes, pointers, places, handles, targets -/

theorem classed_free {s : State} (h : s.acquiring = false) (k : State → Out) : classed k s = k s := by
  simp [classed, h]

theorem classed_cases (k : State → Out) (s : State) : classed k s = stalled s ∨ classed k s = k s := by
  unfold classed; split
  · exact .inl rfl
  · exact .inr rfl

theorem classed_gives {P : State → Prop} {k : State → Out} {s : State} (hs : Out.Gives P (stalled s))
    (hk : Out.Gives P (k s)) : Out.Gives P (classed k s) := by
  rcases classed_cases k s with e | e <;> rw [e] <;> assumption

/-- An instruction of an access class held up by nothing goes on. -/
theorem gateC_ready {s : State} {srcs : List Src} {dests : List Dest} (a : s.acquiring = false)
    (h : s.ready srcs dests = true) (k : State → Out) : gateC srcs dests k s = k s := by
  rw [gateC, classed_free a, gate_ready h]

/-- The first cause that a pointer raises: each step of the checks in its order (spec/06 R93). -/
theorem State.ptrCause_cases (s : State) (p : Word) (n align : Nat) (fe : Bool) :
    (s.ptrCause p n align fe = some .windowRange ∧
      (wellFormed s.tiles p n = false ∨ (fe = true ∧ (win p = 0x0 ∨ win p = 0xB)))) ∨
    (s.ptrCause p n align fe = some .foreignWindow ∧ wellFormed s.tiles p n = true ∧ s.foreign p = true) ∨
    (s.ptrCause p n align fe = some .misaligned ∧ wellFormed s.tiles p n = true ∧ s.foreign p = false ∧
      p.toNat % align ≠ 0) ∨
    (s.ptrCause p n align fe = none ∧ wellFormed s.tiles p n = true ∧ s.foreign p = false ∧ p.toNat % align = 0) := by
  unfold State.ptrCause
  split
  · next h => exact .inl ⟨rfl, by simpa using h⟩
  · next h =>
    have w : wellFormed s.tiles p n = true := by
      cases e : wellFormed s.tiles p n
      · simp [e] at h
      · rfl
    split
    · next h' => exact .inr (.inl ⟨rfl, w, h'⟩)
    · next h' =>
      have f : s.foreign p = false := by simpa using h'
      split
      · next h'' => exact .inr (.inr (.inl ⟨rfl, w, f, h''⟩))
      · next h'' => exact .inr (.inr (.inr ⟨rfl, w, f, by simpa using h''⟩))

theorem checkPtr_ok {s : State} {p : Word} {n align : Nat} {fe : Bool} (h : s.ptrCause p n align fe = none)
    (k : State → Out) : checkPtr p n align fe k s = k s := by
  unfold checkPtr; rw [h]

theorem checkPtr_cases (p : Word) (n align : Nat) (fe : Bool) (k : State → Out) (s : State) :
    (∃ c, s.ptrCause p n align fe = some c ∧ checkPtr p n align fe k s = trap c p s) ∨
    (s.ptrCause p n align fe = none ∧ checkPtr p n align fe k s = k s) := by
  unfold checkPtr; split
  · next c h => exact .inl ⟨c, h, rfl⟩
  · next h => exact .inr ⟨h, rfl⟩

theorem checkPtr_gives {P : State → Prop} {p : Word} {n align : Nat} {fe : Bool} {k : State → Out} {s : State}
    (ht : ∀ c v, P (s.takeTrap c v)) (hk : Out.Gives P (k s)) : Out.Gives P (checkPtr p n align fe k s) := by
  rcases checkPtr_cases p n align fe k s with ⟨c, _, e⟩ | ⟨_, e⟩ <;> rw [e]
  · exact Out.gives_next (ht _ _)
  · exact hk

/-- Everything that the access checks can answer (spec/03 R54). -/
theorem access_cases (nd : Need) (ps : List (Word × Nat)) (k : List (Place × Nat) → State → Out) (s : State) :
    (∃ c p, s.placed nd ps = .trap c p ∧ access nd ps k s = trap c p s) ∨
    (∃ va, s.placed nd ps = .miss va ∧
      access nd ps k s = stalled (s.miss s.cur.tile (.slot s.cur.core s.cur.slot) va nd.use)) ∨
    (∃ p, s.watched ps nd.rd nd.wr = some p ∧ access nd ps k s = .next (s.takeTrapWith .breakpoint p s.slot.ir true)) ∨
    access nd ps k s = stalled s ∨ (∃ qs, s.placed nd ps = .ok qs ∧ access nd ps k s = k qs s) := by
  unfold access
  split
  · next c p h => exact .inl ⟨c, p, h, rfl⟩
  · next va h => exact .inr (.inl ⟨va, h, rfl⟩)
  · next qs h =>
    split
    · next p h' => exact .inr (.inr (.inl ⟨p, h', rfl⟩))
    · split
      · exact .inr (.inr (.inr (.inl rfl)))
      · exact .inr (.inr (.inr (.inr ⟨qs, h, rfl⟩)))

/-- An access whose places are found, that no watchpoint meets and no lease of its own core holds off, goes on. -/
theorem access_ok {nd : Need} {ps : List (Word × Nat)} {s : State} {qs : List (Place × Nat)} (h : s.placed nd ps = .ok qs)
    (w : s.watched ps nd.rd nd.wr = none)
    (l : nd.store = false ∨ s.ownLease qs = false)
    (k : List (Place × Nat) → State → Out) : access nd ps k s = k qs s := by
  unfold access
  rw [h]
  simp only
  rw [w]
  simp only
  rw [if_neg]
  rintro ⟨hs, ha⟩
  rcases l with l | l <;> simp_all

@[simp] theorem State.miss_slot (s : State) (t : Nat) (w : XWho) (va : Nat) (u : XUse) : (s.miss t w va u).slot = s.slot := by
  unfold State.miss; split <;> rfl
@[simp] theorem State.miss_tile (s : State) (t : Nat) (w : XWho) (va : Nat) (u : XUse) : (s.miss t w va u).tile = s.tile := by
  unfold State.miss; split <;> rfl
@[simp] theorem State.miss_cur (s : State) (t : Nat) (w : XWho) (va : Nat) (u : XUse) : (s.miss t w va u).cur = s.cur := by
  unfold State.miss; split <;> rfl
@[simp] theorem State.miss_flights (s : State) (t : Nat) (w : XWho) (va : Nat) (u : XUse) :
    (s.miss t w va u).flights = s.flights := by
  unfold State.miss; split <;> rfl
@[simp] theorem State.memWf_miss (s : State) (t : Nat) (w : XWho) (va : Nat) (u : XUse) :
    (s.miss t w va u).memWf = s.memWf := by
  unfold State.miss; split <;> rfl

theorem access_gives {P : State → Prop} {nd : Need} {ps : List (Word × Nat)} {k : List (Place × Nat) → State → Out}
    {s : State} (ht : ∀ c v i b, P (s.takeTrapWith c v i b))
    (hm : ∀ va, Out.Gives P (stalled (s.miss s.cur.tile (.slot s.cur.core s.cur.slot) va nd.use)))
    (hs : Out.Gives P (stalled s)) (hk : ∀ qs, Out.Gives P (k qs s)) : Out.Gives P (access nd ps k s) := by
  rcases access_cases nd ps k s with ⟨c, p, _, e⟩ | ⟨va, _, e⟩ | ⟨p, _, e⟩ | e | ⟨qs, _, e⟩ <;> rw [e]
  · exact Out.gives_next (ht _ _ _ _)
  · exact hm va
  · exact Out.gives_next (ht _ _ _ _)
  · exact hs
  · exact hk qs

theorem withObj_cases {α : Type} (h : Nat) (want : Obj → Option α) (k : α → State → Out) (s : State) :
    (∃ a, (s.own.bind fun p => p.find h).bind want = some a ∧ withObj h want k s = k a s) ∨
    withObj h want k s = trap .staleHandle (BitVec.ofNat 64 h) s := by
  unfold withObj; split
  · next a e => exact .inl ⟨a, e, rfl⟩
  · exact .inr rfl

theorem withObj_gives {α : Type} {P : State → Prop} {h : Nat} {want : Obj → Option α} {k : α → State → Out} {s : State}
    (ht : ∀ c v, P (s.takeTrap c v)) (hk : ∀ a, Out.Gives P (k a s)) : Out.Gives P (withObj h want k s) := by
  rcases withObj_cases h want k s with ⟨a, _, e⟩ | e <;> rw [e]
  · exact hk a
  · exact Out.gives_next (ht _ _)

/-! ### Outcomes that keep the canonical form -/

/-- An outcome goes on with every memory in canonical form. -/
abbrev Out.Kept (o : Out) : Prop := Out.Gives (fun t => t.memWf = true) o

theorem Out.kept_trap {s : State} (h : s.memWf = true) (c : Cause) (v : Word) : Out.Kept (trap c v s) :=
  Out.gives_next (State.memWf_takeTrap h c v)

theorem Out.kept_done {s : State} (h : s.memWf = true) : Out.Kept (done s) := Out.gives_next (State.memWf_advance h)

theorem Out.kept_writeDone {s : State} (h : s.memWf = true) (d : Reg) (x : Word) : Out.Kept (writeDone d x s) :=
  Out.kept_done (by rw [State.memWf_write]; exact h)

theorem Out.kept_writeAfter {s : State} (h : s.memWf = true) (n : Nat) (d : Reg) (x : Word) : Out.Kept (writeAfter n d x s) :=
  Out.kept_done (by rw [State.memWf_slot]; exact h)

theorem Out.kept_stalled {s : State} (h : s.memWf = true) : Out.Kept (stalled s) := Out.gives_next h

theorem Out.kept_stalledEmpty {s : State} (h : s.memWf = true) (r : Nat) : Out.Kept (stalledEmpty r s) := Out.gives_next h

theorem Out.kept_waiting {s : State} (h : s.memWf = true) : Out.Kept (waiting s) := Out.gives_next h

theorem Out.kept_gate {srcs : List Src} {dests : List Dest} {k : State → Out} {s : State} (h : s.memWf = true)
    (hk : Out.Kept (k s)) : Out.Kept (gate srcs dests k s) :=
  gate_gives (fun _ _ => State.memWf_takeTrap h _ _)
    (fun _ _ _ => State.memWf_takeTrap (by rw [State.memWf_slot]; exact h) _ _) (Out.kept_stalledEmpty h) (Out.kept_stalled h) hk

theorem Out.kept_classed {k : State → Out} {s : State} (h : s.memWf = true) (hk : Out.Kept (k s)) :
    Out.Kept (classed k s) := classed_gives (Out.kept_stalled h) hk

theorem Out.kept_gateC {srcs : List Src} {dests : List Dest} {k : State → Out} {s : State} (h : s.memWf = true)
    (hk : Out.Kept (k s)) : Out.Kept (gateC srcs dests k s) := Out.kept_classed h (Out.kept_gate h hk)

theorem Out.kept_checkPtr {p : Word} {n align : Nat} {fe : Bool} {k : State → Out} {s : State} (h : s.memWf = true)
    (hk : Out.Kept (k s)) : Out.Kept (checkPtr p n align fe k s) :=
  checkPtr_gives (fun _ _ => State.memWf_takeTrap h _ _) hk

theorem Out.kept_access {nd : Need} {ps : List (Word × Nat)} {k : List (Place × Nat) → State → Out} {s : State}
    (h : s.memWf = true) (hk : ∀ qs, Out.Kept (k qs s)) : Out.Kept (access nd ps k s) :=
  access_gives (fun _ _ _ _ => State.memWf_takeTrapWith h _ _ _ _)
    (fun _ => Out.kept_stalled (by rw [State.memWf_miss]; exact h)) (Out.kept_stalled h) hk

theorem Out.kept_withObj {α : Type} {n : Nat} {want : Obj → Option α} {k : α → State → Out} {s : State}
    (h : s.memWf = true) (hk : ∀ a, Out.Kept (k a s)) : Out.Kept (withObj n want k s) :=
  withObj_gives (fun _ _ => State.memWf_takeTrap h _ _) hk

end Sys2Proof.Machine
end

