-- ==== Sys2Proof/Laws/Forms.lean ====
section
/-!
SUPPORT. Sys2Proof/Laws/Forms.lean: the shared forms of the families: what each one checks before its body, that it
goes on where its checks pass, and that it goes on with every memory in canonical form where its body does.
-/
namespace Sys2Proof.Machine

/-! ### Transfers and loops (spec/04 R72, R77) -/

/-- A target inside the address field and aligned is taken. -/
theorem transfer_ok {target : Word} (h₁ : bits target 63 57 = 0) (h₂ : target.toNat % 4 = 0) (k : State → Out) (s : State) :
    transfer target k s = k s := by
  simp [transfer, h₁, h₂]

theorem transfer_cases (target : Word) (k : State → Out) (s : State) :
    (bits target 63 57 ≠ 0 ∧ transfer target k s = trap .windowRange target s) ∨
    (bits target 63 57 = 0 ∧ target.toNat % 4 ≠ 0 ∧ transfer target k s = trap .misaligned target s) ∨
    (bits target 63 57 = 0 ∧ target.toNat % 4 = 0 ∧ transfer target k s = k s) := by
  unfold transfer
  split
  · next h => exact .inl ⟨h, rfl⟩
  · next h =>
    split
    · next h' => exact .inr (.inl ⟨by simpa using h, h', rfl⟩)
    · next h' => exact .inr (.inr ⟨by simpa using h, by simpa using h', rfl⟩)

theorem Out.kept_transfer {target : Word} {k : State → Out} {s : State} (h : s.memWf = true) (hk : Out.Kept (k s)) :
    Out.Kept (transfer target k s) := by
  rcases transfer_cases target k s with ⟨_, e⟩ | ⟨_, _, e⟩ | ⟨_, _, e⟩ <;> rw [e]
  · exact Out.kept_trap h _ _
  · exact Out.kept_trap h _ _
  · exact hk

theorem Out.kept_jumpTo {s : State} (h : s.memWf = true) (target : Word) : Out.Kept (jumpTo target s) :=
  Out.kept_transfer h (Out.gives_next (by rw [State.memWf_taken]; exact State.memWf_goTo h _ _ _))

theorem Out.kept_loopChecks {lvl : BitVec 2} {len : BitVec 9} {k : State → Out} {s : State} (h : s.memWf = true)
    (hk : Out.Kept (k s)) : Out.Kept (loopChecks lvl len k s) := by
  unfold loopChecks
  dsimp only
  split
  · exact Out.kept_trap h _ _
  · split
    · exact Out.kept_trap h _ _
    · exact hk

/-! ### Leaving the slot (spec/02 R33) -/

theorem State.memWf_writeBack {s : State} (h : s.memWf = true) (v : Leaving) (pc : Word) :
    (s.writeBack v pc).memWf = true := by
  have hx := ((State.memWf_iff s).1 h).2.2.2.2.1
  unfold State.writeBack
  dsimp only
  refine State.memWf_tile h (Tile.memWf_ctx hx ?_)
  have hc := Ctx.memWf_setCarried (Ctx.memWf_setWait (Ctx.memWf_setHead (Tile.memWf_getCtx hx) s.slot.run.off v.st pc)
    s.slot.run.off v.kind v.param) s.slot.run.off s.slot.carried
  split
  · exact Ctx.memWf_ready hc _
  · split
    · exact Ctx.memWf_waits hc _
    · exact hc

@[simp] theorem State.memWf_dropLate (s : State) : s.dropLate.memWf = s.memWf := rfl
@[simp] theorem State.memWf_freeSlot (s : State) : s.freeSlot.memWf = s.memWf := rfl

/-- Everything that the drain of a slot can answer. -/
theorem drainSlot_cases (v : Leaving) (s : State) :
    (∃ r a, drainSlot v s = trap .ecc a { s with slot := s.slot.told r } ∨
      drainSlot v s = trap .ecc a { s with slot := { s.slot with badWrite := none } }) ∨
    drainSlot v s = stalled { s with slot := { s.slot with leaving := some v } } ∨
    (s.draining = false ∧ s.outstanding fenceAll = false ∧
      drainSlot v s =
        let pc := if v.st = 5 then s.slot.pc else s.slot.pc + 4
        let t := ((s.writeBack v pc).dropLate).freeSlot
        .next (if s.slot.stepping then t.report (stepWords pc v.st 0) else t)) := by
  unfold drainSlot
  split
  · exact .inl ⟨_, _, .inl rfl⟩
  · exact .inl ⟨0, _, .inr rfl⟩
  · split
    · exact .inr (.inl rfl)
    · next h =>
      simp only [Bool.or_eq_true, not_or, Bool.not_eq_true] at h
      exact .inr (.inr ⟨h.1, h.2, rfl⟩)

theorem Out.kept_drainSlot {s : State} (h : s.memWf = true) (v : Leaving) : Out.Kept (drainSlot v s) := by
  have hw := fun pc => State.memWf_writeBack h v pc
  rcases drainSlot_cases v s with ⟨r, a, e | e⟩ | e | ⟨_, _, e⟩ <;> rw [e]
  · exact Out.kept_trap (by rw [State.memWf_slot]; exact h) _ _
  · exact Out.kept_trap (by rw [State.memWf_slot]; exact h) _ _
  · exact Out.kept_stalled (by rw [State.memWf_slot]; exact h)
  · dsimp only
    split
    · exact Out.gives_next (by rw [State.memWf_report, State.memWf_freeSlot, State.memWf_dropLate]; exact hw _)
    · exact Out.gives_next (by rw [State.memWf_freeSlot, State.memWf_dropLate]; exact hw _)

/-- A slot that is in a loop traps where it would leave; else it drains. -/
theorem leaveSlot_cases (st kind param : Nat) (s : State) :
    (s.slot.loops ≠ [] ∧ leaveSlot st kind param s = trap .loopSuspend 0 s) ∨
    (s.slot.loops = [] ∧ leaveSlot st kind param s = drainSlot ⟨st, kind, param, false⟩ s) := by
  unfold leaveSlot
  split
  · next h => exact .inl ⟨h, rfl⟩
  · next h => exact .inr ⟨by simpa using h, rfl⟩

theorem Out.kept_leaveSlot {s : State} (h : s.memWf = true) (st kind param : Nat) : Out.Kept (leaveSlot st kind param s) := by
  rcases leaveSlot_cases st kind param s with ⟨_, e⟩ | ⟨_, e⟩ <;> rw [e]
  · exact Out.kept_trap h _ _
  · exact Out.kept_drainSlot h _

theorem orLeave_none {s : State} (h : s.slot.leaving = none) (k : State → Out) : orLeave k s = k s := by
  unfold orLeave; rw [h]

theorem orLeave_some {s : State} {v : Leaving} (h : s.slot.leaving = some v) (k : State → Out) :
    orLeave k s = drainSlot v s := by
  unfold orLeave; rw [h]

theorem Out.kept_orLeave {k : State → Out} {s : State} (h : s.memWf = true) (hk : Out.Kept (k s)) : Out.Kept (orLeave k s) := by
  unfold orLeave
  split
  · exact Out.kept_drainSlot h _
  · exact hk

theorem Out.kept_checkOwn {x : Word} {k : State → Out} {s : State} (h : s.memWf = true) (hk : Out.Kept (k s)) :
    Out.Kept (checkOwn x k s) := by
  unfold checkOwn
  split
  · exact Out.kept_trap h _ _
  · split
    · exact Out.kept_trap h _ _
    · split
      · exact Out.kept_trap h _ _
      · exact hk

theorem Out.kept_withBarrier {n : Nat} {ok : Barrier → Bool} {k : Barrier → State → Out} {s : State} (h : s.memWf = true)
    (hk : ∀ b, Out.Kept (k b s)) : Out.Kept (withBarrier n ok k s) := Out.kept_withObj h hk

theorem Out.kept_withVintage {n : Nat} {k : Vintage → State → Out} {s : State} (h : s.memWf = true)
    (hk : ∀ b, Out.Kept (k b s)) : Out.Kept (withVintage n k s) := Out.kept_withObj h hk

/-! ### Memory, vector and message forms (spec/07 R121, R141; spec/11 R203, R204) -/

theorem Out.kept_withEff {base : Reg} {off : BitVec 12} {n : Nat} {fe : Bool} {k : Word → State → Out} {s : State}
    (h : s.memWf = true) (hk : ∀ p, Out.Kept (k p s)) : Out.Kept (withEff base off n fe k s) := by
  unfold withEff
  split
  · exact Out.kept_trap h _ _
  · exact Out.kept_checkPtr h (hk _)

theorem Out.kept_sendRead {s : State} (h : s.memWf = true) (d : Dest) (p : Word) (ps : List (Place × Nat)) (e : Ext) (l : Nat) :
    Out.Kept (sendRead d p ps e l s) := Out.kept_done (by rw [State.memWf_send]; exact h)

theorem Out.kept_sendWrite {s : State} (h : s.memWf = true) (p : Word) (ps : List (Place × Nat)) (bs : List Byte) :
    Out.Kept (sendWrite p ps bs s) := Out.kept_done (by rw [State.memWf_send]; exact h)

/-- The datapath is free: the instruction takes it. -/
theorem vecPath_free {cyc : Nat} {k : State → Out} {s : State} (h : vget s.tile.ctx.vecAt s.cur.core 0 ≤ s.now) :
    vecPath cyc k s =
      k { s with tile := { s.tile with ctx := { s.tile.ctx with vecAt := vset s.tile.ctx.vecAt s.cur.core (s.now + cyc) } } } := by
  unfold vecPath; rw [if_neg (by omega)]

theorem Out.kept_vecPath {cyc : Nat} {k : State → Out} {s : State} (h : s.memWf = true)
    (hk : ∀ t : State, t.memWf = true → Out.Kept (k t)) : Out.Kept (vecPath cyc k s) := by
  unfold vecPath
  split
  · exact Out.kept_stalled h
  · exact hk _ (State.memWf_tile h (Tile.memWf_ctx ((State.memWf_iff s).1 h).2.2.2.2.1
      (Tile.memWf_getCtx ((State.memWf_iff s).1 h).2.2.2.2.1)))

theorem Out.kept_vecDone {s : State} (h : s.memWf = true) (lat : Nat) (vd : VNum) (x : VReg) (fl : Nat) :
    Out.Kept (vecDone lat vd x fl s) := Out.kept_done (by rw [State.memWf_slot]; exact h)

theorem Out.kept_vop1 {s : State} (h : s.memWf = true) (tm : VecTime) (vd va : VNum) (f : VReg → VReg × Nat) :
    Out.Kept (vop1 tm vd va f s) := Out.kept_gate h (Out.kept_vecPath h fun _ ht => Out.kept_vecDone ht _ _ _ _)

theorem Out.kept_vop2 {s : State} (h : s.memWf = true) (tm : VecTime) (vd va vb : VNum) (f : VReg → VReg → VReg × Nat) :
    Out.Kept (vop2 tm vd va vb f s) := Out.kept_gate h (Out.kept_vecPath h fun _ ht => Out.kept_vecDone ht _ _ _ _)

theorem Out.kept_vop3 {s : State} (h : s.memWf = true) (tm : VecTime) (vd va vb : VNum)
    (f : VReg → VReg → VReg → VReg × Nat) : Out.Kept (vop3 tm vd va vb f s) :=
  Out.kept_gate h (Out.kept_vecPath h fun _ ht => Out.kept_vecDone ht _ _ _ _)

theorem Out.kept_vecChecks {nd : Need} {base : Word} {offs : List Int} {n align : Nat}
    {k : List Word → List (Place × Nat) → State → Out} {s : State} (h : s.memWf = true) (hk : ∀ ps qs, Out.Kept (k ps qs s)) :
    Out.Kept (vecChecks nd base offs n align k s) := by
  unfold vecChecks
  dsimp only
  split
  · exact Out.kept_trap h _ _
  · split
    · exact Out.kept_trap h _ _
    · split
      · exact Out.kept_trap h _ _
      · exact Out.kept_access h fun _ => hk _ _

theorem Out.kept_released {k : State → Out} {s : State} (h : s.memWf = true) (hk : Out.Kept (k s)) :
    Out.Kept (released k s) := by
  unfold released; split
  · exact Out.kept_stalled h
  · exact hk

theorem Out.kept_checkKey {key : Word} {k : State → Out} {s : State} (h : s.memWf = true) (hk : Out.Kept (k s)) :
    Out.Kept (checkKey key k s) := by
  unfold checkKey; split
  · exact Out.kept_trap h _ _
  · exact hk

theorem Out.kept_checkBuf {p : Word} {key : Option Word} {k : State → Out} {s : State} (h : s.memWf = true)
    (hk : Out.Kept (k s)) : Out.Kept (checkBuf p key k s) := by
  unfold checkBuf
  split
  · exact Out.kept_trap h _ _
  · split
    · exact Out.kept_trap h _ _
    · split
      · exact Out.kept_trap h _ _
      · split
        · exact Out.kept_trap h _ _
        · exact hk

/-! ### Engine operands (spec/07 R148; spec/12 R225; spec/13 R237) -/

theorem Out.kept_checkRegions {ws : List Word} {k : State → Out} {s : State} (h : s.memWf = true) (hk : Out.Kept (k s)) :
    Out.Kept (checkRegions ws k s) := by
  unfold checkRegions; split
  · exact Out.kept_trap h _ _
  · exact hk

theorem Out.kept_checkDone {p : Word} {k : State → Out} {s : State} (h : s.memWf = true) (hk : Out.Kept (k s)) :
    Out.Kept (checkDone p k s) := by
  unfold checkDone
  split
  · exact hk
  · split
    · exact Out.kept_trap h _ _
    · exact hk

theorem Out.kept_checkEnds {p : Word} {n : Nat} {k : State → Out} {s : State} (h : s.memWf = true) (hk : Out.Kept (k s)) :
    Out.Kept (checkEnds p n k s) := by
  unfold checkEnds; split
  · exact Out.kept_trap h _ _
  · exact hk

theorem Out.kept_checkExtent {p : Word} {n : Nat} {w : Bool} {k : State → Out} {s : State} (h : s.memWf = true)
    (hk : Out.Kept (k s)) : Out.Kept (checkExtent p n w k s) := by
  refine Out.kept_checkEnds h ?_
  split
  · exact Out.kept_trap h _ _
  · exact hk

theorem Out.kept_checkOperand {p : Word} {n : Nat} {k : State → Out} {s : State} (h : s.memWf = true)
    (hk : Out.Kept (k s)) : Out.Kept (checkOperand p n k s) := by
  refine Out.kept_checkEnds h ?_
  split
  · exact Out.kept_trap h _ _
  · split
    · exact Out.kept_trap h _ _
    · exact hk

theorem Out.kept_checkAll {xs : State → List (Word × Option Cause)} {k : State → Out} {s : State} (h : s.memWf = true)
    (hk : Out.Kept (k s)) : Out.Kept (checkAll xs k s) := by
  unfold checkAll
  split
  · exact Out.kept_trap h _ _
  · exact hk

/-- Which pointer of a check is reported: no WINDOW_RANGE of any is passed over (spec/03 R54 item 6). -/
theorem firstCause_none {xs : List (Word × Option Cause)} (h : firstCause xs = none) :
    ∀ x ∈ xs, ∀ c ∈ [Cause.windowRange, .foreignWindow, .misaligned], x.2 ≠ some c := by
  intro x hx c hc e
  unfold firstCause at h
  have h₁ := List.findSome?_eq_none_iff.1 h c hc
  simp only [Option.map_eq_none_iff] at h₁
  exact (List.find?_eq_none.1 h₁ x hx) (by simp [e])

/-! ### Steps about one subject -/

theorem Out.kept_onFlight {k : Nat → Flight → State → Out} {s : State} (h : s.memWf = true)
    (hk : ∀ n f, s.flights[n]? = some f → Out.Kept (k n f s)) : Out.Kept (onFlight k s) := by
  unfold onFlight
  split
  · split
    · next e => exact hk _ _ e
    · exact Out.gives_next h
  · exact Out.gives_next h

theorem Out.kept_onMiss {k : Nat → Xlate → State → Out} {s : State} (h : s.memWf = true)
    (hk : ∀ n x, s.wafer.xlates[n]? = some x → Out.Kept (k n x s)) : Out.Kept (onMiss k s) := by
  unfold onMiss
  split
  · split
    · next e => exact hk _ _ e
    · exact Out.gives_next h
  · exact Out.gives_next h

theorem Out.kept_onTileStep {k : State → Nat → Option State} {s : State} (h : s.memWf = true)
    (hk : ∀ t u, k s t = some u → u.memWf = true) : Out.Kept (onTileStep k s) := by
  unfold onTileStep
  split
  · next t _ =>
    refine Out.gives_next ?_
    cases e : k s t with
    | none => exact h
    | some u => exact hk t u e
  · exact Out.gives_next h

theorem Out.kept_onPath {k : State → Nat → MxPath → Option State} {s : State} (h : s.memWf = true)
    (hk : ∀ t p u, k s t p = some u → u.memWf = true) : Out.Kept (onPath k s) := by
  unfold onPath
  split
  · next t p _ =>
    refine Out.gives_next ?_
    cases e : k s t p with
    | none => exact h
    | some u => exact hk t p u e
  · exact Out.gives_next h

theorem Out.kept_onCore {k : State → Nat → Nat → Option State} {s : State} (h : s.memWf = true)
    (hk : ∀ t c u, k s t c = some u → u.memWf = true) : Out.Kept (onCore k s) := by
  unfold onCore
  split
  · next t c _ =>
    refine Out.gives_next ?_
    cases e : k s t c with
    | none => exact h
    | some u => exact hk t c u e
  · exact Out.gives_next h

theorem Out.kept_cellarOnly {a : Reg} {wa : Bool} {k : Plot → State → Out} {s : State} (h : s.memWf = true)
    (hk : ∀ p u, u.memWf = true → Out.Kept (k p u)) : Out.Kept (cellarOnly a wa k s) := by
  unfold cellarOnly
  split
  · exact Out.kept_trap h _ _
  · split
    · exact Out.gives_next h
    · next p e =>
      have h₁ : ({ s with slot := { s.slot with ir := s.peekWord s.cur.tile s.slot.pc } } : State).memWf = true := h
      dsimp only
      split
      · exact Out.gives_next h₁
      · split
        · split
          · exact Out.kept_trap h₁ _ _
          · exact Out.gives_next h₁
        · exact hk p _ h₁

theorem State.memWf_command {s : State} (h : s.memWf = true) (l : SlotLoc) {k : State → State}
    (hk : (k s).memWf = true) : (s.command l k).memWf = true := by
  unfold State.command; split
  · exact hk
  · exact h

end Sys2Proof.Machine
end

