-- ==== Sys2Proof/Laws/PerInstr.lean ====
section
/-!
SUPPORT. Sys2Proof/Laws/PerInstr.lean: what is said of every instruction as syntax, one lemma for each constructor.
-/
namespace Sys2Proof.Laws.EncodesExactly

/-- An instruction has an encoding exactly if it is one of the encoded words; the other steps of the part have none
(spec/03 R40, R52). -/
def Statement (i : Instr) : Prop := (encode i).isSome = i.isWord

theorem add (d a b : Reg) (wa wb : Bool) : Statement (.add d a b wa wb) := rfl
theorem sub (d a b : Reg) (wa wb : Bool) : Statement (.sub d a b wa wb) := rfl
theorem mul (d a b : Reg) (wa wb : Bool) : Statement (.mul d a b wa wb) := rfl
theorem mulh (d a b : Reg) (wa wb : Bool) : Statement (.mulh d a b wa wb) := rfl
theorem mulhn (d a b : Reg) (wa wb : Bool) : Statement (.mulhn d a b wa wb) := rfl
theorem div (d a b : Reg) (wa wb : Bool) : Statement (.div d a b wa wb) := rfl
theorem divn (d a b : Reg) (wa wb : Bool) : Statement (.divn d a b wa wb) := rfl
theorem rem (d a b : Reg) (wa wb : Bool) : Statement (.rem d a b wa wb) := rfl
theorem remn (d a b : Reg) (wa wb : Bool) : Statement (.remn d a b wa wb) := rfl
theorem and (d a b : Reg) (wa wb : Bool) : Statement (.and d a b wa wb) := rfl
theorem or (d a b : Reg) (wa wb : Bool) : Statement (.or d a b wa wb) := rfl
theorem xor (d a b : Reg) (wa wb : Bool) : Statement (.xor d a b wa wb) := rfl
theorem andn (d a b : Reg) (wa wb : Bool) : Statement (.andn d a b wa wb) := rfl
theorem orn (d a b : Reg) (wa wb : Bool) : Statement (.orn d a b wa wb) := rfl
theorem shl (d a b : Reg) (wa wb : Bool) : Statement (.shl d a b wa wb) := rfl
theorem shr (d a b : Reg) (wa wb : Bool) : Statement (.shr d a b wa wb) := rfl
theorem sra (d a b : Reg) (wa wb : Bool) : Statement (.sra d a b wa wb) := rfl
theorem rol (d a b : Reg) (wa wb : Bool) : Statement (.rol d a b wa wb) := rfl
theorem ror (d a b : Reg) (wa wb : Bool) : Statement (.ror d a b wa wb) := rfl
theorem clz (d a : Reg) (wa : Bool) : Statement (.clz d a wa) := rfl
theorem ctz (d a : Reg) (wa : Bool) : Statement (.ctz d a wa) := rfl
theorem popc (d a : Reg) (wa : Bool) : Statement (.popc d a wa) := rfl
theorem min (d a b : Reg) (wa wb : Bool) : Statement (.min d a b wa wb) := rfl
theorem max (d a b : Reg) (wa wb : Bool) : Statement (.max d a b wa wb) := rfl
theorem minn (d a b : Reg) (wa wb : Bool) : Statement (.minn d a b wa wb) := rfl
theorem maxn (d a b : Reg) (wa wb : Bool) : Statement (.maxn d a b wa wb) := rfl
theorem sext (d a b : Reg) (wa wb : Bool) : Statement (.sext d a b wa wb) := rfl
theorem zext (d a b : Reg) (wa wb : Bool) : Statement (.zext d a b wa wb) := rfl
theorem slt (d a b : Reg) (wa wb : Bool) : Statement (.slt d a b wa wb) := rfl
theorem sltn (d a b : Reg) (wa wb : Bool) : Statement (.sltn d a b wa wb) := rfl
theorem seq (d a b : Reg) (wa wb : Bool) : Statement (.seq d a b wa wb) := rfl
theorem sne (d a b : Reg) (wa wb : Bool) : Statement (.sne d a b wa wb) := rfl
theorem addi (d a : Reg) (imm : BitVec 15) (wa : Bool) : Statement (.addi d a imm wa) := rfl
theorem andi (d a : Reg) (imm : BitVec 15) (wa : Bool) : Statement (.andi d a imm wa) := rfl
theorem ori (d a : Reg) (imm : BitVec 15) (wa : Bool) : Statement (.ori d a imm wa) := rfl
theorem xori (d a : Reg) (imm : BitVec 15) (wa : Bool) : Statement (.xori d a imm wa) := rfl
theorem shli (d a : Reg) (n : BitVec 6) (wa : Bool) : Statement (.shli d a n wa) := rfl
theorem shri (d a : Reg) (n : BitVec 6) (wa : Bool) : Statement (.shri d a n wa) := rfl
theorem srai (d a : Reg) (n : BitVec 6) (wa : Bool) : Statement (.srai d a n wa) := rfl
theorem slti (d a : Reg) (imm : BitVec 14) (wa : Bool) : Statement (.slti d a imm wa) := rfl
theorem sltni (d a : Reg) (imm : BitVec 14) (wa : Bool) : Statement (.sltni d a imm wa) := rfl
theorem lih (d a : Reg) (imm : BitVec 15) (wa : Bool) : Statement (.lih d a imm wa) := rfl
theorem lea (d : Reg) (h : Bool) (off : BitVec 18) : Statement (.lea d h off) := rfl
theorem winq (d a : Reg) (wa : Bool) : Statement (.winq d a wa) := rfl
theorem wincLc (d a : Reg) (wa : Bool) : Statement (.wincLc d a wa) := rfl
theorem wincSh (d a : Reg) (wa : Bool) : Statement (.wincSh d a wa) := rfl
theorem addp (d a b : Reg) (wa wb : Bool) : Statement (.addp d a b wa wb) := rfl
theorem ldl (d : Reg) (z : LdSize) (off : BitVec 18) : Statement (.ldl d z off) := rfl
theorem brEq (a b : Reg) (off : BitVec 13) : Statement (.brEq a b off) := rfl
theorem brNe (a b : Reg) (off : BitVec 13) : Statement (.brNe a b off) := rfl
theorem brLt (a b : Reg) (off : BitVec 13) : Statement (.brLt a b off) := rfl
theorem brGe (a b : Reg) (off : BitVec 13) : Statement (.brGe a b off) := rfl
theorem brLtn (a b : Reg) (off : BitVec 13) : Statement (.brLtn a b off) := rfl
theorem brGen (a b : Reg) (off : BitVec 13) : Statement (.brGen a b off) := rfl
theorem jmp (off : BitVec 26) : Statement (.jmp off) := rfl
theorem jal (off : BitVec 26) : Statement (.jal off) := rfl
theorem jr (a : Reg) (wa : Bool) : Statement (.jr a wa) := rfl
theorem jalr (d a : Reg) (wa : Bool) : Statement (.jalr d a wa) := rfl
theorem loop (lvl : BitVec 2) (a : Reg) (len : BitVec 9) : Statement (.loop lvl a len) := rfl
theorem loopi (lvl : BitVec 2) (count : BitVec 14) (len : BitVec 9) : Statement (.loopi lvl count len) := rfl
theorem lbrk (lvl : BitVec 2) : Statement (.lbrk lvl) := rfl
theorem yield : Statement .yield := rfl
theorem suspTag (d a : Reg) (wa : Bool) : Statement (.suspTag d a wa) := rfl
theorem suspFull (a : Reg) (wa : Bool) : Statement (.suspFull a wa) := rfl
theorem suspChg (a b : Reg) (wa wb : Bool) : Statement (.suspChg a b wa wb) := rfl
theorem suspBar (a : Reg) (wa : Bool) : Statement (.suspBar a wa) := rfl
theorem suspEng (a : Reg) (wa : Bool) : Statement (.suspEng a wa) := rfl
theorem suspCall : Statement .suspCall := rfl
theorem suspTime (a : Reg) (wa : Bool) : Statement (.suspTime a wa) := rfl
theorem retire : Statement .retire := rfl
theorem spawn (d a b : Reg) (wa wb : Bool) : Statement (.spawn d a b wa wb) := rfl
theorem wake (d a : Reg) (wa : Bool) : Statement (.wake d a wa) := rfl
theorem recp (d : Reg) : Statement (.recp d) := rfl
theorem topo (d : Reg) : Statement (.topo d) := rfl
theorem ctxid (d : Reg) : Statement (.ctxid d) := rfl
theorem stage (d : Reg) : Statement (.stage d) := rfl
theorem time (d : Reg) : Statement (.time d) := rfl
theorem cyc (d : Reg) : Statement (.cyc d) := rfl
theorem csrrd (d : Reg) (c : Csr) : Statement (.csrrd d c) := rfl
theorem csrwr (d : Reg) (c : Csr) (a : Reg) (wa : Bool) : Statement (.csrwr d c a wa) := rfl
theorem csrset (d : Reg) (c : Csr) (a : Reg) (wa : Bool) : Statement (.csrset d c a wa) := rfl
theorem csrclr (d : Reg) (c : Csr) (a : Reg) (wa : Bool) : Statement (.csrclr d c a wa) := rfl
theorem ld (d base : Reg) (wa : Bool) (z : LdSize) (off : BitVec 12) : Statement (.ld d base wa z off) := rfl
theorem st (d base : Reg) (wa : Bool) (z : StSize) (off : BitVec 12) : Statement (.st d base wa z off) := rfl
theorem ldf (d base : Reg) (wa : Bool) (off : BitVec 12) : Statement (.ldf d base wa off) := rfl
theorem ldfe (d base : Reg) (wa : Bool) (off : BitVec 12) : Statement (.ldfe d base wa off) := rfl
theorem ste (d base : Reg) (wa : Bool) (off : BitVec 12) : Statement (.ste d base wa off) := rfl
theorem stf (d base : Reg) (wa : Bool) (off : BitVec 12) : Statement (.stf d base wa off) := rfl
theorem feClr (d base : Reg) (wa : Bool) (off : BitVec 12) : Statement (.feClr d base wa off) := rfl
theorem feTst (d base : Reg) (wa : Bool) (off : BitVec 12) : Statement (.feTst d base wa off) := rfl
theorem waita (d base : Reg) (wa : Bool) (off : BitVec 12) : Statement (.waita d base wa off) := rfl
theorem pref (base : Reg) (wa : Bool) (off : BitVec 12) : Statement (.pref base wa off) := rfl
theorem refq (d base : Reg) (wa : Bool) (off : BitVec 12) : Statement (.refq d base wa off) := rfl
theorem amoAdd (d a b : Reg) (wa wb : Bool) (sc : AccScope) (ty : AmoTy) : Statement (.amoAdd d a b wa wb sc ty) := rfl
theorem amoAnd (d a b : Reg) (wa wb : Bool) (sc : AccScope) (ty : AmoTy) : Statement (.amoAnd d a b wa wb sc ty) := rfl
theorem amoOr (d a b : Reg) (wa wb : Bool) (sc : AccScope) (ty : AmoTy) : Statement (.amoOr d a b wa wb sc ty) := rfl
theorem amoXor (d a b : Reg) (wa wb : Bool) (sc : AccScope) (ty : AmoTy) : Statement (.amoXor d a b wa wb sc ty) := rfl
theorem amoMin (d a b : Reg) (wa wb : Bool) (sc : AccScope) (ty : AmoTy) : Statement (.amoMin d a b wa wb sc ty) := rfl
theorem amoMax (d a b : Reg) (wa wb : Bool) (sc : AccScope) (ty : AmoTy) : Statement (.amoMax d a b wa wb sc ty) := rfl
theorem amoMinn (d a b : Reg) (wa wb : Bool) (sc : AccScope) (ty : AmoTy) : Statement (.amoMinn d a b wa wb sc ty) := rfl
theorem amoMaxn (d a b : Reg) (wa wb : Bool) (sc : AccScope) (ty : AmoTy) : Statement (.amoMaxn d a b wa wb sc ty) := rfl
theorem amoXchg (d a b : Reg) (wa wb : Bool) (sc : AccScope) (ty : AmoTy) : Statement (.amoXchg d a b wa wb sc ty) := rfl
theorem amoCas (d a b : Reg) (wa wb : Bool) (sc : AccScope) (ty : AmoTy) : Statement (.amoCas d a b wa wb sc ty) := rfl
theorem amoFadd (d a b : Reg) (wa wb : Bool) (sc : AccScope) (ty : AmoTy) : Statement (.amoFadd d a b wa wb sc ty) := rfl
theorem amoFmax (d a b : Reg) (wa wb : Bool) (sc : AccScope) (ty : AmoTy) : Statement (.amoFmax d a b wa wb sc ty) := rfl
theorem amoFmin (d a b : Reg) (wa wb : Bool) (sc : AccScope) (ty : AmoTy) : Statement (.amoFmin d a b wa wb sc ty) := rfl
theorem amoAmaxx (d a : Reg) (wa : Bool) (sc : AccScope) (ty : AmoTy) : Statement (.amoAmaxx d a wa sc ty) := rfl
theorem redAdd (a b : Reg) (wa wb : Bool) (ty : AmoTy) : Statement (.redAdd a b wa wb ty) := rfl
theorem redFadd (a b : Reg) (wa wb : Bool) (ty : AmoTy) : Statement (.redFadd a b wa wb ty) := rfl
theorem redFmax (a b : Reg) (wa wb : Bool) (ty : AmoTy) : Statement (.redFmax a b wa wb ty) := rfl
theorem fence (pred succ : BitVec 5) (peng seng : Bool) (sc : FenceScope) : Statement (.fence pred succ peng seng sc) := rfl
theorem fenceSc (sc : FenceScope) : Statement (.fenceSc sc) := rfl
theorem bini (a b : Reg) (wa wb : Bool) : Statement (.bini a b wa wb) := rfl
theorem barv (d a : Reg) (wa : Bool) : Statement (.barv d a wa) := rfl
theorem bard (d a : Reg) (wa : Bool) : Statement (.bard d a wa) := rfl
theorem bwait (d a b : Reg) (wa wb : Bool) : Statement (.bwait d a b wa wb) := rfl
theorem btst (d a b : Reg) (wa wb : Bool) : Statement (.btst d a b wa wb) := rfl
theorem pbarv (d a : Reg) (wa : Bool) : Statement (.pbarv d a wa) := rfl
theorem send (d a b : Reg) (wa wb : Bool) : Statement (.send d a b wa wb) := rfl
theorem sendv (v : VNum) (a b : Reg) (wa wb : Bool) : Statement (.sendv v a b wa wb) := rfl
theorem post (a b : Reg) (wa wb : Bool) : Statement (.post a b wa wb) := rfl
theorem unpost (d a : Reg) (wa : Bool) : Statement (.unpost d a wa) := rfl
theorem probe (d a : Reg) (wa : Bool) : Statement (.probe d a wa) := rfl
theorem leesPop (d a : Reg) (wa : Bool) : Statement (.leesPop d a wa) := rfl
theorem leesCnt (d : Reg) : Statement (.leesCnt d) := rfl
theorem mcst (d a b : Reg) (wa wb : Bool) : Statement (.mcst d a b wa wb) := rfl
theorem sysc (d a b : Reg) (wa wb : Bool) : Statement (.sysc d a b wa wb) := rfl
theorem trap (a : Reg) (wa : Bool) : Statement (.trap a wa) := rfl
theorem brk (n : BitVec 10) : Statement (.brk n) := rfl
theorem idle (a : Reg) (wa : Bool) : Statement (.idle a wa) := rfl
theorem halt (d a : Reg) (wa : Bool) : Statement (.halt d a wa) := rfl
theorem resume (d a : Reg) (wa : Bool) : Statement (.resume d a wa) := rfl
theorem pwrqF (d : Reg) : Statement (.pwrqF d) := rfl
theorem rampq (d : Reg) : Statement (.rampq d) := rfl
theorem skim (a b : Reg) (wa wb : Bool) : Statement (.skim a b wa wb) := rfl
theorem clkm (d a : Reg) (wa : Bool) : Statement (.clkm d a wa) := rfl
theorem pwrqN (d : Reg) : Statement (.pwrqN d) := rfl
theorem vld (vd sa : VNum) (i7 : BitVec 7) : Statement (.vld vd sa i7) := rfl
theorem vst (vd sa : VNum) (i7 : BitVec 7) : Statement (.vst vd sa i7) := rfl
theorem vlds (vd sa sb : VNum) (t : ElemTy) : Statement (.vlds vd sa sb t) := rfl
theorem vsts (vd sa sb : VNum) (t : ElemTy) : Statement (.vsts vd sa sb t) := rfl
theorem vgath (vd sa vb : VNum) (t : ElemTy) : Statement (.vgath vd sa vb t) := rfl
theorem vscat (vd sa vb : VNum) (t : ElemTy) : Statement (.vscat vd sa vb t) := rfl
theorem vadd (vd va vb : VNum) (t : ElemTy) (r : Rnd) : Statement (.vadd vd va vb t r) := rfl
theorem vsub (vd va vb : VNum) (t : ElemTy) (r : Rnd) : Statement (.vsub vd va vb t r) := rfl
theorem vmul (vd va vb : VNum) (t : ElemTy) (r : Rnd) : Statement (.vmul vd va vb t r) := rfl
theorem vdiv (vd va vb : VNum) (t : ElemTy) (r : Rnd) : Statement (.vdiv vd va vb t r) := rfl
theorem vmin (vd va vb : VNum) (t : ElemTy) : Statement (.vmin vd va vb t) := rfl
theorem vmax (vd va vb : VNum) (t : ElemTy) : Statement (.vmax vd va vb t) := rfl
theorem vmag (vd va : VNum) (t : ElemTy) : Statement (.vmag vd va t) := rfl
theorem vneg (vd va : VNum) (t : ElemTy) : Statement (.vneg vd va t) := rfl
theorem vfma (vd va vb : VNum) (t : ElemTy) (r : Rnd) : Statement (.vfma vd va vb t r) := rfl
theorem vfms (vd va vb : VNum) (t : ElemTy) (r : Rnd) : Statement (.vfms vd va vb t r) := rfl
theorem vfnma (vd va vb : VNum) (t : ElemTy) (r : Rnd) : Statement (.vfnma vd va vb t r) := rfl
theorem vaddInt (vd va vb : VNum) (t : ElemTy) : Statement (.vaddInt vd va vb t) := rfl
theorem vsubInt (vd va vb : VNum) (t : ElemTy) : Statement (.vsubInt vd va vb t) := rfl
theorem vmulInt (vd va vb : VNum) (t : ElemTy) : Statement (.vmulInt vd va vb t) := rfl
theorem vminInt (vd va vb : VNum) (t : ElemTy) : Statement (.vminInt vd va vb t) := rfl
theorem vmaxInt (vd va vb : VNum) (t : ElemTy) : Statement (.vmaxInt vd va vb t) := rfl
theorem vmagInt (vd va : VNum) (t : ElemTy) : Statement (.vmagInt vd va t) := rfl
theorem vnegInt (vd va : VNum) (t : ElemTy) : Statement (.vnegInt vd va t) := rfl
theorem vand (vd va vb : VNum) : Statement (.vand vd va vb) := rfl
theorem vor (vd va vb : VNum) : Statement (.vor vd va vb) := rfl
theorem vxor (vd va vb : VNum) : Statement (.vxor vd va vb) := rfl
theorem vnot (vd va : VNum) : Statement (.vnot vd va) := rfl
theorem vshl (vd va vb : VNum) (t : ElemTy) : Statement (.vshl vd va vb t) := rfl
theorem vshr (vd va vb : VNum) (t : ElemTy) : Statement (.vshr vd va vb t) := rfl
theorem vsra (vd va vb : VNum) (t : ElemTy) : Statement (.vsra vd va vb t) := rfl
theorem vcmpEq (vd va vb : VNum) (t : ElemTy) : Statement (.vcmpEq vd va vb t) := rfl
theorem vcmpNe (vd va vb : VNum) (t : ElemTy) : Statement (.vcmpNe vd va vb t) := rfl
theorem vcmpLt (vd va vb : VNum) (t : ElemTy) : Statement (.vcmpLt vd va vb t) := rfl
theorem vcmpLe (vd va vb : VNum) (t : ElemTy) : Statement (.vcmpLe vd va vb t) := rfl
theorem vcmpGt (vd va vb : VNum) (t : ElemTy) : Statement (.vcmpGt vd va vb t) := rfl
theorem vcmpGe (vd va vb : VNum) (t : ElemTy) : Statement (.vcmpGe vd va vb t) := rfl
theorem vcmpAb (vd va : VNum) (t : ElemTy) : Statement (.vcmpAb vd va t) := rfl
theorem vcmpNan (vd va : VNum) (t : ElemTy) : Statement (.vcmpNan vd va t) := rfl
theorem vsel (vd va vb : VNum) (t : ElemTy) : Statement (.vsel vd va vb t) := rfl
theorem vcvt (vd va : VNum) (src dst : ElemTy) (r : Rnd) (p : BitVec 5) : Statement (.vcvt vd va src dst r p) := rfl
theorem vcvtX3109Std (vd va : VNum) (p : BitVec 5) : Statement (.vcvtX3109Std vd va p) := rfl
theorem vcvtX3109Dev (vd va : VNum) (p : BitVec 5) : Statement (.vcvtX3109Dev vd va p) := rfl
theorem vdqntMx (vd va vb : VNum) (t : ElemTy) (r : Rnd) (p : BitVec 5) : Statement (.vdqntMx vd va vb t r p) := rfl
theorem vdqntNat (vd va vb : VNum) (t : ElemTy) (r : Rnd) (p : BitVec 5) : Statement (.vdqntNat vd va vb t r p) := rfl
theorem vsclMx (vd va : VNum) (t : ElemTy) (p : BitVec 5) : Statement (.vsclMx vd va t p) := rfl
theorem vsclNat (vd va : VNum) (t : ElemTy) (p : BitVec 5) : Statement (.vsclNat vd va t p) := rfl
theorem vqntMx (vd va vb : VNum) (t : ElemTy) (r : Rnd) (p : BitVec 5) : Statement (.vqntMx vd va vb t r p) := rfl
theorem vqntNat (vd va vb : VNum) (t : ElemTy) (r : Rnd) (p : BitVec 5) : Statement (.vqntNat vd va vb t r p) := rfl
theorem vsum (vd va : VNum) (t : ElemTy) (r : Rnd) : Statement (.vsum vd va t r) := rfl
theorem vrmax (vd va : VNum) (t : ElemTy) : Statement (.vrmax vd va t) := rfl
theorem vrmin (vd va : VNum) (t : ElemTy) : Statement (.vrmin vd va t) := rfl
theorem vmean (vd va : VNum) (t : ElemTy) (r : Rnd) : Statement (.vmean vd va t r) := rfl
theorem vcntp (vd va : VNum) (t : ElemTy) : Statement (.vcntp vd va t) := rfl
theorem vrcp (vd va : VNum) (t : ElemTy) : Statement (.vrcp vd va t) := rfl
theorem vrsq (vd va : VNum) (t : ElemTy) : Statement (.vrsq vd va t) := rfl
theorem vsqrt (vd va : VNum) (t : ElemTy) (r : Rnd) : Statement (.vsqrt vd va t r) := rfl
theorem vexp2 (vd va : VNum) (t : ElemTy) : Statement (.vexp2 vd va t) := rfl
theorem vlog2 (vd va : VNum) (t : ElemTy) : Statement (.vlog2 vd va t) := rfl
theorem vtanh (vd va : VNum) (t : ElemTy) : Statement (.vtanh vd va t) := rfl
theorem vperm (vd va vb : VNum) (t : ElemTy) : Statement (.vperm vd va vb t) := rfl
theorem vshufZl (vd va vb : VNum) (t : ElemTy) : Statement (.vshufZl vd va vb t) := rfl
theorem vshufZh (vd va vb : VNum) (t : ElemTy) : Statement (.vshufZh vd va vb t) := rfl
theorem vshufUe (vd va vb : VNum) (t : ElemTy) : Statement (.vshufUe vd va vb t) := rfl
theorem vshufUo (vd va vb : VNum) (t : ElemTy) : Statement (.vshufUo vd va vb t) := rfl
theorem vrot (vd va sb : VNum) (t : ElemTy) : Statement (.vrot vd va sb t) := rfl
theorem viota (vd sa : VNum) (t : ElemTy) : Statement (.viota vd sa t) := rfl
theorem vrotImm (vd va : VNum) (t : ElemTy) (i7 : BitVec 7) : Statement (.vrotImm vd va t i7) := rfl
theorem vfill (vd : VNum) (t : ElemTy) (i7 : BitVec 7) : Statement (.vfill vd t i7) := rfl
theorem vmkab (vd va : VNum) (t : ElemTy) (p : BitVec 5) : Statement (.vmkab vd va t p) := rfl
theorem vmkabTail (vd sa : VNum) (t : ElemTy) (p : BitVec 5) : Statement (.vmkabTail vd sa t p) := rfl
theorem vtsab (vd va : VNum) (t : ElemTy) (p : BitVec 5) : Statement (.vtsab vd va t p) := rfl
theorem vbcast (vd sa : VNum) (t : ElemTy) : Statement (.vbcast vd sa t) := rfl
theorem vext (sd va sb : VNum) (t : ElemTy) : Statement (.vext sd va sb t) := rfl
theorem vins (vd sa sb : VNum) (t : ElemTy) : Statement (.vins vd sa sb t) := rfl
theorem vextImm (sd va : VNum) (t : ElemTy) (i7 : BitVec 7) : Statement (.vextImm sd va t i7) := rfl
theorem vinsImm (vd sa : VNum) (t : ElemTy) (i7 : BitVec 7) : Statement (.vinsImm vd sa t i7) := rfl
theorem ecw (e : Eng) (a : Reg) (n : BitVec 7) : Statement (.ecw e a n) := rfl
theorem ecr (e : Eng) (d : Reg) (n : BitVec 7) : Statement (.ecr e d n) := rfl
theorem mma (a b : Reg) (p : BitVec 5) : Statement (.mma a b p) := rfl
theorem mmas (a b : Reg) (p : BitVec 5) : Statement (.mmas a b p) := rfl
theorem mzero (p : BitVec 5) : Statement (.mzero p) := rfl
theorem mwait (d : Reg) : Statement (.mwait d) := rfl
theorem mqry (d : Reg) : Statement (.mqry d) := rfl
theorem mld (a : Reg) (p : BitVec 5) : Statement (.mld a p) := rfl
theorem mdrain (a : Reg) (p : BitVec 5) : Statement (.mdrain a p) := rfl
theorem mldRaw (a : Reg) (p : BitVec 5) : Statement (.mldRaw a p) := rfl
theorem mdrainRaw (a : Reg) (p : BitVec 5) : Statement (.mdrainRaw a p) := rfl
theorem mdrainRows (a : Reg) (p : BitVec 5) : Statement (.mdrainRows a p) := rfl
theorem cpy (a b d : Reg) : Statement (.cpy a b d) := rfl
theorem cpyHs (a b d : Reg) : Statement (.cpyHs a b d) := rfl
theorem cpyHd (a b d : Reg) : Statement (.cpyHd a b d) := rfl
theorem cpyHsd (a b d : Reg) : Statement (.cpyHsd a b d) := rfl
theorem cpyb (a b d : Reg) : Statement (.cpyb a b d) := rfl
theorem cpybHs (a b d : Reg) : Statement (.cpybHs a b d) := rfl
theorem cpybHd (a b d : Reg) : Statement (.cpybHd a b d) := rfl
theorem cpybHsd (a b d : Reg) : Statement (.cpybHsd a b d) := rfl
theorem dcnt (a b d : Reg) : Statement (.dcnt a b d) := rfl
theorem rack (d a : Reg) : Statement (.rack d a) := rfl
theorem vntqBind (d : Reg) : Statement (.vntqBind d) := rfl
theorem vntqDrop (a : Reg) : Statement (.vntqDrop a) := rfl
theorem vntqCur (d : Reg) : Statement (.vntqCur d) := rfl
theorem vntqSt (d a : Reg) : Statement (.vntqSt d a) := rfl
theorem ewait (e : Eng) (d : Reg) : Statement (.ewait e d) := rfl
theorem eqry (e : Eng) (d : Reg) : Statement (.eqry e d) := rfl
theorem launch : Statement .launch := rfl
theorem dispatch : Statement .dispatch := rfl
theorem controlIntervalStart : Statement .controlIntervalStart := rfl
theorem ageingPromotion : Statement .ageingPromotion := rfl
theorem waitConditionMet : Statement .waitConditionMet := rfl
theorem timeWaitExpiry : Statement .timeWaitExpiry := rfl
theorem lateDelivery : Statement .lateDelivery := rfl
theorem stallLimitExpiry : Statement .stallLimitExpiry := rfl
theorem instructionLineFill : Statement .instructionLineFill := rfl
theorem messageArrival : Statement .messageArrival := rfl
theorem sendAnswer : Statement .sendAnswer := rfl
theorem spawnRequest : Statement .spawnRequest := rfl
theorem wakeRequest : Statement .wakeRequest := rfl
theorem bankAccess : Statement .bankAccess := rfl
theorem accessRetry : Statement .accessRetry := rfl
theorem atomicAtHome : Statement .atomicAtHome := rfl
theorem reductionContribution : Statement .reductionContribution := rfl
theorem accessAcknowledge : Statement .accessAcknowledge := rfl
theorem barrierArrival : Statement .barrierArrival := rfl
theorem barrierRefusal : Statement .barrierRefusal := rfl
theorem copyChunk : Statement .copyChunk := rfl
theorem copyCompletion : Statement .copyCompletion := rfl
theorem decantChunk : Statement .decantChunk := rfl
theorem decantCompletion : Statement .decantCompletion := rfl
theorem matrixGrant : Statement .matrixGrant := rfl
theorem matrixStepEnd : Statement .matrixStepEnd := rfl
theorem matrixCommandCompletion : Statement .matrixCommandCompletion := rfl
theorem rampPeriod : Statement .rampPeriod := rfl
theorem skimTailPeriod : Statement .skimTailPeriod := rfl
theorem translationMiss : Statement .translationMiss := rfl
theorem translationFill : Statement .translationFill := rfl
theorem faultBatchAnswer : Statement .faultBatchAnswer := rfl
theorem translationInvalidation : Statement .translationInvalidation := rfl
theorem trapRingSpace : Statement .trapRingSpace := rfl
theorem cellarRead : Statement .cellarRead := rfl
theorem cellarWrite : Statement .cellarWrite := rfl
theorem cellarStep : Statement .cellarStep := rfl
theorem cellarResume : Statement .cellarResume := rfl
theorem freeze : Statement .freeze := rfl
theorem thaw : Statement .thaw := rfl
theorem cellarRetireRecord : Statement .cellarRetireRecord := rfl
theorem taskKill : Statement .taskKill := rfl
theorem plotKill : Statement .plotKill := rfl
theorem quiesceTimeout : Statement .quiesceTimeout := rfl
theorem containmentReset : Statement .containmentReset := rfl
theorem packetHop : Statement .packetHop := rfl
theorem boundaryRefusal : Statement .boundaryRefusal := rfl
theorem engineRefusal : Statement .engineRefusal := rfl
theorem engineResume : Statement .engineResume := rfl
theorem engineCommandDiscard : Statement .engineCommandDiscard := rfl
theorem linkRetry : Statement .linkRetry := rfl
theorem uncorrectableError : Statement .uncorrectableError := rfl
theorem swap : Statement .swap := rfl
theorem contextMove : Statement .contextMove := rfl
theorem coreLost : Statement .coreLost := rfl
theorem columnShift : Statement .columnShift := rfl
theorem bankRepair : Statement .bankRepair := rfl
theorem laneRepair : Statement .laneRepair := rfl
theorem cellarCoreSpare : Statement .cellarCoreSpare := rfl
theorem trellisPortSpare : Statement .trellisPortSpare := rfl
theorem droopStretch : Statement .droopStretch := rfl
theorem plumbMargin : Statement .plumbMargin := rfl
theorem elasticResume : Statement .elasticResume := rfl
theorem reverseBias : Statement .reverseBias := rfl
theorem boostGrant : Statement .boostGrant := rfl
theorem staggerSlotTime : Statement .staggerSlotTime := rfl
theorem refreshWindowStart : Statement .refreshWindowStart := rfl
theorem refreshWindowEnd : Statement .refreshWindowEnd := rfl
theorem timeSyncMessage : Statement .timeSyncMessage := rfl
theorem ueMessage : Statement .ueMessage := rfl
theorem storageDma : Statement .storageDma := rfl
theorem hostAccess : Statement .hostAccess := rfl
theorem jobSubmission : Statement .jobSubmission := rfl
theorem createBarrier : Statement .createBarrier := rfl
theorem freeHandle : Statement .freeHandle := rfl
theorem createCopyRegion : Statement .createCopyRegion := rfl
theorem createReplicaSet : Statement .createReplicaSet := rfl
theorem createVintage : Statement .createVintage := rfl
theorem createRing : Statement .createRing := rfl
theorem writeRampTable : Statement .writeRampTable := rfl
theorem launchCall : Statement .launchCall := rfl
theorem attest : Statement .attest := rfl
theorem consoleWrite : Statement .consoleWrite := rfl
theorem offerWindow : Statement .offerWindow := rfl
theorem acceptWindow : Statement .acceptWindow := rfl
theorem withdrawWindow : Statement .withdrawWindow := rfl
theorem unknownCall : Statement .unknownCall := rfl
theorem syscReply : Statement .syscReply := rfl
theorem bindRecordWrite : Statement .bindRecordWrite := rfl
theorem launchTableWrite : Statement .launchTableWrite := rfl
theorem managementSettingWrite : Statement .managementSettingWrite := rfl
theorem moduleBoot : Statement .moduleBoot := rfl
theorem illegalWord : Statement .illegalWord := rfl
theorem idleTimeReached : Statement .idleTimeReached := rfl
theorem tileLost : Statement .tileLost := rfl

end Sys2Proof.Laws.EncodesExactly
end

