-- ==== Sys2Proof/Tests/Slice0.lean ====
section
/-!
SUPPORT. Sys2Proof/Tests/Slice0.lean: words of the opcode table decoded, ill-formed terms refused, for every statement
with hypotheses states that meet them, and results that the spec works out.
-/
namespace Sys2Proof.Tests
open Sys2Proof.Machine Sys2Proof.Claims Host

-- one theorem after another: each is a short evaluation by the kernel, and side by side they take stacks of many threads
set_option Elab.async false

/-! ### Small states -/

/-- A two-tile elastic plot at the origin, with one handle of each kind and one that names nothing. -/
def pl : Plot := { wordPlot with
  w := 2
  handles := [
    ⟨1, 0, some (.barrier ⟨false, 0, 0, 2, 1, 0, none, false, []⟩)⟩,
    ⟨2, 0, some (.barrier ⟨true, 0, 1, 1, 0, 0, none, false, []⟩)⟩,
    ⟨3, 0, some (.region (.ptr 0x9000000000001000) 4096 true)⟩,
    ⟨4, 0, some (.replica 64 [⟨[(⟨.spad 0, 0x2000⟩, 64)], none, none⟩, ⟨[(⟨.spad 1, 0x2000⟩, 64)], none, none⟩])⟩,
    ⟨5, 0, some (.vintage ⟨1, false, 0, 0, 0⟩)⟩,
    ⟨6, 3, none⟩] }

/-- The tile that the small state lists. -/
def other : Tile := { Tile.reset with ctx := { Ctx.reset with plot := some 0, n := 1 } }

/-- A running record on tile 0 of that plot: record 0 of queue 0 at 0x4_0000, its page mapped for every use. -/
def base : State :=
  let s := State.reset.withFetchWord 32 0
  { s with
    tile := { s.tile with tlb := [⟨0, 0, 12, 0, 0, true, true, true⟩] }
    wafer := { s.wafer with plots := [pl], tiles := [(1, other)] } }

/-- Its vector datapath is free. -/
theorem free_base : pathFree base := by unfold pathFree; decide +kernel

/-- That state with scalar registers written. -/
def regs (l : List (Reg × Word)) : State :=
  { base with slot := l.foldl (fun x e => x.write e.1 e.2) base.slot }

/-- A state with its slot, its tile or its context changed. -/
def onSlot (f : Slot → Slot) (s : State) : State := { s with slot := f s.slot }
def onTile (f : Tile → Tile) (s : State) : State := { s with tile := f s.tile }
def onCtx (f : Ctx → Ctx) (s : State) : State := { s with tile := { s.tile with ctx := f s.tile.ctx } }
def onWafer (f : Wafer → Wafer) (s : State) : State := { s with wafer := f s.wafer }

/-- A state with a step of the part at hand. -/
def withArg (a : EvArg) (s : State) : State := { s with arg := a }

/-- One access in flight, at its place, and the step about it. -/
def flying (f : Flight) (s : State) : State := { s with flights := [f], arg := .flight 0 }

/-- An access of the running record to a tile, which has come to it. -/
def access (dest : Dest) (cls : Cls) (goal : Nat) (req : Req) : Flight :=
  let f := base.flight dest cls false false goal 1 1 0 req
  { f with pkt := { f.pkt with at_ := goal } }

/-- The state after one step of an instruction. -/
def after (i : Instr) (s : State) : State :=
  match exec i s with
  | .next t => t
  | _ => s


/-- A state at tile 0 that lists one further tile. -/
theorem getTile_two {s : State} {x : Tile} (c : s.cur.tile = 0) (e : s.wafer.tiles = [(1, x)]) (u : Nat) :
    s.getTile u = if u = 0 then s.tile else if u = 1 then x else Tile.reset := by
  simp only [State.getTile, c, e, Sparse.get]
  repeat' split
  all_goals first | rfl | omega

/-- No tile of such a state holds a reduction entry where those two hold none. -/
theorem noHidden_two {s : State} {x : Tile} (c : s.cur.tile = 0) (e : s.wafer.tiles = [(1, x)]) (a : s.tile.ctx.red = [])
    (b : x.ctx.red = []) (p : Place) (n : Nat) : noHidden s p n := by
  intro t _ k h
  rw [getTile_two c e t] at h
  split at h
  · rw [a] at h; cases h
  split at h
  · rw [b] at h; cases h
  · cases h

theorem noHidden_base (p : Place) (n : Nat) : noHidden base p n := noHidden_two (x := other) (by decide +kernel) (by decide +kernel) rfl rfl p n

/-- Every constructor of the family, each with a word laid out from its row of the encoding tables. -/
def words_integer : List (Insn × Instr) := [
  (0x050D7C00, .add 8 13 15 true false), (0x0774BA01, .sub 27 20 23 false true), (0x04584602, .mul 2 24 8 true true),
  (0x061ECA03, .mulh 16 30 25 false true), (0x04A86404, .mulhn 5 8 12 true false),
  (0x0541C605, .div 10 1 24 true true), (0x07A35406, .divn 29 3 10 true false), (0x05146A07, .rem 8 20 13 false true),
  (0x06C77608, .remn 22 7 14 true true), (0x05074809, .and 8 7 9 false false), (0x0722560A, .or 25 2 10 true true),
  (0x05DA540B, .xor 14 26 10 true false), (0x04DBD40C, .andn 6 27 26 true false),
  (0x07D1940D, .orn 30 17 18 true false), (0x046ECA0E, .shl 3 14 25 false true),
  (0x058D480F, .shr 12 13 9 false false), (0x066F5610, .sra 19 15 10 true true), (0x04503A11, .rol 2 16 7 false true),
  (0x05983A12, .ror 12 24 7 false true), (0x04610413, .clz 3 1 true), (0x04B70014, .ctz 5 23 false),
  (0x07FD0015, .popc 31 29 false), (0x0535BE16, .min 9 21 23 true true), (0x052E3817, .max 9 14 7 false false),
  (0x0652B618, .minn 18 18 22 true true), (0x05879019, .maxn 12 7 18 false false),
  (0x07E13E1A, .sext 31 1 7 true true), (0x058BC41B, .zext 12 11 24 true false),
  (0x0706821C, .slt 24 6 16 false true), (0x04BA381D, .sltn 5 26 7 false false),
  (0x07E9F21E, .seq 31 9 30 false true), (0x064F421F, .sne 18 15 8 false true)]

theorem test_decode_integer : ∀ x ∈ words_integer, decode x.1 = some x.2 := by decide +kernel

/-- Every constructor of the family, each with a word laid out from its row of the encoding tables. -/
def words_immediate : List (Insn × Instr) := [
  (0x09349E29, .addi 9 20 7721 true), (0x0ED7E9B6, .andi 22 23 27062 true), (0x13A2D101, .ori 29 2 20737 true),
  (0x1479A9B2, .xori 3 25 10674 true), (0x18E38014, .shli 7 3 20 true), (0x18DBA01B, .shri 6 27 27 true),
  (0x1A134031, .srai 16 19 49 false), (0x1DE39D14, .slti 15 3 7444 true), (0x1C236EDF, .sltni 1 3 11999 false),
  (0x20B5EF9B, .lih 5 21 28571 true), (0x262445B8, .lea 17 true 17848), (0x2CEF07FF, .ldl 7 .hz 198655)]

theorem test_decode_immediate : ∀ x ∈ words_immediate, decode x.1 = some x.2 := by decide +kernel

/-- Every constructor of the family, each with a word laid out from its row of the encoding tables. -/
def words_window : List (Insn × Instr) := [
  (0x28CA0400, .winq 6 10 true), (0x2BC74C01, .wincLc 30 7 true), (0x29C85001, .wincSh 14 8 false),
  (0x28A39C02, .addp 5 3 19 true false)]

theorem test_decode_window : ∀ x ∈ words_window, decode x.1 = some x.2 := by decide +kernel

/-- Every constructor of the family, each with a word laid out from its row of the encoding tables. -/
def words_branch : List (Insn × Instr) := [
  (0x31FD18E5, .brEq 15 29 6373), (0x33F83436, .brNe 31 24 5174), (0x338F52D6, .brLt 28 15 4822),
  (0x311D7655, .brGe 8 29 5717), (0x31E495E2, .brLtn 15 4 5602), (0x339EAEB4, .brGen 28 30 3764),
  (0x3769B63C, .jmp 57259580), (0x38B41682, .jal 11802242), (0x3C170000, .jr 23 false), (0x3C580401, .jalr 2 24 true),
  (0x40A40000, .loop 0 20 256), (0x40081675, .loopi 0 3745 5), (0x41000001, .lbrk 1)]

theorem test_decode_branch : ∀ x ∈ words_branch, decode x.1 = some x.2 := by decide +kernel

/-- Every constructor of the family, each with a word laid out from its row of the encoding tables. -/
def words_strand : List (Insn × Instr) := [
  (0x44000000, .yield), (0x447C0401, .suspTag 3 28 true), (0x44150402, .suspFull 21 true),
  (0x44151803, .suspChg 21 3 false false), (0x44120004, .suspBar 18 false), (0x44190005, .suspEng 25 false),
  (0x44000006, .suspCall), (0x44110007, .suspTime 17 false), (0x44000010, .retire),
  (0x4725EE20, .spawn 25 5 29 true true), (0x46FF0030, .wake 23 31 false), (0x46E00040, .recp 23)]

theorem test_decode_strand : ∀ x ∈ words_strand, decode x.1 = some x.2 := by decide +kernel

/-- Every constructor of the family, each with a word laid out from its row of the encoding tables. -/
def words_query : List (Insn × Instr) := [
  (0x4B000000, .topo 24), (0x4B400001, .ctxid 26), (0x49000002, .stage 8), (0x4B800003, .time 28),
  (0x4B800004, .cyc 28), (0x4D000002, .csrrd 8 .slot), (0x4D8C1009, .csrwr 12 .fecfg 12 false),
  (0x4E182000, .csrset 16 .status 24 false), (0x4F763008, .csrclr 27 .leesc 22 false)]

theorem test_decode_query : ∀ x ∈ words_query, decode x.1 = some x.2 := by decide +kernel

/-- Every constructor of the family, each with a word laid out from its row of the encoding tables. -/
def words_memory : List (Insn × Instr) := [
  (0x522A8D0F, .ld 17 10 true .b 3343), (0x561329F6, .st 16 19 false .h 2550), (0x5A398E66, .ldf 17 25 true 3686),
  (0x5AAC1453, .ldfe 21 12 false 1107), (0x58EF243F, .ste 7 15 false 1087), (0x5B5B3E12, .stf 26 27 false 3602),
  (0x5907C270, .feClr 8 7 true 624), (0x59C15927, .feTst 14 1 false 2343), (0x5B13612B, .waita 24 19 false 299),
  (0x5C0A05F1, .pref 10 false 1521), (0x5DF717F2, .refq 15 23 false 2034)]

theorem test_decode_memory : ∀ x ∈ words_memory, decode x.1 = some x.2 := by decide +kernel

/-- Every constructor of the family, each with a word laid out from its row of the encoding tables. -/
def words_atomic : List (Insn × Instr) := [
  (0x61E88A10, .amoAdd 15 8 17 false true .wafer .d), (0x602A1A31, .amoAnd 1 10 3 false true .wafer .w),
  (0x637AAE48, .amoOr 27 26 21 true true .plot .d), (0x637B9A79, .amoXor 27 27 19 false true .system .w),
  (0x62F71C88, .amoMin 23 23 3 true false .plot .d), (0x629E20A9, .amoMax 20 30 4 false false .plot .w),
  (0x60509CC8, .amoMinn 2 16 19 true false .plot .d), (0x602A46E9, .amoMaxn 1 10 8 true true .plot .w),
  (0x63015B10, .amoXchg 24 1 11 false true .wafer .d), (0x606AED39, .amoCas 3 10 29 true false .system .w),
  (0x622D5F5B, .amoFadd 17 13 11 true true .system .bf16), (0x604CCD6C, .amoFmax 2 12 25 true false .plot .h16),
  (0x606F1D9A, .amoFmin 3 15 3 true false .system .f32), (0x629305BC, .amoAmaxx 20 19 true .system .h16),
  (0x640C9C00, .redAdd 12 19 true false .d), (0x64143622, .redFadd 20 6 true true .f32),
  (0x6418A444, .redFmax 24 20 true false .h16), (0x6811EA05, .fence 17 29 false true .system),
  (0x68000014, .fenceSc .wafer)]

theorem test_decode_atomic : ∀ x ∈ words_atomic, decode x.1 = some x.2 := by decide +kernel

/-- Every constructor of the family, each with a word laid out from its row of the encoding tables. -/
def words_barrier_message : List (Insn × Instr) := [
  (0x6C021400, .bini 2 2 true false), (0x6E310001, .barv 17 17 false), (0x6CC70402, .bard 6 7 true),
  (0x6DCADE03, .bwait 14 10 27 true true), (0x6F715804, .btst 27 17 11 false false), (0x6EDB0405, .pbarv 22 27 true),
  (0x72A29600, .send 21 2 18 true true), (0x71BC5801, .sendv 13 28 11 false false),
  (0x700E5C02, .post 14 11 true false), (0x72560003, .unpost 18 22 false), (0x73830004, .probe 28 3 false),
  (0x716A0005, .leesPop 11 10 false), (0x73E00006, .leesCnt 31), (0x731CD007, .mcst 24 28 26 false false)]

theorem test_decode_barrier_message : ∀ x ∈ words_barrier_message, decode x.1 = some x.2 := by decide +kernel

/-- Every constructor of the family, each with a word laid out from its row of the encoding tables. -/
def words_system_power : List (Insn × Instr) := [
  (0x763CE800, .sysc 17 28 29 false false), (0x741F0401, .trap 31 true), (0x77420002, .brk 834),
  (0x74180403, .idle 24 true), (0x74250404, .halt 1 5 true), (0x76680405, .resume 19 8 true), (0x7A200000, .pwrqF 17),
  (0x78600001, .rampq 3), (0x780C7C02, .skim 12 15 true false), (0x7AE50403, .clkm 23 5 true), (0x7BC00004, .pwrqN 30)]

theorem test_decode_system_power : ∀ x ∈ words_system_power, decode x.1 = some x.2 := by decide +kernel

/-- Every constructor of the family, each with a word laid out from its row of the encoding tables. -/
def words_vector_memory : List (Insn × Instr) := [
  (0x80994002, .vld 2 6 37), (0x81E3C00E, .vst 7 8 111), (0x810B7010, .vlds 4 2 13 .e8s),
  (0x82255C11, .vsts 8 9 5 .n32), (0x844D5000, .vgath 1 3 5 .i64), (0x86734C01, .vscat 9 12 13 .i32)]

theorem test_decode_vector_memory : ∀ x ∈ words_vector_memory, decode x.1 = some x.2 := by decide +kernel

/-- Every constructor of the family, each with a word laid out from its row of the encoding tables. -/
def words_vector_float : List (Insn × Instr) := [
  (0x89CEE800, .vadd 7 3 11 .bf16 .rne), (0x8B7D6401, .vsub 13 15 5 .f32 .rne), (0x8B0F2C02, .vmul 12 3 12 .h16 .rne),
  (0x8A272803, .vdiv 8 9 12 .bf16 .rne), (0x89F52404, .vmin 7 13 4 .f32), (0x89892805, .vmax 6 2 4 .bf16),
  (0x8B4C2806, .vmag 13 3 .bf16), (0x8A582807, .vneg 9 6 .bf16), (0x8C7F2E00, .vfma 1 15 12 .h16 .rto),
  (0x8E772A01, .vfms 9 13 12 .bf16 .rto), (0x8D26E602, .vfnma 4 9 11 .f32 .rto)]

theorem test_decode_vector_float : ∀ x ∈ words_vector_float, decode x.1 = some x.2 := by decide +kernel

/-- Every constructor of the family, each with a word laid out from its row of the encoding tables. -/
def words_vector_integer : List (Insn × Instr) := [
  (0x90FB4400, .vaddInt 3 14 13 .i8), (0x92E61401, .vsubInt 11 9 8 .n8), (0x93B84402, .vmulInt 14 14 1 .i8),
  (0x920DD404, .vminInt 8 3 7 .n8), (0x93304405, .vmaxInt 12 12 1 .i8), (0x91A80806, .vmagInt 6 10 .i16),
  (0x91980807, .vnegInt 6 6 .i16), (0x96B58000, .vand 10 13 6), (0x9730C001, .vor 12 12 3),
  (0x94F34002, .vxor 3 12 13), (0x97B40003, .vnot 14 13), (0x95921804, .vshl 6 4 8 .n16),
  (0x94851805, .vshr 2 1 4 .n16), (0x97B8D006, .vsra 14 14 3 .i64)]

theorem test_decode_vector_integer : ∀ x ∈ words_vector_integer, decode x.1 = some x.2 := by decide +kernel

/-- Every constructor of the family, each with a word laid out from its row of the encoding tables. -/
def words_vector_compare : List (Insn × Instr) := [
  (0x9B4B2400, .vcmpEq 13 2 12 .f32), (0x992FC801, .vcmpNe 4 11 15 .i16), (0x9A479802, .vcmpLt 9 1 14 .n16),
  (0x9A5E6803, .vcmpLe 9 7 9 .bf16), (0x9A05CC04, .vcmpGt 8 1 7 .i32), (0x9B1A1C05, .vcmpGe 12 6 8 .n32),
  (0x9A8C2806, .vcmpAb 10 3 .bf16), (0x996C2C07, .vcmpNan 5 11 .h16), (0x9AE25C08, .vsel 11 8 9 .n32)]

theorem test_decode_vector_compare : ∀ x ∈ words_vector_compare, decode x.1 = some x.2 := by decide +kernel

/-- Every constructor of the family, each with a word laid out from its row of the encoding tables. -/
def words_vector_convert : List (Insn × Instr) := [
  (0x9D1AA500, .vcvt 4 6 .bf16 .f32 .rup 0), (0x9E5C3431, .vcvtX3109Std 9 7 17), (0x9CFC7431, .vcvtX3109Dev 3 15 17),
  (0x9D196A51, .vdqntMx 4 6 5 .bf16 .rto 17), (0x9D236871, .vdqntNat 4 8 13 .bf16 .rne 17),
  (0xA2FC2411, .vsclMx 11 15 .f32 17), (0xA2182831, .vsclNat 8 6 .bf16 17), (0xA30DA651, .vqntMx 12 3 6 .f32 .rto 17),
  (0xA358A471, .vqntNat 13 6 2 .f32 .rne 17)]

theorem test_decode_vector_convert : ∀ x ∈ words_vector_convert, decode x.1 = some x.2 := by decide +kernel

/-- Every constructor of the family, each with a word laid out from its row of the encoding tables. -/
def words_vector_reduce : List (Insn × Instr) := [
  (0xA5F82C00, .vsum 7 14 .h16 .rne), (0xA6482401, .vrmax 9 2 .f32), (0xA5602402, .vrmin 5 8 .f32),
  (0xA5E42403, .vmean 7 9 .f32 .rne), (0xA45C2804, .vcntp 1 7 .bf16), (0xAA742800, .vrcp 9 13 .bf16),
  (0xAB7C2801, .vrsq 13 15 .bf16), (0xA9342982, .vsqrt 4 13 .bf16 .rdn), (0xABF02C03, .vexp2 15 12 .h16),
  (0xA9142C04, .vlog2 4 5 .h16), (0xAAE42C05, .vtanh 11 9 .h16)]

theorem test_decode_vector_reduce : ∀ x ∈ words_vector_reduce, decode x.1 = some x.2 := by decide +kernel

/-- Every constructor of the family, each with a word laid out from its row of the encoding tables. -/
def words_vector_move : List (Insn × Instr) := [
  (0xAF565800, .vperm 13 5 9 .n16), (0xAFA6D401, .vshufZl 14 9 11 .n8), (0xAD21E402, .vshufZh 4 8 7 .f32),
  (0xAFAE7003, .vshufUe 14 11 9 .e8s), (0xAE1D1C04, .vshufUo 8 7 4 .n32), (0xADBE9805, .vrot 6 15 10 .n16),
  (0xAFF41406, .viota 15 13 .n8), (0xAC909411, .vrotImm 2 4 .n8 18), (0xAC40E419, .vfill 1 .f32 19),
  (0xB0CC3411, .vmkab 3 3 .b8 17), (0xB1043431, .vmkabTail 4 1 .b8 17), (0xB1683451, .vtsab 5 10 .b8 17),
  (0xB6243000, .vbcast 8 9 .e8s), (0xB6B7DC01, .vext 10 13 15 .n32), (0xB5AC9802, .vins 6 11 2 .n16),
  (0xB64E5411, .vextImm 9 3 .n8 25), (0xB6BE5419, .vinsImm 10 15 .n8 25)]

theorem test_decode_vector_move : ∀ x ∈ words_vector_move, decode x.1 = some x.2 := by decide +kernel

/-- Every constructor of the family, each with a word laid out from its row of the encoding tables. -/
def words_engine : List (Insn × Instr) := [
  (0xC0C80005, .ecw .ce 18 5), (0xC0000B91, .ecr .me 11 17), (0xCCC32B00, .cpy 16 25 11),
  (0xCCB16301, .cpyHs 12 11 3), (0xCCA9F102, .cpyHd 10 15 17), (0xCCBFBA03, .cpyHsd 15 29 26),
  (0xCCE13F10, .cpyb 24 9 31), (0xCCDEF011, .cpybHs 23 23 16), (0xCCB91A12, .cpybHd 14 8 26),
  (0xCCA5FF13, .cpybHsd 9 15 31), (0xD17BEB00, .dcnt 30 31 11), (0xD1101D01, .rack 29 4), (0xD1000D02, .vntqBind 13),
  (0xD1040003, .vntqDrop 1), (0xD1000204, .vntqCur 2), (0xD1301805, .vntqSt 24 12), (0xD5001800, .ewait .de 24),
  (0xD4800A01, .eqry .ce 10)]

theorem test_decode_engine : ∀ x ∈ words_engine, decode x.1 = some x.2 := by decide +kernel

/-- Every constructor of the family, each with a word laid out from its row of the encoding tables. -/
def words_matrix : List (Insn × Instr) := [
  (0xC4348D00, .mma 13 4 13), (0xC4798801, .mmas 30 12 8), (0xC4000902, .mzero 9), (0xC4001208, .mwait 18),
  (0xC4000709, .mqry 7), (0xC8640D00, .mld 25 13), (0xC87C0F01, .mdrain 31 15), (0xC83C0902, .mldRaw 15 9),
  (0xC8540B03, .mdrainRaw 21 11), (0xC87C0D04, .mdrainRows 31 13)]

theorem test_decode_matrix : ∀ x ∈ words_matrix, decode x.1 = some x.2 := by decide +kernel


/-! ### Hypotheses met: scalar instructions -/

/-- A core whose divider is taken for 5 more cycles. -/
def dividing : State := onCtx (fun c => { c with divAt := Vector.replicate 8 5 }) base

theorem witness_ProductAndQuotient : base.ready [.s 1 true, .s 2 true] [.s 3] = true ∧
    vget base.tile.ctx.divAt base.cur.core 0 ≤ base.now ∧ dividing.ready [.s 1 true, .s 2 true] [.s 3] = true ∧
    dividing.now < vget dividing.tile.ctx.divAt dividing.cur.core 0 := by decide +kernel

theorem witness_AluResult : base.ready [.s 1 true, .s 2 true] [.s 3] = true ∧ base.ready [.s 1 true] [.s 3] = true := by
  decide +kernel

theorem witness_ImmediateResult : base.ready [.s 1 true] [.s 3] = true ∧ base.ready [] [.s 3] = true := by decide +kernel

theorem witness_WinqResult : base.ready [.s 1 true] [.s 3] = true := by decide +kernel

/-- Cast sources: no window, other core, other slot, own slot at its last byte, other tile in each window, the last byte
of a tile, windows 0x0 and 0xB. -/
def castSources : List Word := [0x1000000000000000, 0x8000000100000000, 0x8000000040000000, 0x8000000000001FFF,
  0x9000000100000000, 0xA0000001000FFFFF, 0x0, 0xB000000100000000]

theorem witness_WincResult : (castSources.all fun p => (regs [(1, p)]).ready [.s 1 true] [.s 3]) = true ∧
    castSources.map (fun p => (wellFormed base.tiles p 1, win p)) =
      [(false, 1), (true, 8), (true, 8), (true, 8), (true, 9), (true, 10), (true, 0), (true, 11)] ∧
    castSources.map (fun p => (bits p 35 32 == base.cur.core, bits p 31 30 == base.cur.slot, bits p 47 32 == base.tile.ctx.n)) =
      [(true, true, true), (false, true, false), (true, false, true), (true, true, true), (false, true, false),
        (false, true, false), (true, true, true), (false, true, false)] := by decide +kernel

/-- Sums one below, at and above the ends of an offset field. -/
theorem witness_AddpResult :
    (([(0x9000000000000000, -1), (0x90000000000FFFFF, 0), (0x90000000000FFFFF, 1), (0x3000000000000000, 0)] :
      List (Word × Word)).map fun e =>
        let n : Int := (e.1.toNat % 2 ^ offWidth (win e.1) : Nat) + e.2.toInt
        ((regs [(1, e.1), (2, e.2)]).ready [.s 1 true, .s 2 true] [.s 3], wellFormed base.tiles e.1 1, decide (n < 0),
          decide ((offLimit (win e.1) : Int) < n))) =
      [(true, true, true, false), (true, true, false, false), (true, true, false, true), (true, false, false, false)] := by
  decide +kernel

/-- From address 0: one word back leaves the address field, one word on does not; equal and unequal sources. -/
theorem witness_BranchResult : (regs [(1, 5), (2, 5)]).ready [.s 1 false, .s 2 false] [] = true ∧
    branchRows.map (fun row => row.2 5 5) = [true, false, false, true, false, true] ∧ base.slot.pc.toNat % 4 = 0 ∧
    bits (BitVec.ofInt 64 (base.slot.pc.toNat + (-1 : BitVec 13).toInt * 4)) 63 57 ≠ 0 ∧
    bits (BitVec.ofInt 64 (base.slot.pc.toNat + (1 : BitVec 13).toInt * 4)) 63 57 = 0 := by decide +kernel

/-- The slot at the last address of a body of one instruction, whose counter stands at a count. -/
def atFootOf (count : Word) : State :=
  onSlot (fun x => { x with pc := 8, loops := [⟨0, 8, 8⟩, ⟨1, 4, 8⟩], lc := #v[count, 2, 0] }) base

theorem witness_JumpResult :
    bits (BitVec.ofInt 64 (base.slot.pc.toNat + (1 : BitVec 26).toInt * 4)) 63 57 = 0 ∧
    bits (BitVec.ofInt 64 (base.slot.pc.toNat + (-1 : BitVec 26).toInt * 4)) 63 57 ≠ 0 ∧ base.slot.pc.toNat % 4 = 0 ∧
    base.slot.loops = [] ∧ base.ready [] [.s 31] = true ∧
    (([0x1FFFFFFFFFFFFFC, 0x200000000000000, 0x1FFFFFFFFFFFFFE] : List Word).all fun p =>
      (regs [(1, p)]).ready [.s 1 true] [] && (regs [(1, p)]).ready [.s 1 true] [.s 3]) = true ∧
    bits (0x1FFFFFFFFFFFFFC : Word) 63 57 = 0 ∧ bits (0x200000000000000 : Word) 63 57 ≠ 0 ∧
    (0x1FFFFFFFFFFFFFE : Word).toNat % 4 ≠ 0 ∧
    ((atFootOf 1).slot.loops.any fun l => l.last == (atFootOf 1).slot.pc) = true := by
  decide +kernel

theorem witness_LbrkResult : (atFootOf 1).slot.loops = [⟨0, 8, 8⟩] ++ ⟨1, 4, 8⟩ :: [] ∧
    (∀ k ∈ [(⟨0, 8, 8⟩ : Loop)], k.ctr ≠ (1 : BitVec 2).toNat) ∧
    (∀ l ∈ (atFootOf 1).slot.loops, l.ctr ≠ (2 : BitVec 2).toNat) := by decide +kernel

/-- A body that would end after the innermost one, a counter in use, a free level; passes with counts 2 and 1. -/
theorem witness_LoopResult : ¬bodyFits (atFootOf 1) 1 ∧ bodyFits base 256 ∧ levelFree base 0 ∧
    bodyFits (onSlot (fun x => { x with pc := 4 }) (atFootOf 1)) 1 ∧
    ¬levelFree (onSlot (fun x => { x with pc := 4 }) (atFootOf 1)) 1 ∧ base.ready [.s 1 false] [] = true ∧
    (∀ k, base.slot.loops.head? = some k → k.last ≠ base.slot.pc) ∧
    (atFootOf 2).slot.loops = ⟨0, 8, 8⟩ :: [⟨1, 4, 8⟩] ∧ vget (atFootOf 2).slot.lc 0 0 ≠ 1 ∧ vget (atFootOf 1).slot.lc 0 0 = 1 := by
  refine ⟨fun h => absurd (h _ rfl) (by decide +kernel), fun l h => (by cases h), ⟨by decide +kernel, by decide +kernel⟩, ?_, ?_, by decide +kernel, fun k h => (by cases h),
    rfl, by decide +kernel, by decide +kernel⟩
  · intro l h; cases h; decide +kernel
  · rintro ⟨-, h⟩; exact absurd (h ⟨1, 4, 8⟩ (by decide +kernel)) (by decide +kernel)

/-- An access of the record that has not been performed. -/
def pendingLoad : Flight := access (.s 9) .ld 0 (.read [(⟨.spad 0, 0⟩, 8)] (.scalar .d))

theorem witness_CsrResult : base.ready [] [.s 3] = true ∧ base.ready [.s 1 true] [.s 3] = true ∧
    (∀ c ∈ [Csr.status, .ctxid, .fecfg, .leesc], statusBusy c base = false) ∧ csrMask .ctxid = 0 ∧ csrMask .leesc ≠ 0 := by
  decide +kernel

theorem witness_LeaveSlot : base.memWf = true ∧ mayLeave base = true ∧ (atFootOf 1).memWf = true ∧
    (atFootOf 1).slot.loops ≠ [] ∧ (atFootOf 1).slot.leaving = none := by decide +kernel

/-- A record with a notice of tag 5, one that waits on a word that is empty, and one with an empty carried register. -/
def noticed : State := onCtx (fun c => { c with mu := [.posted 0x40000 0x80000 true 0 5, .notice 0x40000 1 5 8] }) (regs [(1, 5)])
def ownEmpty : State := onCtx (fun c => { c with empties := [0x1000] }) (regs [(1, 0x9000000000001000)])
def oneOwed : State := onSlot (fun x => x.pend (.s 2)) base

theorem witness_Suspend :
    (∀ s ∈ [noticed, ownEmpty, oneOwed, regs [(1, 7)], regs [(1, 0x9000000000001000)], regs [(1, 1)], regs [(1, 2)]],
      s.memWf = true ∧ mayLeave s = true) ∧
    noticed.ready [.s 1 true] [.s 3] = true ∧ noticed.tile.ctx.mu = [.posted 0x40000 0x80000 true 0 5] ++
      .notice noticed.slot.run.off 1 (bits (noticed.slot.s 1) 15 0) 8 :: [] ∧
    (regs [(1, 7)]).ready [.s 1 true] [.s 3] = true ∧ (regs [(1, 7)]).tile.ctx.mu = [] ∧
    (∀ s ∈ [ownEmpty, regs [(1, 0x9000000000001000)]], s.ready [.s 1 true] [] = true ∧ ownWord s (s.slot.s 1) = true) ∧
    (∀ s ∈ [ownEmpty, regs [(1, 0x9000000000001000)]], s.tile.ctx.red = [] ∧ s.unreadable [(⟨.spad 0, 0x1000⟩, 8)] = false) ∧
    ownEmpty.tile.ctx.full 0x1000 = false ∧ base.tile.ctx.full 0x1000 = true ∧
    (regs [(1, 1)]).own = some pl ∧ pl.find 1 = some (.barrier ⟨false, 0, 0, 2, 1, 0, none, false, []⟩) ∧
    (regs [(1, 2)]).tile.ctx.engineOps 0x40000 2 = 0 ∧
    (∀ i < 6, base.slot.isFull (BitVec.ofNat 5 (i + 1)) = true) ∧ (∃ i < 6, oneOwed.slot.isFull (BitVec.ofNat 5 (i + 1)) = false) ∧
    min (regs [(1, 0)]).wafer.time (2 ^ 60 - 1) ≤ base.wafer.time ∧ base.wafer.time < min (7 : Word).toNat (2 ^ 60 - 1) := by
  decide +kernel

/-! ### Hypotheses met: accesses, barriers, messages, system -/

/-- The two tiles of a small state hold no lease. -/
theorem unleased_of {s : State} {nd : Need} {qs : List (Place × Nat)} (c : s.cur.tile = 0 ∧ s.wafer.tiles = [(1, other)])
    (l : s.tile.ctx.leases = []) : nd.store = true → ∀ q ∈ qs, unleased s q.1 q.2 := by
  intro _ q _ t _
  have k : (s.getTile t).ctx.leases = [] := by
    rw [getTile_two c.1 c.2]
    split
    · exact l
    · split <;> rfl
  simp [Ctx.leasedBy, k]

/-- The access checks pass there. -/
theorem passes_of {s : State} {nd : Need} {ps : List (Word × Nat)} {qs : List (Place × Nat)} (h : s.placed nd ps = .ok qs)
    (w : s.watched ps nd.rd nd.wr = none) (c : s.cur.tile = 0 ∧ s.wafer.tiles = [(1, other)]) (l : s.tile.ctx.leases = []) :
    passes s nd ps qs := ⟨h, w, unleased_of c l⟩

theorem witness_SpawnAndWake : unfenced base = true ∧ base.own = some pl ∧ base.owes = false ∧
    base.ready [.s 1 true, .s 2 true] [.s 3] = true ∧ base.ready [.s 1 true] [.s 3] = true ∧
    (let x : Word := 0x000000010000000F; bits x 63 48 = 0 ∧ bits x 47 32 < pl.count ∧ bits x 31 4 = 0) ∧
    (0x4 : Word).toNat % 4 = 0 ∧ (let x : Word := 0xA000000100040040; win x = 0xA ∧ wellFormed base.tiles x 1 = true ∧ x.toNat % 64 = 0) ∧
    (let x : Word := 0x9000000000040040; win x = 0x9 ∧ wellFormed base.tiles x 1 = true ∧ x.toNat % 64 = 0 ∧
      bits x 47 32 = base.tile.ctx.n) := by decide +kernel

/-- A word of the own scratchpad through window 0x9, of the other tile through 0xA, and of the mapped page. -/
def atOwn : State := regs [(1, 0x90000000000FFFF0), (2, 7)]
def atOther : State := regs [(1, 0xA000000100001000), (2, 7)]
def atPage : State := regs [(1, 0xFF0), (2, 7)]

theorem witness_FullEmptyIssue : unfenced atOwn = true ∧ reaches atOwn 1 1 8 true 0x90000000000FFFF8 ∧
    atOwn.ready [.s 1 true] [.s 3] = true ∧ atOwn.ready [.s 2 true, .s 1 true] [] = true ∧
    (∀ b, passes atOwn (needFe b) [(0x90000000000FFFF8, 8)] [(⟨.spad 0, 0xFFFF8⟩, 8)]) :=
  ⟨by decide +kernel, ⟨by decide +kernel, by decide +kernel⟩, by decide +kernel, by decide +kernel,
    fun b => by cases b <;> exact passes_of (by decide +kernel) (by decide +kernel) (by decide +kernel) rfl⟩

/-- The first step of spec/06 R93 that a pointer fails, from what its window fixes. -/
theorem fails_of {s : State} {tiles n : Nat} {p : Word} {fe store : Bool} {c : Cause} {r : List (Nat × Nat)} {t z : Nat}
    (h : windowFields (win p) = some (r, t, z))
    (k : let out := ((∃ f ∈ r, bits p f.1 f.2 ≠ 0) ∨ z < bits p t 0 + n ∨ (win p = 0x8 ∧ 8 ≤ bits p 35 32) ∨
        ((win p = 0x9 ∨ win p = 0xA ∨ win p = 0xB) ∧ tiles ≤ bits p 47 32)) ∨ (fe = true ∧ (win p = 0x0 ∨ win p = 0xB))
      (c = .windowRange ∧ out) ∨ (c = .foreignWindow ∧ ¬out ∧ namesOther s p) ∨
      (c = .misaligned ∧ ¬out ∧ ¬namesOther s p ∧ p.toNat % n ≠ 0) ∨
      (c = .caskWrite ∧ ¬out ∧ ¬namesOther s p ∧ p.toNat % n = 0 ∧ store = true ∧ win p = 0xB)) :
    firstFails s tiles p n fe store c := by
  simpa only [firstFails, outOfRange, h] using k

/-- A pointer stays where it is under a displacement of 0. -/
theorem stays {tiles : Nat} {b : Word} {r : List (Nat × Nat)} {t z : Nat} (h : windowFields (win b) = some (r, t, z))
    (k : ¬((∃ f ∈ r, bits b f.1 f.2 ≠ 0) ∨ z < bits b t 0 + 1 ∨ (win b = 0x8 ∧ 8 ≤ bits b 35 32) ∨
        ((win b = 0x9 ∨ win b = 0xA ∨ win b = 0xB) ∧ tiles ≤ bits b 47 32)))
    (m : (b.toNat % 2 ^ offWidth (win b) : Nat) ≤ offLimit (win b)) : moved tiles b 0 b := by
  refine ⟨by simpa only [outOfRange, h] using k, by omega, by omega, ?_⟩
  rw [Int.add_zero, Int.toNat_natCast, Nat.div_add_mod', BitVec.ofNat_toNat, BitVec.setWidth_eq]

/-- Bytes beyond the window, a full/empty operation in window 0x0, another tile, another slot, an odd address, a cask; a
reserved window; and an offset that leaves its field below. -/
theorem witness_PointerTraps : unfenced base = true ∧ base.own = some pl ∧
    (([0x90000000000FFFFC, 0xFF0, 0x9000000100001000, 0x8000000140000000, 0x9000000000001004, 0xB000000100000000,
      0x1000000000000000, 0x9000000000000000] : List Word).all fun b =>
      (regs [(1, b)]).ready [.s 1 true] [.s 3] && (regs [(1, b)]).ready [.s 3 true, .s 1 true] []) = true ∧
    (moved 2 0x90000000000FFFFC 0 0x90000000000FFFFC ∧
      ∀ fe store, firstFails base 2 0x90000000000FFFFC 8 fe store .windowRange) ∧
    (moved 2 0xFF0 0 0xFF0 ∧ ∀ store, firstFails base 2 0xFF0 8 true store .windowRange) ∧
    (moved 2 0x9000000100001000 0 0x9000000100001000 ∧
      ∀ fe store, firstFails base 2 0x9000000100001000 8 fe store .foreignWindow) ∧
    (moved 2 0x8000000140000000 0 0x8000000140000000 ∧
      ∀ fe store, firstFails base 2 0x8000000140000000 8 fe store .foreignWindow) ∧
    (moved 2 0x9000000000001004 0 0x9000000000001004 ∧
      ∀ fe store, firstFails base 2 0x9000000000001004 8 fe store .misaligned) ∧
    (moved 2 0xB000000100000000 0 0xB000000100000000 ∧ firstFails base 2 0xB000000100000000 8 false true .caskWrite) ∧
    (∀ p, ¬moved 2 0x1000000000000000 0 p) ∧ ∀ p, ¬moved 2 0x9000000000000000 (-8) p := by
  have w0 : windowFields (win 0xFF0) = some ([(59, 57)], 56, 2 ^ 57) := by decide +kernel
  have w8 : windowFields (win 0x8000000140000000) = some ([(59, 36), (29, 13)], 12, 0x2000) := by decide +kernel
  have wB : windowFields (win 0xB000000100000000) = some ([(59, 48), (31, 23), (21, 21)], 20, 2 ^ 21) := by decide +kernel
  have r9 : windowFields (win 0x90000000000FFFFC) = some ([(59, 48), (31, 20)], 19, 2 ^ 20) := by decide +kernel
  have f9 : windowFields (win 0x9000000100001000) = some ([(59, 48), (31, 20)], 19, 2 ^ 20) := by decide +kernel
  have m9 : windowFields (win 0x9000000000001004) = some ([(59, 48), (31, 20)], 19, 2 ^ 20) := by decide +kernel
  refine ⟨by decide +kernel, by decide +kernel, by decide +kernel, ⟨stays r9 (by decide +kernel) (by decide +kernel), fun _ _ => ?_⟩,
    ⟨stays w0 (by decide +kernel) (by decide +kernel), fun _ => ?_⟩, ⟨stays f9 (by decide +kernel) (by decide +kernel), fun fe _ => ?_⟩,
    ⟨stays w8 (by decide +kernel) (by decide +kernel), fun fe _ => ?_⟩, ⟨stays m9 (by decide +kernel) (by decide +kernel), fun fe _ => ?_⟩,
    ⟨stays wB (by decide +kernel) (by decide +kernel), ?_⟩, fun p h => h.1 ?_, fun p h => absurd h.2.1 (by decide +kernel)⟩
  · exact fails_of r9 (.inl ⟨rfl, .inl (.inr (.inl (by decide +kernel)))⟩)
  · exact fails_of w0 (.inl ⟨rfl, .inr ⟨rfl, by decide +kernel⟩⟩)
  · exact fails_of f9 (.inr (.inl ⟨rfl, by cases fe <;> decide +kernel, by unfold namesOther; decide +kernel⟩))
  · exact fails_of w8 (.inr (.inl ⟨rfl, by cases fe <;> decide +kernel, by unfold namesOther; decide +kernel⟩))
  · exact fails_of m9 (.inr (.inr (.inl ⟨rfl, by cases fe <;> decide +kernel, by unfold namesOther; decide +kernel, by decide +kernel⟩)))
  · exact fails_of wB (.inr (.inr (.inr ⟨rfl, by decide +kernel, by unfold namesOther; decide +kernel, by decide +kernel, rfl, by decide +kernel⟩)))
  · simp only [outOfRange, (by decide +kernel : windowFields (win 0x1000000000000000) = none)]

theorem witness_LoadAndStore : unfenced atPage = true ∧ atPage.ready [.s 1 true] [.s 3] = true ∧
    atPage.ready [.s 2 true, .s 1 true] [] = true ∧ atPage.ready [] [.s 3] = true ∧
    litAt atPage.slot.pc 2 = literal atPage 2 ∧ atPage.unreadable [(⟨.edge, 16⟩, 8)] = false ∧
    prefetches (regs [(1, 0x1000)]) 0x1000 ∧ ¬prefetches atPage 0xFF0 ∧
    reaches atPage 1 1 (ldBytes .d) false 0xFF8 ∧ passes atPage needLd [(0xFF8, 8)] [(⟨.edge, 0xFF8⟩, 8)] ∧
    reaches atPage 1 (-1) (stBytes .w) false 0xFEC ∧ passes atPage needSt [(0xFEC, 4)] [(⟨.edge, 0xFEC⟩, 4)] ∧
    passes atPage needCode [(litAt atPage.slot.pc 2, 8)] [(⟨.edge, 16⟩, 8)] ∧
    (let s := regs [(1, 0xB0000001001FFFF0)]; s.ready [.s 1 true] [] = true ∧ s.ready [.s 1 true] [.s 3] = true ∧
      addOff s.tiles (s.slot.s 1) ((1 : BitVec 12).toInt * 8) = some 0xB0000001001FFFF8 ∧
      wellFormed s.tiles 0xB0000001001FFFF8 1 = true) ∧
    addOff atPage.tiles (atPage.slot.s 1) ((1 : BitVec 12).toInt * 8) = some 0xFF8 := by
  and_intros <;> first
    | decide +kernel
    | exact unleased_of (by decide +kernel) rfl
    | (unfold prefetches; decide +kernel)

theorem witness_AtomicIssue : unfenced atOwn = true ∧ atOwn.own = some pl ∧
    atOwn.ready [.s 1 true, .s 2 true] [.s 3] = true ∧ atOwn.ready [.s 1 true, .s 2 true, .s 3 false] [.s 3] = true ∧
    atOwn.ready [.s 1 true] [.s 3] = true ∧ accepts atOwn .tile (atOwn.slot.s 1) ∧ accepts atOther .plot (atOther.slot.s 1) ∧
    accepts atPage .system (atPage.slot.s 1) ∧ amoReaches atOwn (atOwn.slot.s 1) 8 ⟨.spad 0, 0xFFFF0⟩ ∧
    amoReaches atOther (atOther.slot.s 1) 4 ⟨.spad 1, 0x1000⟩ ∧ amoReaches atPage (atPage.slot.s 1) 8 ⟨.edge, 0xFF0⟩ ∧
    ¬accepts atOther .tile (atOther.slot.s 1) ∧ win (atOther.slot.s 1) ≠ 0xB ∧ namesOwn atOwn (atOwn.slot.s 1) ∧
    ¬namesOwn atOther (atOther.slot.s 1) ∧ atOther.ready [.s 1 true, .s 2 true, .s 3 false] [.s 3] = true ∧
    atOther.ready [.s 1 true, .s 2 true] [] = true := by
  refine ⟨by decide +kernel, by decide +kernel, by decide +kernel, by decide +kernel, by decide +kernel,
    by unfold accepts namesOwn; decide +kernel, by unfold accepts; decide +kernel, by unfold accepts; decide +kernel,
    ⟨by decide +kernel, by decide, [], passes_of (by decide +kernel) (by decide +kernel) (by decide +kernel) rfl⟩,
    ⟨by decide +kernel, by decide, [], passes_of (by decide +kernel) (by decide +kernel) (by decide +kernel) rfl⟩,
    ⟨by decide +kernel, by decide, [], passes_of (by decide +kernel) (by decide +kernel) (by decide +kernel) rfl⟩,
    by unfold accepts namesOwn; decide +kernel, by decide +kernel, by unfold namesOwn; decide +kernel,
    by unfold namesOwn; decide +kernel, by decide +kernel, by decide +kernel⟩

/-- A state with a load of the running record in flight. -/
def loading : State := { base with flights := [access (.s 9) .ld 0 (.read [(⟨.spad 0, 0⟩, 8)] (.scalar .d))] }

/-- A store of the running record behind one that stood at a publish point. -/
def behindPub : State :=
  let f := access .none .st 1 (.write [(⟨.spad 1, 0x1000⟩, [1])])
  { base with flights := [{ f with pub := true, st := .retry }, f] }

theorem witness_FenceResult : base.slot.badWrite = none ∧ loading.slot.badWrite = none ∧
    loading.outstanding (predClasses 1) = true ∧ loading.outstanding (predClasses 2) = false ∧
    base.outstanding [.ld, .st, .fe, .amo, .msg] = false ∧ loading.outstanding [.ld, .st, .fe, .amo, .msg] = true ∧
    (behindPub.flights.all fun f => f.pkt.unit == 0 && f.isWrite) = true ∧
    (behindPub.flights.map fun g => (g.pub, g.of 0 0 base.slot.run.off)) = [(true, true), (false, true)] := by
  decide +kernel

theorem witness_BarrierIssue :
    namesBarrier (regs [(1, 1), (2, 65535)]) 1 ⟨false, 0, 0, 2, 1, 0, none, false, []⟩ ∧
    namesBarrier (regs [(1, 2), (2, 0)]) 2 ⟨true, 0, 1, 1, 0, 0, none, false, []⟩ ∧
    (let s := regs [(1, 1), (2, 65535)]; s.ready [.s 1 true, .s 2 true] [] = true ∧ s.ready [.s 1 true] [.s 3] = true ∧
      s.ready [.s 1 true, .s 2 true] [.s 3] = true ∧ 1 ≤ (s.slot.s 2).toNat ∧ (s.slot.s 2).toNat < 65536) ∧
    hasCompleted ⟨true, 0, 1, 1, 0, 0, none, false, []⟩ 0 ∧
    (let s := onTile (fun x => { x with clk := 100 }) (onSlot (fun x => { x with waitFrom := some 0 }) (regs [(1, 2), (2, 0)])); s.bwaitAt ⟨true, 0, 1, 1, 0, 0, none, false, []⟩ 0 0 ≤ s.now) ∧
    ¬hasCompleted ⟨false, 0, 0, 2, 1, 0, none, false, []⟩ 0 ∧ (∀ q, base.own = some q → q.find 6 = none) ∧
    (let s := regs [(1, 6), (2, 1)]; bits (s.slot.s 1) 31 0 = 6 ∧ s.ready [.s 1 true, .s 2 true] [] = true ∧
      s.ready [.s 1 true] [.s 3] = true ∧ s.ready [.s 1 true, .s 2 true] [.s 3] = true) := by
  refine ⟨⟨⟨pl, by decide +kernel, by decide +kernel⟩, .inr (by decide +kernel)⟩,
    ⟨⟨pl, by decide +kernel, by decide +kernel⟩, .inl rfl⟩, by decide +kernel, ⟨1, by decide, by decide, by decide⟩,
    by decide +kernel, ?_, ?_, by decide +kernel⟩
  · rintro ⟨k, h₁, h₂, h⟩; simp only at h; omega
  · intro q h
    have e : base.own = some pl := by decide +kernel
    rw [e] at h; cases h; decide +kernel

theorem witness_SendIssue : unfenced atOwn = true ∧ atOwn.outstanding [.st, .fe, .amo] = false ∧
    bits (0xFFFF : Word) 63 16 = 0 ∧ (regs [(1, 0xFFFF), (2, 0x10005), (3, 0x90000000000FFFF0)]).ready
      [.s 1 true, .s 2 true, .s 3 false] [] = true ∧ bits (0x10005 : Word) 63 22 = 0 ∧ namesOwn base 0x90000000000FFFF0 ∧
    base.ptrCause 0x90000000000FFFF0 16 8 false = none ∧ noHidden base (base.placeOf 0x90000000000FFFF0) 16 ∧
    base.unreadable [(base.placeOf 0x90000000000FFFF0, 16)] = false ∧ base.banksFree [(base.placeOf 0x90000000000FFFF0, 16)] = true ∧
    base.ready [.s 1 true, .s 2 true, .v 0] [] = true :=
  ⟨by decide +kernel, by decide +kernel, by decide +kernel, by decide +kernel, by decide +kernel,
    by unfold namesOwn; decide +kernel, by decide +kernel, noHidden_base _ _, by decide +kernel, by decide +kernel, by decide +kernel⟩

/-- A message waits in the lees queue, and a receive is posted under another key. -/
def receiving : State := onCtx (fun c => { c with lees := [⟨1, 5, [1, 2, 3, 4, 5, 6, 7, 8]⟩], mu := [.posted 0x40000 0x80000 false 1 6] })
  (regs [(1, 0x90000000000FFE00), (2, 0x10005), (4, 0x10006), (5, 0x10007)])

theorem witness_ReceiveResult : unfenced receiving = true ∧ receiving.ready [.s 1 true, .s 2 true] [] = true ∧
    isBuffer receiving (receiving.slot.s 1) ∧ bits (receiving.slot.s 2) 63 33 = 0 ∧ receiving.tile.ctx.mu.length < 128 ∧
    receiving.tile.ctx.lees = [] ++ ⟨1, 5, [1, 2, 3, 4, 5, 6, 7, 8]⟩ :: [] ∧ matchesKey (receiving.slot.s 2) 1 5 ∧
    ¬matchesKey (receiving.slot.s 5) 1 5 ∧ receiving.tile.ctx.leased 0xFFE00 8 = false ∧
    receiving.tile.ctx.leasedBy 0 0 0xFFE00 8 = false ∧ receiving.banksFree [(⟨.spad 0, 0xFFE00⟩, 8)] = true ∧ receiving.flights = [] ∧
    receiving.ready [.s 4 true] [.s 3] = true ∧ bits (receiving.slot.s 4) 63 33 = 0 ∧
    receiving.tile.ctx.mu = [] ++ MuEntry.posted receiving.slot.run.off 0x80000 (bits (receiving.slot.s 4) 32 32 == 1)
      (bits (receiving.slot.s 4) 31 16) (bits (receiving.slot.s 4) 15 0) :: [] ∧
    base.tile.ctx.mu = [] ∧ base.tile.ctx.lees = [] ∧ receiving.ready [.s 1 true] [.s 3] = true ∧
    receiving.ready [] [.s 3] = true := by
  refine ⟨by decide +kernel, by decide +kernel, by unfold isBuffer; decide +kernel, by decide +kernel, by decide +kernel, rfl,
    by unfold matchesKey; decide +kernel, by unfold matchesKey; decide +kernel, by decide +kernel, by decide +kernel, by decide +kernel, rfl, by decide +kernel,
    by decide +kernel, by decide +kernel, rfl, rfl, by decide +kernel, by decide +kernel⟩

theorem witness_MulticastIssue : (let s := regs [(1, 4), (2, 7), (3, 56)];
    unfenced s = true ∧ s.ready [.s 1 true, .s 2 true, .s 3 false] [] = true ∧ s.own = some pl ∧
    pl.find (bits (s.slot.s 1) 31 0) = some (.replica 64 [⟨[(⟨.spad 0, 0x2000⟩, 64)], none, none⟩, ⟨[(⟨.spad 1, 0x2000⟩, 64)], none, none⟩]) ∧
    (s.slot.s 3).toNat % 8 = 0 ∧ (s.slot.s 3).toNat < 64 ∧
    ([⟨[(⟨.spad 0, 0x2000⟩, 64)], none, none⟩, ⟨[(⟨.spad 1, 0x2000⟩, 64)], none, none⟩] : List Member).all (fun m =>
      !s.guardedWord m 56 && m.away.isNone && match (m.word 56).sp with
        | .spad t => !(s.getTile t).ctx.leasedBy s.cur.tile s.cur.core (m.word 56).off 8
        | _ => true) ∧
    s.memberWatched 56 [⟨[(⟨.spad 0, 0x2000⟩, 64)], none, none⟩, ⟨[(⟨.spad 1, 0x2000⟩, 64)], none, none⟩] = none) ∧
    (64 : Nat) ≤ (64 : Word).toNat ∧ (57 : Word).toNat % 8 ≠ 0 ∧ pl.find (bits (6 : Word) 31 0) = none := by decide +kernel

/-- The slot at hand halted by the cellar. -/
def halted : State := onSlot (fun x => { x with mode := .halted }) base

/-- The same halted by a freeze of its slot, its trap record held for want of space in its ring. -/
def heldHalt : State :=
  onWafer (fun w => { w with dies := [(0, { Die.reset with heldTrap := [(ringOf pl.asid, .slot ⟨0, 0, 0⟩, Vector.replicate 8 0)] })] })
    (onSlot (fun x => { x with byFreeze := some (.slot ⟨0, 0, 0⟩) }) halted)

theorem witness_SystemResult : haltTarget .fx48 pl 0 = some (.slot ⟨0, 0, 0⟩) ∧ heldHalt.own = some pl ∧
    heldHalt.slot.mode = .halted ∧ heldHalt.slot.isFull 1 = true ∧ heldHalt.thawReady (.slot heldHalt.cur) = false ∧ base.own = some pl ∧ base.ready [.s 1 true, .s 2 true] [.s 3] = true ∧
    bits (0x1FFFF : Word) 63 17 = 0 ∧ base.callsOut < 4 ∧ base.outstanding [.st, .fe, .amo] = false ∧
    base.ready [.s 1 true] [] = true ∧ (0 : Word).toNat ≤ base.wafer.time ∧ base.wafer.time < (1 : Word).toNat ∧
    halted.slot.mode = .halted ∧ pl.at 0 = halted.cur.tile ∧ halted.slot.isFull 1 = true ∧
    (haltTarget .fx48 pl 0).isSome = true ∧ haltTarget .fx48 pl (BitVec.allOnes 64) = none ∧ bits (1 : Word) 63 1 = 0 ∧
    base.slot.mode ≠ .halted ∧ halted.thawReady (.slot halted.cur) = true ∧ pl.frozen = false ∧ (base.getTile 0).frozen = false ∧
    ((onWafer (fun w => { w with plots := [{ pl with frozen := true }] }) halted).own.map fun p => (p.frozen, p.at 0)) = some (true, 0) := by
  decide +kernel

theorem witness_QueryResult : base.ready [] [.s 3] = true ∧ base.own = some pl := by decide +kernel

theorem witness_EngineRegisters : base.ready [.s 1 false] [] = true ∧ base.ready [] [.s 3] = true ∧
    base.tile.ctx.engineOps base.slot.run.off (engNum .ce) = 0 ∧ vget base.tile.ctx.mq base.cur.core [] = [] ∧
    base.slot.mwait = none := by decide +kernel

/-! ### Hypotheses met: engines, the matrix unit, vectors -/

/-- A state with engine registers of a copy: rows of 64 bytes, 4 of them, pitches 64; barrier 1 in ce.bar. -/
def copying (dst src val : Word) : State :=
  onSlot (fun x => { x with ce := #v[64, 4, 64, 64, 0, 0, 1] }) (regs [(1, dst), (2, src), (3, val)])

theorem copyPtr {s : State} {w : Word} {n : Nat} {dst : Bool} (h : s.ptrCause w n 1 false = none)
    (k : dst = true → win w ≠ 0xB) : copyOperandOk s false w n dst := by
  simp only [copyOperandOk, Bool.false_eq_true, if_false]; exact ⟨h, k⟩

theorem witness_CopyIssue :
    (let s := copying 0x9000000000002000 0xA000000100003000 7
     unfenced s = true ∧ s.ready [.s 1 false, .s 2 false, .s 3 false] [] = true ∧ copyShapeOk s.slot.ce ∧
      bits (s.slot.s 3) 63 63 = 0 ∧ copyOperandOk s false (s.slot.s 1) (dstExtent s.slot.ce) true ∧
      copyOperandOk s false (s.slot.s 2) (srcExtent s.slot.ce) false ∧ doneOk s (vget s.slot.ce 5 0) ∧
      bits (vget s.slot.ce 6 0) 63 32 = 0 ∧ namesBarrier s 1 ⟨false, 0, 0, 2, 1, 0, none, false, []⟩ ∧
      s.tile.ctx.ceq.length < 32) ∧
    (let s := copying 0x0000010000000003 0x0000000000000003 7
     unfenced s = true ∧ s.ready [.s 1 false, .s 2 false, .s 3 false] [] = true ∧
      copyOperandOk s true (s.slot.s 1) (dstExtent s.slot.ce) true ∧ copyOperandOk s true (s.slot.s 2) (srcExtent s.slot.ce) false) := by
  have e : ∀ (w : Word) (dst : Bool), pl.find (bits w 31 0) = some (.region (.ptr 0x9000000000001000) 4096 true) →
      bits w 63 32 + 256 ≤ 4096 →
      extentOk (copying 0x0000010000000003 0x0000000000000003 7) (0x9000000000001000 + BitVec.ofNat 64 (bits w 63 32)) 256 dst →
      copyOperandOk (copying 0x0000010000000003 0x0000000000000003 7) true w 256 dst := fun w dst h₁ h₂ h₃ =>
    ⟨pl, .ptr 0x9000000000001000, 4096, true, by decide +kernel, h₁, h₂, fun q h => by cases h; exact h₃⟩
  refine ⟨⟨by decide +kernel, by decide +kernel, by unfold copyShapeOk; decide +kernel, by decide +kernel,
    copyPtr (by decide +kernel) (by decide +kernel), copyPtr (by decide +kernel) (by decide +kernel), by unfold doneOk; decide +kernel,
    by decide +kernel, ⟨⟨pl, by decide +kernel, by decide +kernel⟩, .inr (by decide +kernel)⟩, by decide +kernel⟩,
    by decide +kernel, by decide +kernel, e _ _ (by decide +kernel) (by decide +kernel) (by unfold extentOk; decide +kernel),
    e _ _ (by decide +kernel) (by decide +kernel) (by unfold extentOk; decide +kernel)⟩

/-- A decant of 64 bytes from address 0 into every tile of the plot; a filling vintage under handle 5. -/
def decanting : State := onSlot (fun x => { x with de := #v[64, 0, 0, 2, 64, 0] }) (regs [(1, 5), (2, 0), (3, 7)])

/-- The same from a source whose last byte, or whose first, lies above window 0. -/
def decantingFrom (src : Word) : State := onSlot (fun x => x.write 2 src) decanting

/-- The plot with that vintage in another state. -/
def vintageIn (st count : Nat) : State :=
  onWafer (fun w => { w with plots := [pl.put 5 (.vintage ⟨st, false, count, 0, 0⟩)] }) (regs [(1, 5)])

theorem witness_VintageResult : decanting.own = some pl ∧
    pl.find (bits (decanting.slot.s 1) 31 0) = some (.vintage ⟨1, false, 0, 0, 0⟩) ∧
    decanting.ready [.s 1 false, .s 2 false, .s 3 false] [] = true ∧ unfenced decanting = true ∧
    decantBad decanting.tiles decanting.slot.de (decanting.slot.s 3) (decanting.slot.s 2) = none ∧
    decanting.ptrCause (decanting.slot.s 2) (decantExtent decanting.slot.de) 1 false = none ∧
    doneOk decanting (vget decanting.slot.de 5 0) ∧ decanting.tile.ctx.deq.length < 32 ∧
    (([0x01FFFFFFFFFFFFC0, 0x0200000000000000] : List Word).all fun src =>
      let s := decantingFrom src
      s.ready [.s 1 false, .s 2 false, .s 3 false] [] && s.own == some pl && unfenced s
        && decantBad s.tiles s.slot.de (s.slot.s 3) src == none && s.slot.s 2 == src && !wellFormed s.tiles src 128) = true ∧
    wellFormed decanting.tiles 0x01FFFFFFFFFFFFC0 1 = true ∧ wellFormed decanting.tiles 0x0200000000000000 1 = false ∧
    decanting.ready [.s 1 false] [.s 4] = true ∧ (vintageIn 3 65535).ready [] [.s 4] = true ∧ decanting.outstanding fenceAll = false ∧ pl.current = none ∧
    ((vintageIn 3 65535).own.map fun p => p.current) = some (some (5, ⟨3, false, 65535, 0, 0⟩)) ∧
    ((vintageIn 3 1).own.map fun p => (p.current, p.find 5)) =
      some (some (5, ⟨3, false, 1, 0, 0⟩), some (.vintage ⟨3, false, 1, 0, 0⟩)) := by
  and_intros <;> first
    | decide +kernel
    | (unfold doneOk; decide +kernel)

/-- Matrix registers: one row, column and step of i8 operands, drained as i32; operands in the own scratchpad. -/
def matrixRegs : Vector Word 18 := #v[1, 1, 1, 1, 1, 3, 0, 0, 0, 0, 0, 0, 0, 0, 0, 0, 0, 0]
def multiplying : State := onCtx (fun c => { c with fctx := vset c.fctx 0 matrixRegs })
  (regs [(1, 0x9000000000002000), (2, 0x9000000000003000), (3, 100), (4, 16)])

/-- The same with the two descriptors of `mmas` at 0x1000 and 0x1020. -/
def described : State :=
  onCtx (fun c => { c with spad := [(0x1001, 0x20), (0x1007, 0x90), (0x1021, 0x30), (0x1027, 0x90)] ++ c.spad })
    (onSlot (fun x => (x.write 1 0x9000000000001000).write 2 0x9000000000001020) multiplying)

theorem regions_of {s : State} {b : Word} {rs : List (Option Word × Word × Nat)}
    (h : (rs.all fun r => match r.1 with
      | some p => s.ptrCause p r.2.2 1 false == none && ownOperand s p
      | none => false) = true) (k : b.toNat % 64 = 0) : regionsOk s b rs := by
  refine ⟨fun r m => ?_, k⟩
  have := List.all_eq_true.mp h r m
  split at this
  · rename_i p e; exact ⟨p, e, by simpa using this⟩
  · cases this

theorem witness_MatrixIssue :
    (let s := multiplying
     let r := vget s.tile.ctx.fctx s.cur.core (Vector.replicate 18 0)
     unfenced s = true ∧ hasRoom s ∧ s.ready [.s 1 false, .s 2 false] [] = true ∧ mmaBad r = none ∧
      operandOk s (s.slot.s 1) (aExtent r) ∧ operandOk s (s.slot.s 2) (bExtent r) ∧
      (∀ raw rows, transferBad r raw rows = none) ∧
      (∀ op ∈ [MxOp.mld, .mdrain, .mdrainRows], s.ptrCause (s.slot.s 1) (transferExtent op r) (transferSize op r) false = none) ∧
      (∀ op ∈ [MxOp.mldRaw, .mdrainRaw], s.ptrCause (s.slot.s 1) (transferExtent op r) 8 false = none) ∧
      win (s.slot.s 1) ≠ 0xB ∧ s.ready [.s 3 true, .s 4 true] [] = true ∧ 1 ≤ (s.slot.s 3).toNat ∧
      (s.slot.s 3).toNat ≤ 65535 ∧ (s.slot.s 4).toNat ≤ 16) ∧
    (hasRoom base ∧ base.ready [.s 1 false, .s 2 false] [] = true ∧
      mmaBad (vget base.tile.ctx.fctx base.cur.core (Vector.replicate 18 0)) = some 0 ∧
      (∀ raw rows, (transferBad (vget base.tile.ctx.fctx base.cur.core (Vector.replicate 18 0)) raw rows).isSome = true) ∧
      (let s := regs [(1, 0), (2, 65536), (3, 65535), (4, 17)]
       s.ready [.s 3 true, .s 4 true] [] = true ∧ hasRoom s ∧ ¬(1 ≤ (s.slot.s 1).toNat) ∧ ¬((s.slot.s 2).toNat ≤ 65535) ∧
        1 ≤ (s.slot.s 3).toNat ∧ (s.slot.s 3).toNat ≤ 65535 ∧ 16 < (s.slot.s 4).toNat)) ∧
    (let s := described
     let r := vget s.tile.ctx.fctx s.cur.core (Vector.replicate 18 0)
     let pa := s.slot.s 1
     let pb := s.slot.s 2
     let d := descOf s pa pb
     unfenced s = true ∧ hasRoom s ∧ s.ready [.s 1 false, .s 2 false] [] = true ∧ descOk s pa ∧ descOk s pb ∧
      noHidden s (s.placeOf pa) 32 ∧ noHidden s (s.placeOf pb) 32 ∧
      s.unreadable [(s.placeOf pa, 32), (s.placeOf pb, 32)] = false ∧ s.banksFree [(s.placeOf pa, 32), (s.placeOf pb, 32)] = true ∧ (∀ f ∈ s.flights, s.mine f = true → f.waiting = false) ∧
      descBad (vget d 1 0) = false ∧ descBad (vget d 5 0) = false ∧ mmaBad r = none ∧
      regionsOk s (vget d 0 0) (descRegions s.tiles (vget d 0 0) (vget d 1 0) (meM r)
        ((storedK r * (fmtEl (meFa r)).bits + 7) / 8)
        (if meSa r then some (vget d 2 0, meM r * scaleBlocks r) else none)
        (if mePat r = 0 then none else some (vget d 3 0, meM r * maskBytes r))) ∧
      regionsOk s (vget d 4 0) (descRegions s.tiles (vget d 4 0) (vget d 5 0) (meK r)
        ((meN r * (fmtEl (meFb r)).bits + 7) / 8)
        (if meSb r then some (vget d 6 0, scaleBlocks r * meN r) else none) none) ∧
      (meSa r = false → vget d 2 0 = 0) ∧ (mePat r = 0 → vget d 3 0 = 0) ∧ (meSb r = false → vget d 6 0 = 0) ∧
      vget d 7 0 = 0) := by
  refine ⟨⟨by decide +kernel, by unfold hasRoom; decide +kernel, by decide +kernel, by decide +kernel,
    by unfold operandOk; decide +kernel, by unfold operandOk; decide +kernel, by decide +kernel⟩,
    ⟨by unfold hasRoom; decide +kernel, by decide +kernel, by decide +kernel, by decide +kernel, by decide +kernel,
      by unfold hasRoom; decide +kernel, by decide +kernel⟩,
    by decide +kernel, by unfold hasRoom; decide +kernel, by decide +kernel, by unfold descOk; decide +kernel,
    by unfold descOk; decide +kernel, noHidden_two (x := other) (by decide +kernel) (by decide +kernel) (by decide +kernel) rfl _ _,
    noHidden_two (x := other) (by decide +kernel) (by decide +kernel) (by decide +kernel) rfl _ _, by decide +kernel, by decide +kernel,
    (fun f h => by rw [show described.flights = [] by decide +kernel] at h; cases h), by decide +kernel, by decide +kernel,
    by decide +kernel, regions_of (by decide +kernel) (by decide +kernel), regions_of (by decide +kernel) (by decide +kernel),
    by decide +kernel⟩

/-- A core whose vector datapath is taken. -/
def vecTaken : State := onCtx (fun c => { c with vecAt := Vector.replicate 8 5 }) base

theorem witness_VectorFloat : vecReady base [.v 0, .v 1] [.v 2] ∧ vecReady base [.v 0, .v 1, .v 2] [.v 2] ∧
    vecReady base [.v 0] [.v 2] ∧ vecTaken.ready [.v 0, .v 1] [.v 2] = true ∧
    vecTaken.ready [.v 0, .v 1, .v 2] [.v 2] = true ∧ vecTaken.ready [.v 0] [.v 2] = true ∧ ¬pathFree vecTaken := by
  and_intros <;> first
    | decide +kernel
    | exact free_base
    | (unfold pathFree; decide +kernel)

theorem witness_VectorInteger : vecReady base [.v 0, .v 1] [.v 2] ∧ vecReady base [.v 0] [.v 2] ∧
    (∀ t ∈ [ElemTy.i4, .i8, .i16, .i32, .i64, .n8, .n16, .n32, .n64], t.isInt = true) := by
  and_intros <;> first
    | decide +kernel
    | exact free_base

theorem witness_VectorCompare : vecReady base [.v 0, .v 1] [.v 2] ∧ vecReady base [.v 0] [.v 2] ∧
    vecReady base [.v 0, .v 1, .v 2] [.v 2] := by
  and_intros <;> first
    | decide +kernel
    | exact free_base

/-- Groups of 1, 2, 4 and 8 registers, the last one beginning at v15 and going on at v0. -/
theorem witness_VectorConvert :
    (∀ e ∈ [(ElemTy.f32, ElemTy.bf16, (2 : VNum)), (.bf16, .f32, 2), (.i8, .i32, 14), (.b8, .i64, 15)],
      vecReady base [.v 0] (groupOf e.2.2 (widens e.1 e.2.1))) ∧ vecReady base [.v 0] [.v 2] := by
  have ready : ∀ e ∈ [(ElemTy.f32, ElemTy.bf16, (2 : VNum)), (.bf16, .f32, 2), (.i8, .i32, 14), (.b8, .i64, 15)],
      base.ready [.v 0] (groupOf e.2.2 (widens e.1 e.2.1)) = true := by decide +kernel
  exact ⟨fun e m => ⟨ready e m, free_base⟩, by decide +kernel, free_base⟩

theorem witness_BlockFormats : ElemTy.f32.isFloat = true ∧ ElemTy.bf16.isFloat = true ∧
    vecReady base [.v 0, .v 1] [.v 2] ∧ vecReady base [.v 0, .v 1] (groupOf 2 (natRegs .f32)) ∧
    vecReady base ((List.range (natRegs .f32)).map (fun k => Src.v (0 + BitVec.ofNat 4 k)) ++ [.v 2]) [.v 3] ∧
    vecReady base [.v 0] [.v 2] ∧ vecReady base ((List.range (natRegs .f32)).map fun k => Src.v (0 + BitVec.ofNat 4 k)) [.v 2] := by
  and_intros <;> first
    | decide +kernel
    | exact free_base

/-- The registers of all lanes ABSENT for i8 and for f32. -/
theorem witness_VectorReduce : vecReady base [.v 0] [.v 2] ∧ present .i8 (base.slot.v 0) ≠ [] ∧
    present .i8 (BitVec.ofNat 4096 (0x80 * ((2 ^ 4096 - 1) / 255))) = [] ∧
    (∃ c ∈ present .f32 (BitVec.ofNat 4096 0x7FC00000), (Ty.decode (.el .f32) c).isNan = true) := by
  and_intros <;> first
    | decide +kernel
    | exact free_base

theorem witness_VectorMove : vecReady base [.v 0, .v 1] [.v 2] ∧ vecReady base [.s (sNum 1) false, .v 0] [.v 2] ∧
    vecReady base [.v 0] [.v 2] ∧ vecReady base [.s (sNum 0) false] [.v 2] ∧ vecReady base [] [.v 2] ∧
    vecReady base [.s (sNum 0) false, .s (sNum 1) false, .v 2] [.v 2] ∧ vecReady base [.s (sNum 0) false, .v 2] [.v 2] ∧
    vecReady base [.v 0, .v 2] [.v 2] ∧ vecReady base [.s (sNum 1) false, .v 0] [.s (sNum 2)] ∧
    vecReady base [.v 0] [.s (sNum 2)] ∧ (∀ k ≤ 5, (BitVec.ofNat 7 (2 ^ k)).toInt = 2 ^ k) := by
  and_intros <;> first
    | decide +kernel
    | exact free_base

theorem lanePtrs_of {s : State} {b : Word} {offs : List Int} {n al : Nat} {ps : List Word}
    (h : offs.map (addOff s.tiles b) = ps.map some) (k : (ps.all fun p => s.ptrCause p n al false == none) = true) :
    lanePtrs s b offs n al ps :=
  ⟨h, fun p m => by simpa using List.all_eq_true.mp k p m⟩

/-- A base in s1 and a stride in s2. -/
def lanesAt : State := regs [(1, 0x9000000000001000), (2, 8)]

theorem witness_VectorMemory : unfenced lanesAt = true ∧ pathFree lanesAt ∧ 8 ≤ ElemTy.i64.bits ∧
    lanePtrs lanesAt (lanesAt.slot.s (sNum 1)) [(1 : BitVec 7).toInt * 64] 512 64 [0x9000000000001040] ∧
    (∀ nd ∈ [needLd, needSt], passes lanesAt nd [(0x9000000000001040, 512)] [(⟨.spad 0, 0x1040⟩, 512)]) ∧
    lanesAt.ready [.s (sNum 1) false] [.v 3] = true ∧ lanesAt.ready [.s (sNum 1) false, .v 3] [] = true ∧
    lanePtrs lanesAt (lanesAt.slot.s (sNum 1)) ((List.range 64).map fun j : Nat => (j : Int) * (lanesAt.slot.s (sNum 2)).toInt) 8 8
      ((List.range 64).map fun j => 0x9000000000001000 + BitVec.ofNat 64 (8 * j)) ∧
    (∀ nd ∈ [needLd, needSt], passes lanesAt nd ((List.range 64).map fun j => (0x9000000000001000 + BitVec.ofNat 64 (8 * j), 8))
      ((List.range 64).map fun j => (⟨.spad 0, 0x1000 + 8 * j⟩, 8))) ∧
    lanesAt.ready [.s (sNum 1) false, .s (sNum 2) false] [.v 3] = true ∧
    lanePtrs lanesAt (lanesAt.slot.s (sNum 1)) ((List.range 64).map fun j => (laneAt .n32 (lanesAt.slot.v 2) j : Int)) 8 8
      ((List.range 64).map fun _ => 0x9000000000001000) ∧
    (∀ nd ∈ [needLd, needSt], passes lanesAt nd ((List.range 64).map fun _ => (0x9000000000001000, 8))
      ((List.range 64).map fun _ => (⟨.spad 0, 0x1000⟩, 8))) := by
  have two : ∀ {P : Need → Prop}, P needLd → P needSt → ∀ nd ∈ [needLd, needSt], P nd := by
    intro P a b nd h; simp only [List.mem_cons, List.not_mem_nil, or_false] at h; rcases h with rfl | rfl <;> assumption
  refine ⟨by decide +kernel, by unfold pathFree; decide +kernel, by decide, lanePtrs_of (by decide +kernel) (by decide +kernel),
    two (passes_of (by decide +kernel) (by decide +kernel) (by decide +kernel) rfl) (passes_of (by decide +kernel) (by decide +kernel) (by decide +kernel) rfl),
    by decide +kernel, by decide +kernel, lanePtrs_of (by decide +kernel) (by decide +kernel),
    two (passes_of (by decide +kernel) (by decide +kernel) (by decide +kernel) rfl) (passes_of (by decide +kernel) (by decide +kernel) (by decide +kernel) rfl),
    by decide +kernel, lanePtrs_of (by decide +kernel) (by decide +kernel),
    two (passes_of (by decide +kernel) (by decide +kernel) (by decide +kernel) rfl) (passes_of (by decide +kernel) (by decide +kernel) (by decide +kernel) rfl)⟩

/-! ### Hypotheses met: accesses where they land and come back -/

theorem noneParked_of {s : State} (h : (s.flights.all fun f => match f.st with
    | .parked _ => false
    | _ => true) = true) : noneParked s := by
  intro f m k e
  have := List.all_eq_true.mp h f m
  rw [e] at this; cases this

/-- A read, a write and a full/empty operation that have come to tile 1; one that has come to a tile without a plot. -/
def readLands : State := flying (access (.s 3) .ld 1 (.read [(⟨.spad 1, 0x1000⟩, 8)] (.scalar .d))) base
def literalLands : State :=
  flying (access (.s 3) .ld 1 (.read [(⟨.spad 1, 0x1000⟩, 8)] (.code .d)))
    (onTile (fun x => { x with icache := [(0, 0)] }) base)
def writeLands : State := flying (access .none .st 1 (.write [(⟨.spad 1, 0x1000⟩, [1, 2])])) base
def feLands (op : FeOp) : State := flying (access (.s 3) .fe 1 (.fe op ⟨.spad 1, 0x1000⟩ 7)) base
def nowhereLands : State := flying (access (.s 3) .ld 5 (.read [(⟨.spad 5, 0x1000⟩, 8)] (.scalar .d))) base
/-- A read of an engine; a member store, a chunk of an engine and a deposit. -/
def fetchLands : State :=
  flying (access .none .eng 1 (.fetch ⟨0, none, [(⟨.spad 1, 0x1000⟩, 8)]⟩ ⟨0, none, []⟩)) base
def memberLands : State := flying (access .none .st 1 (.member ⟨.spad 1, 0x1000⟩ 7 none)) base
def chunkLands : State := flying (access .none .eng 1 (.chunk 0 none [(⟨.spad 1, 0x1000⟩, [1, 2])])) base
def depositLands : State := flying (access (.s 3) .none 1 (.deposit ⟨.spad 1, 0x1000⟩ [1, 2] 9)) base
/-- Bank 0 of the scratchpad of tile 1 is busy; a lease lies on the line of the access. -/
def busyOther (s : State) : State :=
  onWafer (fun w => { w with tiles := [(1, { other with bankAt := vset other.bankAt 0 5 })] }) s
def leasedOther (s : State) : State :=
  onWafer (fun w => { w with tiles := [(1, { other with ctx := { other.ctx with leases := [⟨0x1000, 1, 0, 0, 0⟩] } })] }) s

theorem hid (s : State) (c : s.cur.tile = 0) (e : s.wafer.tiles = [(1, other)]) (a : s.tile.ctx.red = []) (p : Place) (n : Nat) :
    noHidden s p n := noHidden_two c e a rfl p n

/-- What the clauses ask of an access on a word of tile 1, but for its request. -/
def landsAt (s : State) : Bool :=
  s.memWf && s.arg == .flight 0 && s.flights.all (fun f => s.landed 0 f && f.req.atBank && s.present f && f.lines == []
    && f.got == [] && !s.heldOff f ⟨.spad 1, 0x1000⟩ 8 && f.linesLeft == [⟨.spad 1, 0x1000⟩])
    && s.banksFree [(⟨.spad 1, 0x1000⟩, 8)] && !s.refreshing ⟨.spad 1, 0x1000⟩ 8 && !s.unreadable [(⟨.spad 1, 0x1000⟩, 8)]
    && s.tile.ctx.red == [] && s.cur.tile == 0 && s.wafer.tiles == [(1, other)] && s.flights.all fun f => f.st == .going

theorem witness_BankAccess :
    ([readLands, fetchLands, writeLands, memberLands, chunkLands, depositLands, feLands .ldf, literalLands].all landsAt) = true ∧
    (∀ s, landsAt s = true → noHidden s ⟨.spad 1, 0x1000⟩ 8 ∧ noneParked s) ∧
    bankEach ⟨.spad 1, 0x1000⟩ 8 ∧ notCask ⟨.spad 1, 0x1000⟩ ∧
    nowhereLands.memWf = true ∧ nowhereLands.arg = .flight 0 ∧
    (nowhereLands.flights.all fun f => nowhereLands.landed 0 f && f.req.atBank && !nowhereLands.present f) = true ∧
    ((busyOther readLands).flights.all fun f => (busyOther readLands).landed 0 f && (busyOther readLands).present f
      && f.linesLeft == [⟨.spad 1, 0x1000⟩] && !(busyOther readLands).bankFree ⟨.spad 1, 0x1000⟩) = true ∧
    ((leasedOther writeLands).flights.all fun f => (leasedOther writeLands).landed 0 f && (leasedOther writeLands).present f
      && f.lines == [] && (leasedOther writeLands).heldOff f ⟨.spad 1, 0x1000⟩ 2
      && (leasedOther writeLands).banksFree [(⟨.spad 1, 0x1000⟩, 2)]) = true ∧
    (literalLands.flights.all fun f => literalLands.lineIn f.tile f.ptr) = true ∧
    (∀ f ∈ readLands.flights, ∀ l, readLands.runner f = some l → (readLands.getSlot l).snap = []) ∧
    (∀ f ∈ [true, false], ∃ row ∈ feRows, row.2.1 f = true) ∧
    (feRows.map fun row => (row.2.1 true, row.2.1 false)) =
      [(true, false), (true, false), (false, true), (true, true), (true, true), (true, true)] ∧
    (∀ row ∈ feRows, row.1 = .waita → row.2.1 true = false) := by
  refine ⟨by decide +kernel, fun s h => ?_, by unfold bankEach; decide, (fun t h => by cases h), by decide +kernel, rfl,
    by decide +kernel, by decide +kernel, by decide +kernel, by decide +kernel, ?_, ?_, by decide +kernel, ?_⟩
  · simp only [landsAt, Bool.and_eq_true, beq_iff_eq] at h
    obtain ⟨⟨⟨⟨_, red⟩, cur⟩, tiles⟩, going⟩ := h
    exact ⟨hid s cur tiles red _ _, fun f m k e => by simpa [e] using List.all_eq_true.mp going f m⟩
  · intro f h l e
    simp only [readLands, flying, List.mem_cons, List.not_mem_nil, or_false] at h
    subst h
    rw [show readLands.runner _ = some base.cur by decide +kernel] at e
    cases e; decide +kernel
  · intro f _
    exact ⟨(.stf, fun _ => true, true, fun _ => true, fun _ _ => 0), by simp [feRows], rfl⟩
  · intro row m e
    simp only [feRows, List.mem_cons, List.not_mem_nil, or_false] at m
    rcases m with rfl | rfl | rfl | rfl | rfl | rfl <;> cases e

/-- An atomic at a word of tile 1, at this tile and of this scope; contributions to a word of tile 1 with and without an
entry. -/
def amoLands (goal : Nat) (sc : AccScope) : State :=
  flying (access (.s 3) .amo goal (.amo .add .d sc ⟨.spad 1, 0x1000⟩ 7 0)) base
/-- Its word belongs to the system range of another device. -/
def amoAway : State := onWafer (fun w => { w with sysRanges := [⟨0, 0, 0x1000, 3⟩], deviceId := 2 }) (amoLands 1 .system)
/-- Its word cannot be read at its home. -/
def amoSpoilt : State := onWafer (fun w => { w with bad := [⟨.spad 1, 0x1003⟩] }) (amoLands 1 .plot)
def redLands (red : List RedEntry) : State :=
  onWafer (fun w => { w with tiles := [(1, { other with ctx := { other.ctx with red := red } })] })
    (flying (access .none .amo 1 (.red .add .d ⟨.spad 1, 0x1000⟩ 7)) base)

theorem witness_AtomicLands :
    (∀ x ∈ [(amoLands 1 .plot, AccScope.plot), (amoLands 0 .plot, .plot), (amoAway, .system), (amoLands 1 .system, .system)],
      x.1.memWf = true ∧ x.1.arg = .flight 0 ∧ noneParked x.1 ∧ noHidden x.1 ⟨.spad 1, 0x1000⟩ 8 ∧
      (x.1.flights.all fun f => x.1.landed 0 f && x.1.present f && x.1.placeHeld ⟨.spad 1, 0x1000⟩ f.plot
        && !x.1.heldOff f ⟨.spad 1, 0x1000⟩ 8 && !x.1.waitsAtPort f x.2) = true ∧
      bankReady x.1 ⟨.spad 1, 0x1000⟩ 8) ∧
    notCask ⟨.spad 1, 0x1000⟩ ∧
    ((amoLands 1 .plot).flights.all fun f => (amoLands 1 .plot).elsewhere f .plot == none
      && Place.tile ⟨.spad 1, 0x1000⟩ f.tile == f.pkt.to_) = true ∧
    ((amoLands 0 .plot).flights.all fun f => Place.tile ⟨.spad 1, 0x1000⟩ f.tile != f.pkt.to_) = true ∧
    (amoAway.flights.all fun f => amoAway.elsewhere f .system == some 3 && amoAway.banksFree [(⟨.spad 1, 0x1000⟩, 8)]) = true ∧
    (amoSpoilt.memWf = true ∧ (amoSpoilt.flights.all fun f => amoSpoilt.landed 0 f && amoSpoilt.present f
      && amoSpoilt.placeHeld ⟨.spad 1, 0x1000⟩ f.plot && !amoSpoilt.heldOff f ⟨.spad 1, 0x1000⟩ 8 && !amoSpoilt.waitsAtPort f .plot
      && amoSpoilt.elsewhere f .plot == none && Place.tile ⟨.spad 1, 0x1000⟩ f.tile == f.pkt.to_
      && amoSpoilt.banksFree [(⟨.spad 1, 0x1000⟩, 8)] && amoSpoilt.unreadable [(⟨.spad 1, 0x1000⟩, 8)]) = true) ∧
    ((amoLands 1 .system).flights.all fun f => (amoLands 1 .system).elsewhere f .system == none) = true ∧
    (∀ red ∈ [[], [(⟨0x1000, .add, .d, Vector.replicate 8 0⟩ : RedEntry)]], (redLands red).memWf = true ∧
      (redLands red).arg = .flight 0 ∧ noneParked (redLands red) ∧
      ((redLands red).flights.all fun f => (redLands red).landed 0 f && (redLands red).present f && decide (f.core < 8)
        && !(redLands red).heldOff f ⟨.spad 1, 0x1000⟩ 8 && (redLands red).banksFree [(⟨.spad 1, 0x1000⟩, 8)]) = true ∧
      ((redLands red).getTile 1).ctx.red = red) := by
  refine ⟨?_, (fun t h => by cases h), by decide +kernel, by decide +kernel, by decide +kernel, by decide +kernel,
    by decide +kernel, ?_⟩
  · simp only [List.mem_cons, List.not_mem_nil, or_false, forall_eq_or_imp, forall_eq]
    refine ⟨?_, ?_, ?_, ?_⟩ <;>
      exact ⟨by decide +kernel, rfl, noneParked_of (by decide +kernel),
        hid _ (by decide +kernel) (by decide +kernel) (by decide +kernel) _ _, by decide +kernel,
        (by unfold bankReady; decide +kernel)⟩
  simp only [List.mem_cons, List.not_mem_nil, or_false, forall_eq_or_imp, forall_eq]
  exact ⟨⟨by decide +kernel, rfl, noneParked_of (by decide +kernel), by decide +kernel, by decide +kernel⟩,
    by decide +kernel, rfl, noneParked_of (by decide +kernel), by decide +kernel, by decide +kernel⟩

/-- The access of a state served, back at its issuer; the same for a record that waits. -/
def cameBack (v fl : Nat) (s : State) : State :=
  { s with flights := s.flights.map fun f => { f with pkt := { f.pkt with to_ := 0, at_ := 0 }, st := .served v fl } }
/-- The same with data that could not be read. -/
def badBack : State :=
  { readLands with flights := readLands.flights.map fun f => { f with pkt := { f.pkt with to_ := 0, at_ := 0 }, st := .bad } }
def leftSlot (s : State) : State := onCtx (fun c => c.setState 0x40000 3) (onSlot (fun _ => Slot.reset) s)

theorem witness_AccessReturns :
    (let s : State := { readLands with flights := readLands.flights.map fun f => { f with st := .retry, pkt := { f.pkt with to_ := 0, at_ := 0 } } }
     s.memWf = true ∧ s.arg = .flight 0 ∧ (s.flights.all fun f => f.st == .retry && f.arrived) = true) ∧
    (cameBack 5 1 readLands).memWf = true ∧ (leftSlot (cameBack 5 1 readLands)).memWf = true ∧ badBack.memWf = true ∧
    (cameBack 5 1 readLands).arg = .flight 0 ∧ (cameBack 5 1 writeLands).arg = .flight 0 ∧
    ((cameBack 5 1 writeLands).flights.all fun f => f.posted && f.arrived) = true ∧
    ((cameBack 5 1 readLands).flights.all fun f => f.delivers && f.arrived && (cameBack 5 1 readLands).home f
      && decide (f.due ≤ (cameBack 5 1 readLands).clk f.tile)
      && ({ cameBack 5 1 readLands with flights := [] } : State).runner f == some base.cur) = true ∧
    ((leftSlot (cameBack 5 1 readLands)).flights.all fun f => f.delivers && f.arrived && (leftSlot (cameBack 5 1 readLands)).home f
      && ({ leftSlot (cameBack 5 1 readLands) with flights := [] } : State).runner f == none
      && (leftSlot (cameBack 5 1 readLands)).tile.ctx.recState f.owner == 3 && f.owner % 8 == 0 && f.dest == .s 3) = true ∧
    (onCtx (fun c => c.setState 0x40000 1) (leftSlot (cameBack 5 1 readLands))).tile.ctx.recState 0x40000 = 1 ∧
    (badBack.flights.all fun f => f.delivers && f.arrived && badBack.home f && decide (f.due ≤ badBack.clk f.tile) && f.st == .bad
      && f.dest != .none && ({ badBack with flights := [] } : State).runner f == some base.cur) = true ∧
    ((withArg (.refresh 0) base).wafer.time % 32768 < 256 ∧ ¬4096 * 1 ≤ (withArg (.refresh 1) base).wafer.time % 32768) := by
  decide +kernel

/-! ### Hypotheses met: records, messages, barriers, packets -/

/-- The slot free again and its record ready; an AGE queue whose record has waited for 4,096 cycles. -/
def readyRec : State :=
  withArg (.tile 0) (onCtx (fun c => { (c.setState 0x40000 1) with ready := [⟨0, 0, 0x40000, 0, 0⟩] }) (onSlot (fun _ => Slot.reset) base))
/-- Bits of the bind record of queue 0 set: AGE is bit 45, and bit 32 makes its depth 2. -/
def bound (m : Word) (s : State) : State :=
  onCtx (fun c => { c with binds := vset c.binds 0 ((vget c.binds 0 (0, 0)).1 ||| m, (vget c.binds 0 (0, 0)).2) }) s
def ageing : State :=
  withArg (.record 0 0x40000) (onTile (fun x => { x with clk := 4096 }) (bound 0x200000000000 readyRec))

/-- A spawn and wakes that have come to tile 0. -/
def spawnLands (q : Nat) (pc : Word) (s : State) : State :=
  flying (access (.s 3) .msg 0 (.spawn q pc (List.replicate 6 (7, true)))) s
def wakeLands (off : Nat) (s : State) : State := flying (access (.s 3) .msg 0 (.wake off)) s

/-- Every bank of the tile is busy, and queue 0 has a spare record. -/
def recordBusy : State :=
  onTile (fun x => { x with bankAt := Vector.replicate 32 5 }) (bound 0x100000000 base)

theorem witness_DispatchAndSpawn :
    readyRec.memWf = true ∧ readyRec.nextDispatch 0 = some (base.cur, 0, ⟨0, 0, 0x40000, 0, 0⟩) ∧
    base.cur.core < 8 ∧ base.cur.slot < 4 ∧
    (let s := onTile (fun x => { x with reverse := true }) readyRec
     s.memWf = true ∧ s.nextDispatch 0 = some (base.cur, 0, ⟨0, 0, 0x40000, 0, 0⟩) ∧ (s.getTile 0).reverse = true) ∧
    (∃ r ∈ (ageing.getTile 0).ctx.ready, ((ageing.getTile 0).ctx.bind r.queue).age = true ∧ r.level < 3 ∧
      ((r.level : Int) + 1) * 4096 ≤ (ageing.cycles 0 : Int) - r.since) ∧
    (∀ q ∈ [0, 3], (spawnLands q 0x100 base).memWf = true ∧ (spawnLands q 0x100 base).arg = .flight 0 ∧
      ((spawnLands q 0x100 base).flights.all fun f =>
        (spawnLands q 0x100 base).landed 0 f && (spawnLands q 0x100 base).present f
          && (spawnLands q 0x100 base).banksFree ((spawnLands q 0x100 base).recordLine f)) = true) ∧
    (∀ s ∈ [spawnLands 0 0x100 recordBusy, wakeLands 0x40000 recordBusy], s.memWf = true ∧ (s.flights.all fun f =>
      s.landed 0 f && s.present f && !s.banksFree (s.recordLine f)) = true) ∧
    (base.tile.ctx.bind 0).valid = true ∧ (base.tile.ctx.bind 3).valid = false ∧ base.tile.ctx.spare 0 = none ∧
    (bound 0x100000000 base).tile.ctx.spare 0 = some 1 ∧
    (∀ off ∈ [0x40000, 0x40040, 0x1000], (wakeLands off base).memWf = true ∧
      ((wakeLands off base).flights.all fun f => (wakeLands off base).landed 0 f && (wakeLands off base).present f
        && (wakeLands off base).banksFree ((wakeLands off base).recordLine f)) = true) ∧
    base.tile.ctx.recordAt 0x1000 = none ∧ base.tile.ctx.recordAt 0x40000 = some (0, 0) ∧
    (base.tile.ctx.bind 0).base + 64 * 0 = 0x40000 ∧ base.tile.ctx.recState 0x40000 ≠ 3 ∧
    (leftSlot base).tile.ctx.recState 0x40000 = 3 := by decide +kernel

/-- A record of tile 0 that waits with a kind and parameters; a notice of tag 5 for it. -/
def waitingFor (kind param : Nat) : State :=
  withArg (.record 0 0x40000) (onCtx (fun c => { (c.setState 0x40000 3).setWait 0x40000 kind param with
    waits := [⟨0, 0, 0x40000, false⟩]
    mu := [.notice 0x40000 1 5 8] }) (onSlot (fun _ => Slot.reset) base))

theorem witness_RecordEvents :
    (∀ e ∈ [(2, 0x40010), (1, 3 * 65536 + 5), (7, 0)], (waitingFor e.1 e.2).memWf = true ∧
      (waitingFor e.1 e.2).waiting 0 0x40000 = some ⟨0, 0, 0x40000, false⟩) ∧
    (waitingFor 2 0x40010).waitHolds 0 ⟨0, 0, 0x40000, false⟩ = true ∧ (waitingFor 7 0).timeHolds 0 ⟨0, 0, 0x40000, false⟩ = true ∧
    (waitingFor 1 (3 * 65536 + 5)).waitHolds 0 ⟨0, 0, 0x40000, false⟩ = false ∧
    (takeNotice 0x40000 5 (waitingFor 1 (3 * 65536 + 5)).tile.ctx.mu).isSome = true ∧
    (let s := withArg (.slot base.cur) (onSlot (fun x => { (x.pend (.s 2)) with stallFrom := some 0, stallReg := 2, fecfg := 1 })
      (onTile (fun x => { x with clk := 9 }) base));
      s.memWf = true ∧ (s.getSlot base.cur).overStalled (s.clk 0) = true) ∧
    (let s := withArg (.slot base.cur) (onSlot (fun x => { x with idleTo := some 0 }) base);
      s.memWf = true ∧ (s.getSlot base.cur).idleTo = some 0 ∧ 0 ≤ s.wafer.time) ∧
    (withArg (.slot base.cur) halted).memWf = true ∧ (withArg (.slot base.cur) halted).slot.mode = .halted ∧
    ((withArg (.queue 0 0) readyRec).getTile 0).ctx.records 0 ≠ [] ∧
    (∀ off ∈ ((withArg (.queue 0 0) readyRec).getTile 0).ctx.records 0, (withArg (.queue 0 0) readyRec).slotOf 0 off = none) ∧
    readyRec.tile.ctx.recState 0x40000 = 1 := by decide +kernel

/-- A message of 8 bytes, tag 5, from tile 1, that has come to tile 0 with these entries and waiting messages. -/
def msgLands (mu : List MuEntry) (lees : List Lees) : State :=
  flying (access .none .msg 0 (.msg 1 0 5 [1, 2, 3, 4, 5, 6, 7, 8])) (onCtx (fun c => { c with mu := mu, lees := lees }) base)
/-- An answer back at the slot that waits for it. -/
def answerComes (st : FlSt) : State :=
  { (onSlot (fun x => { x with mode := .sendWait }) (msgLands [] [])) with
    flights := (msgLands [] []).flights.map fun f => { f with st := st } }

/-- A message whose buffer lies in a bank that is busy. -/
def msgWaits : State :=
  onTile (fun x => { x with bankAt := vset x.bankAt 1 5 }) (msgLands [.posted 0x40000 0x80040 true 9 5] [])

theorem witness_MessageLands :
    (∀ mu ∈ [[MuEntry.posted 0x40000 0x80000 false 2 5, .posted 0x40000 0x80040 true 9 5], []],
      (msgLands mu []).memWf = true ∧ (msgLands mu []).arg = .flight 0 ∧
      ((msgLands mu []).flights.all fun f => (msgLands mu []).landed 0 f && (msgLands mu []).present f) = true ∧
      (msgLands mu []).tile.ctx.leased 0x80040 8 = false ∧ (msgLands mu []).tile.ctx.waits = [] ∧
      (msgLands mu []).banksFree [(⟨.spad 0, 0x80040⟩, 8)] = true ∧ ((msgLands mu []).flights.all fun f => f.lines == []) = true) ∧
    bankEach ⟨.spad 0, 0x80040⟩ 8 ∧
    msgWaits.memWf = true ∧ (msgWaits.flights.all fun f => msgWaits.landed 0 f && msgWaits.present f && !msgWaits.bufferHeld f
      && (msgWaits.msgLines f).any fun l => !msgWaits.bankFree l) = true ∧
    noHidden (msgLands [.posted 0x40000 0x80040 true 9 5] []) ⟨.spad 0, 0x80040⟩ 8 ∧ noneParked (msgLands [] []) ∧
    (msgLands [] (List.replicate 64 ⟨1, 2, []⟩)).memWf = true ∧ ¬(msgLands [] (List.replicate 64 ⟨1, 2, []⟩)).tile.ctx.lees.length < 64 ∧
    (∀ st ∈ [FlSt.served 0 0, .leesFull, .refused 0], ((answerComes st).flights.all fun f => f.arrived && (answerComes st).home f
      && (answerComes st).runner f == some base.cur && f.st == st) = true ∧ (answerComes st).slot.haltReq = none ∧
      (answerComes st).wafer.freezes = []) := by
  refine ⟨by decide +kernel, by unfold bankEach; decide, by decide +kernel, by decide +kernel,
    hid _ (by decide +kernel) (by decide +kernel) (by decide +kernel) _ _, noneParked_of (by decide +kernel),
    by decide +kernel, by decide +kernel, ?_⟩
  simp only [List.mem_cons, List.not_mem_nil, or_false, forall_eq_or_imp, forall_eq]
  decide +kernel

/-- An access to barrier 1 of the plot, at the plot unit of the own tile. -/
def barLands (req : Req) (st : FlSt) : State :=
  let s := flying (access (.s 3) .none 0 req) base
  { s with flights := s.flights.map fun f => { f with st := st } }

/-- A barrier that expects one arrival, one that expects 2, and one in whose EXPECT is 0. -/
theorem witness_BarrierLands :
    (∀ req ∈ [Req.arrive 1 false false false, .bini 1 4, .btst 1 0], (barLands req .going).arg = .flight 0 ∧
      ((barLands req .going).flights.all fun f => (barLands req .going).landed 0 f
        && (barLands req .going).plot f.plot == some pl) = true) ∧
    pl.find 1 = some (.barrier ⟨false, 0, 0, 2, 1, 0, none, false, []⟩) ∧
    (∀ e ∈ [0, 2], (pl.put 1 (.barrier ⟨false, 0, 0, e, 0, 0, none, false, []⟩)).find 1 =
      some (.barrier ⟨false, 0, 0, e, 0, 0, none, false, []⟩)) ∧
    ((barLands (.arrive 1 false false false) (.refused 1)).flights.all fun f => f.arrived
      && (barLands (.arrive 1 false false false) (.refused 1)).home f
      && (barLands (.arrive 1 false false false) (.refused 1)).runner f == some base.cur) = true ∧ base.slot.mode = .running := by
  decide +kernel

/-- A packet for tile 1 still at tile 0. -/
def underway : State :=
  let s := flying (access (.s 3) .ld 1 (.read [(⟨.spad 1, 0⟩, 8)] (.scalar .d))) base
  { s with flights := s.flights.map (fun f => { f with pkt := { f.pkt with at_ := 0 } }), arg := .hop 0 false }
/-- The same, with the pool of tile 1's input full on every lane of the link. -/
def full (esc : Bool) : List Flight :=
  underway.flights.flatMap fun f => (List.range 8).map fun k =>
    { f with pkt := { f.pkt with at_ := 1, to_ := 2, via := 0, flits := if esc then 5 else 40, lane := some k, esc := esc } }
def crowded : State := { underway with flights := full false ++ underway.flights }
/-- The same, with the escape buffers full as well. -/
def jammed : State := { underway with flights := full false ++ full true ++ underway.flights }
/-- A translation miss on its way to the cellar. -/
def asking : State := withArg (.hop 0 false) (base.miss 0 (.slot 0 0) 0x5000 .write)
/-- A message for a place outside the plot, refused where it stands. -/
def foreign : State :=
  let s := flying (access .none .msg 5 (.msg 0 9 5 [])) base
  { s with flights := s.flights.map fun f => { f with pkt := { f.pkt with at_ := 1 } } }

theorem witness_PacketSteps :
    (underway.flights.all fun f => underway.canHop f && (underway.hopTo f.pkt false).any fun x => x.1 == 1 && !x.2.2) = true ∧
    ((crowded.flights.drop 8).all fun f => (crowded.hopTo f.pkt false).any fun x => x.1 == 1 && x.2.2) = true ∧
    ((jammed.flights.drop 16).all fun f => jammed.hopTo f.pkt false == none) = true ∧
    (let s : State := { underway with flights := underway.flights.map fun f => { f with pkt := { f.pkt with at_ := 2, to_ := 1, lane := some 3, ts := 5 } } }
     (s.flights.all fun f => s.canHop f && (s.hopTo f.pkt false == some (1, 3, false)) && f.pkt.lane == some 3) = true ∧
     (s.wafer.time / 8 % 2 ^ 20 + 2 ^ 20 - 5) % 2 ^ 20 > 2 ^ 18) ∧
    asking.arg = .hop (asking.flights.length + 0) false ∧
    (asking.wafer.xlates.all fun x => asking.missHops x && (asking.hopTo x.pkt false).isSome) = true ∧ asking.wafer.xlates ≠ [] ∧
    (withArg (.hop 0 true) underway).flights = underway.flights ∧
    (foreign.flights.all fun f => foreign.refusable f && foreign.plot f.plot == some pl
      && (pl.tiles.findIdx? fun u => u == f.pkt.at_) == some 1) = true ∧
    (withArg (.lane ⟨3, 4⟩ 1) base).arg = .lane ⟨3, 4⟩ 1 := by decide +kernel

/-! ### Hypotheses met: engines at work -/

/-- A copy of 64 bytes from 0x3000 to 0x2000 of the own scratchpad at the head of the engine. -/
def copyCmd : CopyCmd :=
  ⟨0, 0, 0x40000, 1, .ptr 0x9000000000002000, .ptr 0x9000000000003000, #v[64, 1, 64, 64, 0, 0, 1], 7, false, 0, .ready, []⟩
/-- The same to tile 1. -/
def abroad : CopyCmd := { copyCmd with dst := .ptr 0xA000000100002000 }
def copyRuns (c : CopyCmd) : State := withArg (.tile 0) (onCtx (fun x => { x with ceq := [c] }) base)

/-- The plot with a region that another plot grants, not to be written. -/
def granted : State :=
  onWafer (fun w => { w with plots := [{ pl with handles := pl.handles ++ [⟨7, 0, some (.region (.grant 1 0x1000 0 1) 4096 false)⟩] }] })
    (copyRuns { copyCmd with dst := .region 7 0 })

/-- A decant of 64 bytes from edge address 0 to both tiles. -/
def decantCmd : DecantCmd := ⟨0, 0, 0x40000, 1, 5, 0, #v[64, 64, 0, 2, 64, 0], 7, 0, .ready⟩
def decantRuns (c : DecantCmd) : State := withArg (.tile 0) (onCtx (fun x => { x with deq := [c] }) base)

/-- A read of an engine for a command, come back in a state of its own; a write that a record made before a fork. -/
def readBack (c unit core owner seq : Nat) (src dst : Span) (st : FlSt) (s : State) : State :=
  let f := access .none .eng 0 (.fetch src dst)
  { s with flights := [{ f with core := core, owner := owner, seq := seq, st := st, pkt := { f.pkt with unit := unit, rank := c } }] }
def earlier (s : State) : State :=
  { s with flights := [{ access .none .st 1 (.write [(⟨.spad 1, 0x1000⟩, [1])]) with owner := 0x40000, seq := 0 }] }
def here (o : Nat) : Span := ⟨0, none, [(⟨.spad 0, o⟩, 64)]⟩
def copyRead (st : FlSt) : State := readBack 4 1 copyCmd.core copyCmd.owner copyCmd.seq (here 0x3000) (here 0x2000) st (copyRuns copyCmd)
def decantRead : State :=
  readBack 4 3 decantCmd.core decantCmd.owner decantCmd.seq ⟨0, none, [(⟨.edge, 0⟩, 64)]⟩ ⟨0, none, [(⟨.cask 0, 64⟩, 64)]⟩ (.served 5 0)
    (decantRuns decantCmd)
/-- No packet of a command of tile 0 is on its way, and no write of its record before the fork; as a test. -/
def endsDec (s : State) (unit core owner seq : Nat) : Bool :=
  !s.engineBusy 0 unit core seq && s.flights.all fun f => !(f.of 0 0 owner && decide (f.seq < seq) && f.isWrite)

theorem mayEnd_of {s : State} {unit core owner seq : Nat} (h : endsDec s unit core owner seq = true) :
    mayEnd s 0 0 unit core owner seq := by
  simp only [endsDec, Bool.and_eq_true, Bool.not_eq_true'] at h
  refine ⟨h.1, fun f m o l => ?_⟩
  simpa [o, l] using List.all_eq_true.mp h.2 f m

theorem witness_CopyEngine :
    (∀ c ∈ [copyCmd, { copyCmd with done := 64 }, { copyCmd with done := 64, bar := true }, { copyCmd with st := .failed 7 },
        { copyCmd with st := .failed 7, bar := true }, { copyCmd with st := .closing (some 7) }, { copyCmd with st := .refused }],
      ((copyRuns c).getTile 0).ctx.ceq = [c] ∧ (copyRuns c).works 0 .ce = true ∧ ((copyRuns c).getTile 0).ctx.plot = some 0 ∧
        endsDec (copyRuns c) 1 c.core c.owner c.seq = true) ∧
    copyCmd.done < copyCmd.total ∧ ({ copyCmd with done := 64 } : CopyCmd).total ≤ 64 ∧
    (copyRuns copyCmd).copyPlan 0 0 copyCmd = .go [(⟨.spad 0, 0x3000⟩, 64)] [(⟨.spad 0, 0x2000⟩, 64)] ∧
    (copyRuns abroad).copyPlan 0 0 abroad = .go [(⟨.spad 0, 0x3000⟩, 64)] [(⟨.spad 1, 0x2000⟩, 64)] ∧
    (∀ st ∈ [FlSt.served 5 0, .bad], (copyRead st).works 0 .ce = true ∧
      ((copyRead st).fetchOf 0 1 copyCmd.core copyCmd.seq).any (fun x => x.1 == 0 && x.2.arrived && x.2.st == st
        && x.2.req == .fetch (here 0x3000) (here 0x2000)) = true) ∧
    (let s := earlier (copyRuns { copyCmd with done := 64 });
      (s.flights.all fun f => f.of 0 0 copyCmd.owner && decide (f.seq < copyCmd.seq) && f.isWrite) = true ∧ s.flights ≠ []) ∧
    (copyRuns copyCmd).doneAt 0 0 0 = .none ∧ (copyRuns copyCmd).doneAt 0 0 0x9000000000002000 = .at_ ⟨.spad 0, 0x2000⟩ ∧
    granted.copyPlan 0 0 { copyCmd with dst := .region 7 0 } = .refused ∧ (granted.plot 0).isSome = true := by
  and_intros
  all_goals decide +kernel

theorem witness_DecantEngine :
    (∀ c ∈ [decantCmd, { decantCmd with done := 128 }, { decantCmd with st := .failed 7 }, { decantCmd with st := .closing none }],
      ((decantRuns c).getTile 0).ctx.deq = [c] ∧ (decantRuns c).works 0 .de = true ∧
        ((decantRuns c).getTile 0).ctx.plot = some 0 ∧ endsDec (decantRuns c) 3 c.core c.owner c.seq = true) ∧
    decantCmd.done < decantCmd.total ∧ ({ decantCmd with done := 128 } : DecantCmd).total ≤ 128 ∧
    (decantRuns decantCmd).decantPlan 0 0 decantCmd = .go [(⟨.edge, 0⟩, 64)] [(⟨.cask 0, 64⟩, 64)] ∧
    ((decantRead.fetchOf 0 3 decantCmd.core decantCmd.seq).any fun x => x.1 == 0 && x.2.arrived && x.2.st == .served 5 0) = true ∧
    decantRead.works 0 .de = true ∧ (decantRuns decantCmd).doneAt 0 0 0x9000000000002000 = .at_ ⟨.spad 0, 0x2000⟩ ∧
    pl.find 5 = some (.vintage ⟨1, false, 0, 0, 0⟩) ∧ (decantRuns decantCmd).plot 0 = some pl := by
  and_intros
  all_goals decide +kernel

/-- A command queued by an instruction, some cycles on, before and after its grant. -/
def later (n : Nat) (s : State) : State := onTile (fun x => { x with clk := x.clk + n }) s
def onPathOf (p : MxPath) (i : Instr) : State := withArg (.path 0 p) (later 100 (after i multiplying))
def grantedMx : State := withArg (.path 0 .array) (later 100 (after .matrixGrant (onPathOf .array (.mzero 0))))
def withCredit (n : Nat) (s : State) : State := onCtx (fun c => { c with arrayArb := { c.arrayArb with holder := 0, credit := n } }) s

theorem witness_MatrixEngine :
    (∀ e ∈ [(MxPath.array, Instr.mzero 0), (.transfer, .mld 1 0)],
      let s := onPathOf e.1 e.2
      s.memWf = true ∧ (s.getTile 0).ctx.plot = some 0 ∧ s.works 0 .me = true ∧ ((s.getTile 0).ctx.arb e.1).running = none ∧
        (∀ k < 8, e.1 = .transfer → s.mxPrepare 0 0 k = none) ∧ ((s.getTile 0).ctx.arb e.1).holder = 7 ∧
        s.eligible 0 0 e.1 7 = false ∧ s.eligible 0 0 e.1 0 = true ∧ coresAfter 7 = [] ++ 0 :: [1, 2, 3, 4, 5, 6, 7]) ∧
    (∀ n ∈ [0, 1], ((withCredit n (onPathOf .array (.mzero 0))).tile.ctx.arb .array).credit = n ∧
      (withCredit n (onPathOf .array (.mzero 0))).eligible 0 0 .array 0 = true) ∧
    grantedMx.memWf = true ∧ ((grantedMx.getTile 0).ctx.arb .array).running = some 0 ∧
    (((grantedMx.getTile 0).ctx.mxHead 0).map fun c => (c.st, c.op, c.reads, c.panel, grantedMx.arrayDone 0 c)) =
      some (.ready, .mzero, [], 0, true) ∧ grantedMx.works 0 .me = true ∧
    (((after .matrixStepEnd grantedMx).tile.ctx.mxHead 0).map fun c => endsDec (after .matrixStepEnd grantedMx) 2 c.core c.owner c.seq
      && c.core == 0) = some true ∧ (after .matrixStepEnd grantedMx).works 0 .me = true ∧
    (((after .matrixStepEnd grantedMx).tile.ctx.mxHead 0).map fun c => (c.st, decide (c.steps ≤ c.step))) = some (.ready, true) ∧
    ((after .matrixStepEnd grantedMx).tile.ctx.arb .array).running = none ∧
    grantedMx.tile.ctx.ramp.due ≤ grantedMx.clk 0 ∧
    (∀ x ∈ [(0, 16), (0, 2), (3, 16)],
      let s := onTile (fun t => { t with clk := 4 }) (withArg (.tile 0) (onCtx (fun c => { c with
        ramp := { c.ramp with tail := true, level := 3, down := 1, tailDue := x.1, ended := x.1, ceil := x.2 } }) base));
      s.memWf = true ∧ s.works 0 .me = true ∧ (s.getTile 0).ctx.ramp.tail = true ∧ (s.getTile 0).ctx.ramp.tailDue ≤ s.clk 0 ∧
        (s.getTile 0).ctx.ramp.ceil = x.2 ∧ (s.clk 0 = (s.getTile 0).ctx.ramp.ended + 1 ↔ x.1 = 3)) := by
  and_intros
  all_goals decide +kernel

/-- Operands of 2 × 2 elements in the own scratchpad, and a step granted for a command on them. -/
def stocked : State :=
  onCtx (fun c => { c with
    fctx := vset c.fctx 0 #v[2, 2, 2, 1, 1, 3, 0, 0, 0, 0, 0, 0, 0, 0, 0, 0, 0, 0]
    spad := Memory.writeN (Memory.writeN c.spad 0x2000 [1, 2, 3, 4]) 0x3000 [5, 6, 7, 8] })
    (regs [(1, 0x9000000000002000), (2, 0x9000000000003000)])
def stepping (p : MxPath) (i : Instr) : State :=
  withArg (.path 0 p) (later 2000 (onCtx (fun c => { c with ramp := { c.ramp with level := 16 } })
    (after .matrixGrant (withArg (.path 0 p) (later 100 (after i stocked))))))

/-- The same with the operand on tile 1, whose bytes have come back. -/
def loadBack : State :=
  let s := withArg (.path 0 .transfer) (later 2000 (after .matrixGrant (withArg (.path 0 .transfer) (later 100
    (after (.mld 1 0) (onSlot (fun x => x.write 1 0xA000000100002000) stocked))))))
  { s with flights := s.flights.map fun f => { f with st := .served 5 0, pkt := { f.pkt with at_ := 0, to_ := 0 } } }
/-- A chunk of the same drain that has been posted and is under way. -/
def drainBehind : State :=
  let s := stepping .transfer (.mdrain 1 0)
  { s with flights := (s.tile.ctx.mxHead 0).toList.map fun c =>
      let f := access .none .eng 0 (.chunk 0 none [(⟨.spad 0, 0x2000⟩, [1])])
      { f with core := c.core, seq := c.seq, pkt := { f.pkt with unit := 2 } } }
/-- One operand byte of the array step cannot be read. -/
def stepSpoilt : State := onWafer (fun w => { w with bad := [⟨.spad 0, 0x2000⟩] }) (stepping .array (.mma 1 2 0))

theorem witness_MatrixSteps :
    (∀ e ∈ [(MxPath.array, Instr.mma 1 2 0), (.transfer, .mld 1 0), (.transfer, .mldRaw 1 0), (.transfer, .mdrain 1 0),
        (.transfer, .mdrainRaw 1 0)],
      let s := stepping e.1 e.2
      s.memWf = true ∧ s.works 0 .me = true ∧ (s.getTile 0).ctx.plot = some 0 ∧ ((s.getTile 0).ctx.arb e.1).running = some 0 ∧
        s.flights = [] ∧ (s.getTile 0).ctx.transferArb.till ≤ s.clk 0 ∧
        (((s.getTile 0).ctx.mxHead 0).all fun c => c.st == .ready && c.panel == 0 && s.arrayDone 0 c && mmaBad c.regs == none
          && !s.unreadable (s.arrayReads 0 c c.step) && !s.forkWaits 0 0 c.owner c.seq c.places.flatten
          && !s.unreadable c.places.flatten && (c.places.flatten.all fun a => a.1.sp == .spad 0)
          && c.places.length == (if e.1 = .transfer then (transferStep c c.step).length else 0) && meM c.regs == 2 && meN c.regs == 2
          && (e.1 == .array || transferSize c.op c.regs != 0)) = true) ∧
    ((((stepping .transfer (.mdrain 1 0)).getTile 0).ctx.mxHead 0).map fun c => c.places.flatten) = some
      [(⟨.spad 0, 0x2000⟩, 4), (⟨.spad 0, 0x2004⟩, 4), (⟨.spad 0, 0x2008⟩, 4), (⟨.spad 0, 0x200C⟩, 4)] ∧
    (let s := stepping .transfer (.mdrain 1 0);
      s.leased ⟨.spad 0, 0x2000⟩ 16 = false) ∧
    (drainBehind.memWf = true ∧ drainBehind.works 0 .me = true ∧ ((drainBehind.getTile 0).ctx.arb .transfer).running = some 0 ∧
      (((drainBehind.getTile 0).ctx.mxHead 0).all fun c => c.st == .ready && drainBehind.flights.any fun g => g.tile == 0 && g.plot == 0
        && g.pkt.unit == 2 && g.core == c.core && g.seq == c.seq && g.req.isChunk && g.waiting) = true) ∧
    (loadBack.memWf = true ∧ loadBack.works 0 .me = true ∧ ((loadBack.getTile 0).ctx.arb .transfer).running = some 0 ∧
      (loadBack.getTile 0).ctx.transferArb.till ≤ loadBack.clk 0 ∧
      (((loadBack.getTile 0).ctx.mxHead 0).all fun c => c.st == .ready && c.panel == 0 && (c.places.flatten.any fun a => a.1.sp != .spad 0)
        && c.places.length == (transferStep c c.step).length && (loadBack.fetchOf 0 2 c.core c.seq).any fun x => x.1 == 0 && x.2.arrived
          && x.2.st == .served 5 0 && (match x.2.req with
            | .fetch src _ => extent src.ps == (c.places.map extent).sum
            | _ => false)) = true) ∧
    (((stepSpoilt.getTile 0).ctx.mxHead 0).all fun c => stepSpoilt.arrayDone 0 c && c.op == .mma
      && stepSpoilt.unreadable (stepSpoilt.arrayReads 0 c c.step)) = true := by decide +kernel

/-! ### Hypotheses met: translation, the cellar, plots, power -/

/-- One page of ASID 0 mapped for data, and its entry at L0 with a bit set that must be zero. -/
def mapped : State := base.mapPage 0 permData 0x5000
def rootAt : Nat := 0x18000000000 - 4096
def leafBroken : State :=
  mapped.setPte (entryPlace mapped 0x5000 rootAt 4) (Memory.word mapped.wafer.edge (entryPlace mapped 0x5000 rootAt 4) + 2 ^ 56)

/-- The checks of an entry, as a test that runs. -/
def brokenDec (lvl e : Nat) : Decidable (entryBroken lvl e) := by unfold entryBroken; infer_instance
def isBroken (lvl e : Nat) : Bool := @decide (entryBroken lvl e) (brokenDec lvl e)

theorem entryBroken_iff (lvl e : Nat) : entryBroken lvl e ↔ isBroken lvl e = true :=
  (@decide_eq_true_iff (entryBroken lvl e) (brokenDec lvl e)).symm

/-- Four tables lead to the entry of the page, to one that is not valid, and to one that R108 refuses; no root; the place of
each use's permission. -/
theorem witness_Walk :
    (∀ x ∈ [(mapped, 0x5000), (mapped, 0x6000), (leafBroken, 0x5000)],
      (x.1.wafer.roots.find? fun r => r.1 == 0) = some (0, rootAt) ∧ rootAt % 4096 = 0 ∧ x.2 < 2 ^ 57 ∧
      ∀ j < 4, let e := Memory.word x.1.wafer.edge (entryPlace x.1 x.2 rootAt j);
        e.testBit 0 = true ∧ ¬entryBroken (4 - j) e ∧ e.testBit 1 = false) ∧
    (let e := Memory.word mapped.wafer.edge (entryPlace mapped 0x5000 rootAt 4);
      e.testBit 0 = true ∧ ¬entryBroken 0 e ∧ e.testBit 1 = true ∧
        ([XUse.read, .write, .hint, .fetch].map fun u => e.testBit (useBit u)) = [true, true, true, false]) ∧
    (Memory.word mapped.wafer.edge (entryPlace mapped 0x6000 rootAt 4)).testBit 0 = false ∧
    (let e := Memory.word leafBroken.wafer.edge (entryPlace leafBroken 0x5000 rootAt 4);
      e.testBit 0 = true ∧ entryBroken 0 e) ∧
    (base.wafer.roots.find? fun r => r.1 == 0) = none := by
  simp only [entryBroken_iff]
  decide +kernel

/-- A miss of the running slot with an outcome of its walk, at the cellar or back. -/
def missing (o : Option XOut) : State :=
  let k := base.packet 0 0 1 1 7
  withArg (.flight 0) (onWafer (fun w => { w with xlates := [⟨0, .slot 0 0, 0, 0x5000, .write, o, k⟩] }) base)
/-- The running slot in a page-fault wait. -/
def awaiting (good : Bool) : State := withArg (.batch 0 3 good) (onSlot (fun x => { x with mode := .faultWait 3 0x5000 false }) base)

theorem witness_TranslationEvents :
    (∀ o ∈ [none, some (XOut.ok ⟨0, 0x5000, 12, 0x9000, 0, true, true, false⟩),
        some (.denied ⟨0, 0x5000, 12, 0x9000, 0, true, false, false⟩), some (.absent 0), some (.format 2)],
      (missing o).memWf = true ∧ ((missing o).wafer.xlates[0]?.map fun x => (x.out, x.tile, x.who, x.pkt.at_ == x.pkt.to_)) =
        some (o, 0, .slot 0 0, true)) ∧
    base.slot.mode = .running ∧ base.cur.tile = 0 ∧
    (∀ good ∈ [true, false], (awaiting good).memWf = true ∧ (awaiting good).slot.mode = .faultWait 3 0x5000 false) ∧
    dieOf 0 = 0 ∧ (base.cur.core < 8 ∧ base.cur.slot < 4) ∧ base.translatedOut (.asid 0) = false ∧
    (let s := withArg (.slot base.cur) (onTile (fun x => { x with icache := [] }) base);
      s.memWf = true ∧ s.codeHere base.cur = true ∧ s.lineHere base.cur = false) := by
  and_intros
  all_goals decide +kernel

/-- A record held by a full ring. -/
def heldRing : State :=
  { base with wafer := { base.wafer with dies := [(0, { Die.reset with
      trap := vset Die.reset.trap 2 (List.replicate 512 (Vector.replicate 8 0))
      heldTrap := [(2, .other, Vector.replicate 8 1)] })] } }

theorem witness_CellarEvents : halted.memWf = true ∧ base.memWf = true ∧ halted.slot.mode = .halted ∧ base.slot.mode ≠ .halted ∧
    (halted.getSlot halted.cur).mode = .halted ∧ halted.recordHeld halted.cur = false ∧ base.recordHeld base.cur = false ∧
    halted.slot.fwait = none ∧ base.slot.fwait = none ∧ base.wafer.freezes = [] ∧
    (onSlot (fun x => { x with byFreeze := some (.slot base.cur) }) halted).slot.byFreeze = some (.slot base.cur) ∧
    halted.cur = base.cur ∧ base.slot.mode = .running ∧
    heldRing.memWf = true ∧ (base.die 0).heldTrap = [] ∧ (base.die 0).heldFault = [] ∧
    (heldRing.die 0).heldTrap = [] ++ (2, .other, Vector.replicate 8 1) :: [] ∧
    ((vget (heldRing.die 0).trap 2 []).drop 1).length < 512 := by decide +kernel

/-- The plot at another stage of its life. -/
def plotAs (f : Plot → Plot) : State := onWafer (fun w => { w with plots := [f pl] }) base

/-- A send that waits, and a write to edge memory that has left its tile. -/
def sending : State := onSlot (fun x => { x with mode := .sendWait }) base
def edgeOut : State := flying (access .none .st 5 (.write [(⟨.edge, 0x1000⟩, [1, 2])])) base
/-- No tile holds the plot any more. -/
def emptied : State :=
  onTile (fun x => { x with ctx := Ctx.reset }) (onWafer (fun w => { w with tiles := [] }) (plotAs fun p => { p with killing := some 0 }))

/-- Tile 1 of the plot at rest or not, with a waiting context, and without a plot. -/
def shadowed (a : Option Shadow) (f : Ctx → Ctx) : State :=
  withArg (.tile 1) (onWafer (fun w => { w with tiles := [(1, { other with ctx := f other.ctx, shadowA := a })] }) base)
def aShadow : Shadow := ⟨{ Ctx.reset with plot := some 0, ramp := { Ramp.reset with cold := true } }, none⟩
def restless : State := shadowed none fun c => { c with transferArb := { c.transferArb with running := some 0 } }
def movedOut : State := onWafer (fun w => { w with away := [(1, 0x17FFFE60000, aShadow)] }) base
/-- Tile 1 lost, and no context left for it. -/
def lostTile : State := onWafer (fun w => { w with tiles := [(1, { Tile.reset with lost := true })] }) base

theorem witness_Kills :
    (∀ s ∈ [base, sending, edgeOut], s.memWf = true ∧ (s.plot 0).map Plot.killing = some none) ∧
    sending.resident pl = [0, 1] ∧ (slotLocs 0).any (fun l => (sending.getSlot l).mode == .sendWait) = true ∧
    (edgeOut.flights.all fun f => f.plot == 0 && f.isWrite && f.st == .going && f.pkt.at_ != f.tile &&
      f.req.ranges.any fun r => r.1.sp == .edge) = true ∧
    (base.resident pl = [0, 1] ∧ base.flights = [] ∧ ∀ u ∈ [0, 1], (∀ l ∈ slotLocs u, (base.getSlot l).mode ≠ .sendWait) ∧
      (base.getTile u).ctx.arrayArb.running = none ∧ (base.getTile u).ctx.transferArb.running = none) ∧
    (emptied.memWf = true ∧ (emptied.plot 0).map (fun p => p.killing.isSome) = some true ∧ emptied.writesOut 0 = false ∧
      ∀ u ∈ pl.tiles, (emptied.getTile u).ctx.plot ≠ some 0) ∧ base.wafer.freezes = [] ∧
    (let s := onWafer (fun w => { w with time := 20000 }) (plotAs fun p => { p with killing := some 0 });
      s.memWf = true ∧ s.quiesceLate 0 = true) := by
  and_intros
  all_goals decide +kernel

theorem witness_Swaps :
    (restless.memWf = true ∧ restless.exchanges 1 = true ∧ (restless.getTile 1).ctx.transferArb.running ≠ none ∧
      (restless.getTile 1).lost = false ∧ 1 ≠ restless.cur.tile) ∧
    (atRest (shadowed none id) 1 ∧ (shadowed none id).memWf = true ∧ ((shadowed none id).getTile 1).lost = false ∧
      ((shadowed none id).getTile 1).ctx.plot = some 0 ∧ ((shadowed none id).getTile 1).shadowA = none ∧
      ((shadowed none id).getTile 1).shadowB = none) ∧
    (let s := shadowed (some aShadow) fun c => { c with plot := none };
      atRest s 1 ∧ s.memWf = true ∧ (s.getTile 1).ctx.plot = none ∧ (s.getTile 1).shadowA = some aShadow ∧ aShadow.bad = none ∧
        aShadow.ctx.plot = some 0 ∧ s.plot 0 = some pl ∧ pl.still = false ∧ pl.frozenStages = [] ∧ (s.getTile 1).frozen = false ∧
        aShadow.ctx.ramp.cold = true ∧ ∀ k < 32, (vget aShadow.ctx.slots k Slot.reset).fwait = none ∧
          (vget aShadow.ctx.slots k Slot.reset).mode = .free) ∧
    (movedOut.memWf = true ∧ movedOut.wafer.away = [] ++ (1, 0x17FFFE60000, aShadow) :: [] ∧ (movedOut.getTile 1).shadowA = none) := by
  unfold atRest
  and_intros
  all_goals decide +kernel

theorem witness_Repairs :
    (readLands.flights.all Flight.canFail) = true ∧ base.slot.mode = .running ∧ base.cur.core < 8 ∧
    spareCore base 0 8 ∧ (∀ k, ¬spareCore (onTile (fun x => { x with deadCores := [8] }) base) 0 k) ∧
    (lostTile.memWf = true ∧ (lostTile.getTile 1).lost = true ∧ lostTile.quiescentPoint 1 = true ∧
      (lostTile.getTile 1).shadowA = none ∧ (lostTile.getTile 1).shadowB = none ∧
      (lostTile.die (dieOf 1)).shifted.contains (1 % 176) = false) ∧
    (base.getTile 0).spareBank = true ∧ base.wafer.spareLanes = [] ∧ (base.die 0).spares < 2 ∧ 0 ∈ (base.die 0).serves.toList ∧
    base.wafer.portMap.length < 4 := by
  refine ⟨by decide +kernel, by decide +kernel, by decide, by unfold spareCore; decide +kernel, ?_, by decide +kernel⟩
  have none : ∀ k < 9, ¬spareCore (onTile (fun x => { x with deadCores := [8] }) base) 0 k := by unfold spareCore; decide +kernel
  exact fun k h => none k h.1 h

/-- The plot in plumb mode, or as one whose members share no barrier. -/
def plumbed : State := plotAs fun p => { p with plumb := true }
def single : State := onWafer (fun w => { w with time := 5000, plots := [{ pl with handles := [] }] }) base
def inGang : State := onWafer (fun w => { w with time := 5000 }) base
/-- A tile that has been idle. -/
def idled : State := onTile (fun x => { x with idle := 2048 }) (onSlot (fun _ => Slot.reset) base)

theorem witness_PowerEvents : base.memWf = true ∧ plumbed.memWf = true ∧ (plumbed.plotOf 0).map Plot.plumb = some true ∧
    (base.plotOf 0).map Plot.plumb = some false ∧ (plumbed.getTile 1).ctx.plot = some pl.num ∧ (base.die 0).heldTrap = [] ∧
    (vget (base.die 0).trap (ringOf pl.asid) []).length < 512 ∧
    (∀ m ∈ [0, 1], (plotAs fun p => { p with plumb := true, margin := some 5, marginTile := m }).memWf = true) ∧
    (base.getTile 0).ctx.n = 0 ∧ pl.margin = none ∧ (base.getTile 1).frozen = false ∧
    (plotAs fun p => { p with margin := some 0 }).haltedAll { pl with margin := some 0 } = true ∧
    ((plotAs fun p => { p with margin := some 5 }).plot 0).map (fun p => (p.margin, p.frozen, p.killing)) =
      some (some 5, false, none) ∧ 5 ≤ (onWafer (fun w => { w with time := 9 }) base).wafer.time ∧
    (single.memWf = true ∧ single.wafer.interval < single.wafer.time / 1024 ∧
      (single.getTile 0).interval < single.wafer.time / 1024 ∧ (single.plotOf 0).map Plot.gang = some false ∧
      (single.getTile 0).ctx.ramp.next = none) ∧
    (inGang.memWf = true ∧ (inGang.getTile 0).interval < inGang.wafer.time / 1024 ∧ (inGang.plotOf 0).map Plot.gang = some true) ∧
    (idled.memWf = true ∧ 2048 ≤ (idled.getTile 0).idle ∧ (idled.getTile 0).reverse = false ∧ idled.busy 0 = false ∧
      ∀ q < 16, ((idled.getTile 0).ctx.bind q).valid = true → ((idled.getTile 0).ctx.bind q).prio ≠ 3) ∧
    (base.getTile 0).idle < 2048 ∧ base.wafer.staggerP = 0 ∧
    (∀ b ∈ [true, false],
      let s := onWafer (fun w => { w with staggerP := 64, time := 64, plots := [{ pl with started := b }] }) readyRec;
      s.memWf = true ∧ (s.plotOf 0).map Plot.started = some b ∧ (s.wouldDispatch 0).isSome = true) ∧
    (∀ t ∈ [64, 65], let s := onWafer (fun w => { w with staggerP := 64, staggerO := 0, time := t }) base;
      (s.wafer.time % s.wafer.staggerP = s.wafer.staggerO) = (t = 64)) := by
  and_intros
  all_goals decide +kernel

/-! ### Hypotheses met: ports, host, launches, calls -/

/-- A ring of two slots of 16 bytes at 0x2000 of tile 0, its key at port 0, with a head. -/
def ringed (head : Nat) : State :=
  onWafer (fun w => { w with ueKeys := [(0, 3, 0)], rings := [⟨1, 0, 0, 0, 0x2000, 16, 2, 5, 3, head, 0, 0⟩] }) base
def message (n : Nat) : UeMessage := ⟨0, 3, 5, true, List.replicate n 1⟩

/-- DMA queues of ASID 0 over a page that is mapped for data, one that is mapped for code, and one that is not mapped. -/
def storage : State :=
  onWafer (fun w => { w with ioQueues := [(2, 0, 0x5000, 0x3000)] }) ((base.mapPage 0 permData 0x5000).mapPage 0 permCode 0x6000)
def dmaAt (write : Bool) (va : Nat) : DmaRequest := ⟨2, 0, va, write, 8, List.replicate 8 1⟩
/-- A DMA held, with its answer. -/
def holding (a : Option Bool) : State :=
  withArg (.port 2) (onWafer (fun w => { w with heldDma := [⟨0, 0, dmaAt true 0x7000, a⟩] }) storage)

/-- A launch of an image of some tiles and one task by tenant 0, from the host. -/
def anImage (w : Nat) : Image :=
  ⟨w, 1, false, [], [], [], [], [], [], [], [], [⟨1, 0, 1, 1, 0, false, 0, 0, 0, 0, [], 0, 1⟩], []⟩
def packet (w : Nat) (place : PlotReq) : LaunchPacket := ⟨0, true, none, 0, 0, some (anImage w), place, [], [], 0x10000, 0x20000⟩
def codePacket (place : PlotReq) : LaunchPacket := { packet 1 place with image := some { anImage 1 with code := [0] } }
/-- The plot at work, and done. -/
def launching : State := onWafer (fun w => { w with launchTable := [(0, 0xF800000000000000, 0x0008080800080000)] }) base
def finished : State := onCtx (fun c => c.setState 0x40000 0) (onSlot (fun _ => Slot.reset) launching)
/-- The same with another plot's context on tile 1. -/
def occupied : State :=
  onWafer (fun w => { w with
    plots := [pl, { pl with num := 4 }]
    tiles := [(1, { other with ctx := { other.ctx with plot := some 4 } })] }) finished

/-- The page of a launch's code is mapped, and a write that was translated is not acknowledged. -/
def remapped : State := { launching.mapPage 0 permCode 0x10000 with flights := edgeOut.flights }

/-- TAIL of the ring cannot be read. -/
def tailless : State := onWafer (fun w => { w with bad := [⟨.spad 0, 0x2008⟩] }) (ringed 0)

/-- The page of the queues with a byte that cannot be read. -/
def spoilt : State :=
  { storage with wafer := { storage.wafer with bad := match (dmaWalk storage (dmaAt false 0x5000)).1 with
    | .ok ps => ps.map Prod.fst
    | _ => [] } }

theorem witness_HostEvents : base.memWf = true ∧ (ringed 0).memWf = true ∧ (ringed 0).flights = [] ∧
    base.ringFor (message 4) = none ∧ ((ringed 0).ringFor (message 4)).isSome = true ∧
    (∀ r ∈ (ringed 0).wafer.rings, (ringed 0).ringOpen (message 8) r = true ∧ (ringed 0).ringOpen (message 9) r = true ∧
      r.slotb - 8 < (message 9).data.length ∧ (message 8).data.length ≤ r.slotb - 8 ∧
      (∀ i < 32, (ringed 0).reservedAt ⟨.spad r.tile, r.off + i⟩ = false) ∧
      (∀ i < 17, (ringed 0).reservedAt ⟨.spad r.tile, r.off + 64 + r.head % r.n * r.slotb + i⟩ = false) ∧
      (ringed 0).unreadable [(⟨.spad r.tile, r.off + 8⟩, 8)] = false ∧
      (tailless.memWf = true ∧ tailless.ringOpen (message 8) r = true ∧ tailless.unreadable [(⟨.spad r.tile, r.off + 8⟩, 8)] = true) ∧
      (r.head + 2 ^ 64 - leNat ((ringed 0).readAt ⟨.spad r.tile, r.off + 8⟩ 8).1) % 2 ^ 64 < r.n) ∧
    (∀ r ∈ (ringed 2).wafer.rings, r.n ≤ (r.head + 2 ^ 64 - leNat ((ringed 2).readAt ⟨.spad r.tile, r.off + 8⟩ 8).1) % 2 ^ 64) ∧
    storage.memWf = true ∧ storage.wafer.ioQueues = [(2, 0, 0x5000, 0x3000)] ∧ base.wafer.ioQueues = [] ∧
    ([(false, 0x5000), (true, 0x5000), (true, 0x6000), (false, 0x7000)].map fun e =>
      match (dmaWalk storage (dmaAt e.1 e.2)).1 with
      | .ok _ => 0
      | .denied => 1
      | .fault _ => 2) = [0, 0, 1, 2] ∧
    (∀ x ∈ [(storage, false), (spoilt, true)], x.1.memWf = true ∧ (match dmaWalk x.1 (dmaAt false 0x5000) with
      | (.ok ps, s') => s'.unreadable ps == x.2
      | _ => false) = true) ∧
    (∀ a ∈ [some true, some false], (holding a).memWf = true ∧ (holding a).wafer.heldDma = [⟨0, 0, dmaAt true 0x7000, a⟩]) ∧
    base.wafer.boot = .running ∧ launching.memWf = true ∧ launching.launchStatus (packet 1 (.shape 1 1 (some (2, 0)))) = 0 ∧
    launching.siteOf (packet 1 (.shape 1 1 (some (2, 0)))) = .fresh 2 0 1 1 ∧ 4 ≤ launching.launchStatus (packet 1 (.reuse 9)) ∧
    launching.remapWaits (packet 1 (.shape 1 1 (some (2, 0)))) = false ∧ base.launchStatus (packet 1 (.reuse 9)) = 1 ∧
    (remapped.memWf = true ∧ remapped.evictions (codePacket (.shape 1 1 (some (2, 0)))) = [] ∧
      remapped.remapWaits (codePacket (.shape 1 1 (some (2, 0)))) = true) ∧
    (∀ q ∈ launching.wafer.plots, q.num ≠ launching.wafer.nextPlot) ∧
    (finished.memWf = true ∧ finished.launchStatus (packet 2 (.reuse 0)) = 0 ∧ finished.siteOf (packet 2 (.reuse 0)) = .reuse pl ∧
      finished.remapWaits (packet 2 (.reuse 0)) = false ∧ ∀ u ∈ pl.tiles, (finished.getTile u).ctx.plot = some 0) ∧
    (occupied.memWf = true ∧ occupied.launchStatus (packet 2 (.reuse 0)) = 0 ∧ occupied.siteOf (packet 2 (.reuse 0)) = .reuse pl ∧
      (occupied.getTile 1).ctx.plot = some 4) ∧
    base.wafer.boot ≠ .inReset ∧ State.reset.wafer.boot = .inReset := by
  and_intros
  all_goals decide +kernel

/-- Values on both sides of the bounds of each setting. -/
theorem witness_ManagementWrites : base.memWf = true ∧ begun base 0 ∧ ¬begun inGang 0 ∧ 2 < 16 ∧ 5 < 4096 ∧
    (let w0 : Word := 0x8001000000040000; bits w0 63 63 = 1 ∧ bits w0 55 48 % 2 ^ base.wafer.grade.cores ≠ 0) ∧
    (let w0 : Word := 0x8000000000040000; bits w0 63 63 = 1 ∧ bits w0 55 48 % 2 ^ base.wafer.grade.cores = 0) ∧
    4 + 4 + 4 + 4 ≤ 16 ∧ 16 < 4 + 4 + 4 + 5 ∧ (64 % 8 = 0 ∧ 64 ≤ 65536 ∧ 56 < 64) ∧ 12 % 8 ≠ 0 ∧ 7 < 8 ∧ 4095 < 4096 ∧
    (base.wafer.sysRanges.filter fun r => r.asid == 1).length < 64 ∧
    64 ≤ ((onWafer (fun w => { w with sysRanges := List.replicate 64 ⟨1, 0, 8, 0⟩ }) base).wafer.sysRanges.filter fun r =>
      r.asid == 1).length := by unfold begun; decide +kernel

/-- A call of the running record at the cellar, and the plot with an offer to tenant 4. -/
def offering : Plot := { pl with offers := [⟨1, 0, 0, 64, 4, false⟩] }
def calls (num : Nat) (arg : Word) : State :=
  onWafer (fun w => { w with plots := [offering], ueKeys := [(0, 3, 0)] })
    (flying (access (.s 3) .none 0 (.call num false arg 0 0)) base)
def callReplied : State :=
  let s := calls 1 0
  { s with flights := s.flights.map fun f => { f with st := .served 5 0 } }

/-- Barrier 1 to be freed, with a slot of the plot and a record that wait on it. -/
def freeing : State :=
  onCtx (fun c => { (c.setWait 0x40040 4 1) with waits := [⟨0, 1, 0x40040, false⟩] })
    (onSlot (fun x => { x with ir := 0x6D033803, bwait := some (1, 0) }) (calls 2 1))

/-- Plots with vintages on their halves, and one whose handle table is full. -/
def halves (l : List HEntry) : Plot := { pl with handles := l }
def vint (state : Nat) (half : Bool) (i : Nat) : HEntry := ⟨i, 0, some (.vintage ⟨state, half, 0, 0, 0⟩)⟩

theorem alloc_full (n : Nat) (h : HEntry) (a : h.obj.isSome = true) (b : 65536 ≤ n) (o : Obj) :
    (halves (List.replicate n h)).alloc o = none := by
  obtain ⟨x, e⟩ := Option.isSome_iff_exists.mp a
  have none : List.findIdx? (fun e : HEntry => e.obj.isNone) (List.replicate n h) = none :=
    List.findIdx?_eq_none_iff.mpr fun y m => by rw [List.eq_of_mem_replicate m, e]; rfl
  simp only [Plot.alloc, halves, none, List.length_replicate, Nat.not_lt.mpr b, if_false]

theorem witness_CallEvents :
    (∀ e ∈ [(1, 3), (1, 2 ^ 48 + 3), (1, 0), (1, 2 ^ 49 + 3), (1, 2 ^ 32 * 2 + 3), (2, 99), (2, 2 ^ 32 + 1), (2, 5), (2, 3), (5, 0),
        (5, 1), (7, 0x101), (7, 2 ^ 63 + 0x1010), (7, 2 ^ 63 + 2 ^ 32 + 0x101), (7, 0x100), (12, 1), (12, 2 ^ 16), (12, 9 * 2 ^ 32),
        (12, 2), (13, 1), (13, 2), (14, 0)],
      (calls e.1 (BitVec.ofNat 64 e.2)).memWf = true ∧ (calls e.1 (BitVec.ofNat 64 e.2)).arg = .flight 0 ∧
      ((calls e.1 (BitVec.ofNat 64 e.2)).flights.all fun f => f.st == .going && f.arrived
        && ((calls e.1 (BitVec.ofNat 64 e.2)).plot f.plot).any fun p => p.callTurn f false 0 0) = true) ∧
    (∀ e ∈ [(1, 0), (2, 99), (7, 0x100)], ((calls e.1 (BitVec.ofNat 64 e.2)).flights.all fun f =>
      match callOf e.1 (BitVec.ofNat 64 e.2) f offering (calls e.1 (BitVec.ofNat 64 e.2)) with
      | .err 4 _ => true
      | _ => false) = true) ∧
    (∀ w ∈ [false, true], (pl.alloc (.barrier ⟨w, 0, 0, 3, 0, 0, none, false, []⟩)).isSome = true) ∧ pl.find 99 = none ∧
    (pl.put 5 (.vintage ⟨3, false, 0, 0, 0⟩)).find 5 = some (.vintage ⟨3, false, 0, 0, 0⟩) ∧
    (pl.put 5 (.vintage ⟨1, false, 0, 1, 0⟩)).find 5 = some (.vintage ⟨1, false, 0, 1, 0⟩) ∧
    pl.find 5 = some (.vintage ⟨1, false, 0, 0, 0⟩) ∧ pl.find 3 = some (.region (.ptr 0x9000000000001000) 4096 true) ∧
    (freeing.memWf = true ∧ pl.find 1 = some (.barrier ⟨false, 0, 0, 2, 1, 0, none, false, []⟩) ∧
      (freeing.getTile 0).ctx.waitKind 0x40040 = (4, 1) ∧ freeing.slot.mode = .running ∧ freeing.slot.bwait = some (1, 0) ∧
      decode freeing.slot.ir = some (.bwait 8 3 7 false false)) ∧
    ((halves [vint 1 false 8, vint 1 true 9]).qualifies false = false ∧ (halves [vint 1 false 8, vint 1 true 9]).qualifies true = false) ∧
    ((halves []).qualifies false = true ∧ (halves []).onHalf false = none) ∧
    ((halves [vint 2 false 8]).qualifies false = true ∧ (halves [vint 2 false 8]).onHalf false = some (8, ⟨2, false, 0, 0, 0⟩)) ∧
    (∀ o, (halves (List.replicate 65536 ⟨8, 0, some (.region (.ptr 0) 64 true)⟩)).alloc o = none) ∧
    ((halves [vint 1 false 8]).qualifies false = false ∧ (halves [vint 1 false 8]).qualifies true = true) ∧
    ((calls 12 1).plot 0).map (fun q => q.offers.find? fun o => o.num == 1) = some (some ⟨1, 0, 0, 64, 4, false⟩) ∧ 4 ≠ pl.tenant ∧
    (callReplied.flights.all fun f => f.st == .served 5 0 && f.arrived && callReplied.home f
      && ({ callReplied with flights := [] } : State).runner f == some base.cur) = true := by
  and_intros
  all_goals first
    | decide +kernel
    | exact alloc_full _ _ rfl (Nat.le_refl _)

/-- A call whose argument points to some words at 0x1000 of tile 0, in window 0xA. -/
def blockAt : Word := 0xA000000000001000
def blockCall (num : Nat) (ws : List Nat) : State :=
  onCtx (fun c => { c with spad := Memory.writeN c.spad 0x1000 (ws.flatMap (leBytes 8)) }) (calls num blockAt)

theorem readsBlock_of {s : State} {f : Flight} {p : Plot} {x : Word} {n : Nat} {ps : List (Place × Nat)} {bs : List Byte}
    (a : (s.callPlaces f p x n .read).1 = some ps) (b : (s.callPlaces f p x n .read).2.allHeld p.num ps = true)
    (o : (s.callPlaces f p x n .read).2.banksFree ps = true)
    (w : (ps.any fun a => (s.callPlaces f p x n .read).2.refreshing a.1 a.2) = false)
    (u : (s.callPlaces f p x n .read).2.unreadable ps = false) (c : ((s.callPlaces f p x n .read).2.readRanges ps).1 = bs) :
    readsBlock s f p x n bs ((s.callPlaces f p x n .read).2.readRanges ps).2 :=
  ⟨ps, _, by rw [← a], b, o, fun q m => by simpa using List.any_eq_false.mp w q m, u, by rw [← c]⟩

/-- The block of such a call is the plot's, and it can be read or not, to n bytes. -/
def blockThere (s : State) (n : Nat) (bad : Bool) : Bool :=
  s.flights.all fun f =>
    (s.callPlaces f offering blockAt n .read).1 == some [(⟨.spad 0, 0x1000⟩, n)]
      && (s.callPlaces f offering blockAt n .read).2.allHeld offering.num [(⟨.spad 0, 0x1000⟩, n)]
      && (s.callPlaces f offering blockAt n .read).2.banksFree [(⟨.spad 0, 0x1000⟩, n)]
      && !(s.callPlaces f offering blockAt n .read).2.refreshing ⟨.spad 0, 0x1000⟩ n
      && (s.callPlaces f offering blockAt n .read).2.unreadable [(⟨.spad 0, 0x1000⟩, n)] == bad
def blockRead (s : State) (n : Nat) (ws : List Nat) : Bool :=
  blockThere s n false && s.flights.all fun f =>
    ((s.callPlaces f offering blockAt n .read).2.readRanges [(⟨.spad 0, 0x1000⟩, n)]).1 == (ws.flatMap (leBytes 8)).take n

/-- Blocks that each call takes and refuses; the form of a launch packet is a free value (log 9), so that no
block of call 8 can be written out. -/
theorem witness_CallBlocks :
    (∀ e ∈ [(3, 24, [0xA000000000002000, 0x100, 1]), (3, 24, [0xA000000000002000, 0x100, 2]), (4, 8, [0]), (4, 8, [17]),
        (4, 24, [1, 64, 0xA000000000002000]), (4, 24, [1, 0, 0xA000000000002000]), (6, 24, [0xA000000000002000, 6 * 2 ^ 48 + 2 ^ 32, 3]),
        (6, 24, [0xA000000000002000, 6 * 2 ^ 48 + 2 ^ 32, 4]), (6, 24, [0xA000000000002000, 5 * 2 ^ 48 + 2 ^ 32, 3]), (9, 64, [1, 2, 3, 4, 5, 6, 7, 8]),
        (10, 8, [0]), (10, 8, [4097]), (10, 12, [4, 7]), (11, 24, [0xA000000000002000, 64, 1]), (11, 24, [0xA000000000002000, 32, 1])],
      (blockCall e.1 e.2.2).memWf = true ∧ blockRead (blockCall e.1 e.2.2) e.2.1 e.2.2 = true) ∧
    (∀ e ∈ [(3, 24), (4, 8), (6, 24), (9, 64), (10, 8), (11, 24)],
      let s := onWafer (fun w => { w with bad := [⟨.spad 0, 0x1000⟩] }) (blockCall e.1 []);
      s.memWf = true ∧ blockThere s e.2 true = true) ∧
    (∀ e ∈ [(6, 0x2000, 64), (9, 0x1040, 1648)], (blockCall e.1 []).holds 0 0 = true ∧
      (blockCall e.1 []).leased ⟨.spad 0, e.2.1⟩ e.2.2 = false ∧ (blockCall e.1 []).banksFree [(⟨.spad 0, e.2.1⟩, e.2.2)] = true) ∧
    (blockCall 8 []).agenda = [] ∧
    (wellFormed offering.count 0xA000000000002000 (64 + 2 ^ 1 * 2 ^ 6) = true ∧ win 0xA000000000002000 = 0xA) ∧
    wellFormed offering.count blockAt 1712 = true ∧ (blockCall 6 []).ringNum.isSome = true ∧
    (wellFormed offering.count 0xA000000700001000 24 = false) ∧ offering.nextOffer ≤ 65535 := by
  and_intros
  all_goals decide +kernel

/-- An empty source, with and without its w bit, and a destination that is owed a value. -/
theorem witness_TrapEntry : base.memWf = true ∧ base.own = some pl ∧
    (vget (base.die pl.die).trap (ringOf pl.asid) []).length < 512 ∧ (base.die pl.die).heldTrap = [] ∧
    (base.slot.badReg = [] ∧ base.slot.isFull 2 = true) ∧ oneOwed.slot.isFull 2 = false ∧ oneOwed.slot.isFull 1 = true ∧ oneOwed.slot.badReg = [] ∧
    (onSlot (fun x => x.pend (.s 9)) loading).producing (.s 9) = true := by decide +kernel

/-- The state at hand with its word in the loop buffer. -/
def buffering : State := onSlot (fun x => { x with buf := [(x.pc, 0x04611000)] }) base

theorem witness_StepRunsDecoded :
    (∀ s ∈ [base, buffering], (match s.turn with
      | .issue l => l == s.cur
      | _ => false) = true ∧ (s.takeTurn s.cur).breaks (s.takeTurn s.cur).slot.pc = false) ∧
    (buffering.takeTurn base.cur).slot.buffered (buffering.takeTurn base.cur).slot.pc = some 0x04611000 ∧
    (let u := base.takeTurn base.cur
     u.slot.buffered u.slot.pc = none ∧
      lookupIn u.slotTlb (u.asid u.cur.tile) (bits u.slot.pc 56 0) = some ⟨0, 0, 12, 0, 0, true, true, true⟩ ∧
      u.lineIn u.cur.tile u.slot.pc = true ∧ u.unreadable [(⟨.edge, 0⟩, 4)] = false) ∧
    (match (onSlot (fun _ => Slot.reset) base).turn with
      | .idle => true
      | _ => false) = true ∧
    (match ({ base with agenda := [⟨none, .linkRetry, .lane ⟨0, 1⟩ 0⟩] } : State).turn with
      | .move m _ => m.loc.isNone && isEvent m.i
      | _ => false) = true ∧
    (match (onSlot (fun x => { x with stallFrom := some 0 }) (onTile (fun x => { x with icache := [] })
        (State.withFetchWord State.reset 32 0x04611000))).turn with
      | .auto i _ => i == .instructionLineFill
      | _ => false) = true := by decide +kernel

theorem witness_MemWfKept : base.memWf = true ∧ ∃ t, step base = .next t := ⟨by decide +kernel, by
  have ok : (match step base with
    | .next _ => true
    | _ => false) = true := by decide +kernel
  split at ok
  · exact ⟨_, ‹_›⟩
  · cases ok⟩

/-! ### Well-formedness: an ill-formed term for each check (spec/03 R52) -/

/-- For each check a term that it refuses beside one of the same constructor that it takes. -/
def smoke : List (Instr × Instr) := [
  (.loop 3 1 5, .loop 2 1 5), (.loopi 0 1 0, .loopi 0 1 1), (.loop 0 1 257, .loop 0 1 256), (.lbrk 3, .lbrk 0),
  (.suspTag 7 1 false, .suspTag 6 1 false), (.refq 0 4 true 0, .refq 0 4 false 0),
  (.amoAdd 1 2 3 false false .tile .f32, .amoAdd 1 2 3 false false .tile .w),
  (.amoFadd 1 2 3 false false .tile .d, .amoFadd 1 2 3 false false .tile .h16),
  (.redAdd 1 2 false false .bf16, .redAdd 1 2 false false .d), (.redFmax 1 2 false false .w, .redFmax 1 2 false false .bf16),
  (.fence 0 1 false true .tile, .fence 0 1 true true .tile), (.fence 1 0 true false .tile, .fence 1 2 true false .tile),
  (.fenceSc .plot, .fenceSc .wafer), (.vlds 0 1 2 .i4, .vlds 0 1 2 .i8), (.vsts 0 1 2 .b8, .vsts 0 1 2 .e8s),
  (.vgath 0 1 2 .n16, .vgath 0 1 2 .n32), (.vscat 0 1 2 .bf16, .vscat 0 1 2 .f32), (.vadd 0 1 2 .i32 .rne, .vadd 0 1 2 .h16 .rne),
  (.vaddInt 0 1 2 .f32, .vaddInt 0 1 2 .n8), (.vmagInt 0 1 .n8, .vmagInt 0 1 .i8), (.vshl 0 1 2 .i32, .vshl 0 1 2 .n32),
  (.vsra 0 1 2 .i4, .vsra 0 1 2 .i8), (.vcmpEq 0 1 2 .e8s, .vcmpEq 0 1 2 .i4), (.vcmpNan 0 1 .i8, .vcmpNan 0 1 .f32),
  (.vsel 0 1 2 .b8, .vsel 0 1 2 .e8s), (.vcvt 0 1 .f32 .f32 .rne 0, .vcvt 0 1 .f32 .bf16 .rne 0),
  (.vcvt 1 0 .bf16 .f32 .rne 0, .vcvt 2 0 .bf16 .f32 .rne 0), (.vcvt 2 0 .i8 .f32 .rne 0, .vcvt 4 0 .i8 .f32 .rne 0),
  (.vcvt 0 1 .f32 .b8 .rne 0, .vcvt 0 1 .f32 .b8 .rne 0x10), (.vcvt 0 1 .i8 .i64 .rne 0, .vcvt 0 1 .i16 .i64 .rne 0),
  (.vcvtX3109Std 0 1 3, .vcvtX3109Std 0 1 4), (.vdqntMx 0 1 2 .f32 .rne 2, .vdqntMx 0 1 2 .f32 .rne 1),
  (.vdqntNat 1 2 3 .f32 .rne 0, .vdqntNat 1 2 3 .bf16 .rne 0), (.vqntNat 1 3 2 .f32 .rne 0, .vqntNat 1 2 3 .f32 .rne 0),
  (.vsclNat 1 3 .f32 0, .vsclNat 1 4 .f32 0), (.vsum 0 1 .i32 .rtz, .vsum 0 1 .i32 .rne), (.vmean 0 1 .i32 .rne, .vmean 0 1 .f32 .rne),
  (.vcntp 0 1 .b8, .vcntp 0 1 .e8s), (.vrmax 0 1 .e8s, .vrmax 0 1 .n64), (.vsqrt 0 1 .n32 .rne, .vsqrt 0 1 .bf16 .rne),
  (.vperm 0 1 2 .i4, .vperm 0 1 2 .n8), (.viota 0 1 .i8, .viota 0 1 .n8), (.vrotImm 0 1 .i64 64, .vrotImm 0 1 .i64 63),
  (.vfill 0 .n8 0x7F, .vfill 0 .i8 0x7F), (.vfill 0 .i4 8, .vfill 0 .i4 7), (.vfill 0 .e8s 3, .vfill 0 .e8s 4), (.vfill 0 .b8 1, .vfill 0 .f32 1),
  (.vmkab 0 1 .i16 0, .vmkab 0 1 .i8 0), (.vmkab 0 1 .f32 1, .vmkab 0 1 .b8 4), (.vextImm 0 1 .n64 64, .vextImm 0 1 .n64 63),
  (.vbcast 0 1 .b8, .vbcast 0 1 .i4), (.ecw .ce 1 7, .ecw .ce 1 6), (.ecr .me 1 18, .ecr .me 1 17), (.ecw .de 1 6, .ecw .de 1 5),
  (.mzero 1, .mzero 0), (.mzero 16, .mzero 15)]

theorem test_wf_smoke : (smoke.all fun x => !x.1.wf && x.2.wf) = true := by decide +kernel

theorem witness_RoundTrip : (smoke.all fun x => x.2.wf && x.2.isWord && (encode x.2).isSome) = true ∧ Instr.dispatch.isWord = false := by
  decide +kernel

/-! ### Results that the spec works out -/

/-- s3 after an instruction on s1 and s2. -/
def scalarOf (i : Instr) (x y : Word) : Word := (after i (regs [(1, x), (2, y)])).slot.s 3

/-- spec/04, the table of results worked from R65. -/
theorem test_worked_alu : ([
    (.div 3 1 2 false false, 0xFFFFFFFFFFFFFFF9, 2, 0xFFFFFFFFFFFFFFFD), (.rem 3 1 2 false false, 0xFFFFFFFFFFFFFFF9, 2, 0xFFFFFFFFFFFFFFFF),
    (.divn 3 1 2 false false, 0xFFFFFFFFFFFFFFF9, 2, 0x7FFFFFFFFFFFFFFC), (.remn 3 1 2 false false, 0xFFFFFFFFFFFFFFF9, 2, 1),
    (.div 3 1 2 false false, 5, 0, 0xFFFFFFFFFFFFFFFF), (.rem 3 1 2 false false, 5, 0, 5),
    (.div 3 1 2 false false, 0x8000000000000000, 0xFFFFFFFFFFFFFFFF, 0x8000000000000000),
    (.mulhn 3 1 2 false false, 0xFFFFFFFFFFFFFFFF, 0xFFFFFFFFFFFFFFFF, 0xFFFFFFFFFFFFFFFE),
    (.mulh 3 1 2 false false, 0xFFFFFFFFFFFFFFFF, 0xFFFFFFFFFFFFFFFF, 0), (.sra 3 1 2 false false, 0x8000000000000000, 65, 0xC000000000000000),
    (.rol 3 1 2 false false, 0x8000000000000001, 4, 0x18), (.sext 3 1 2 false false, 0xF0, 8, 0xFFFFFFFFFFFFFFF0),
    (.zext 3 1 2 false false, 0xFFFFFFFFFFFFFFF0, 4, 0), (.clz 3 1 false, 0, 0, 64), (.ctz 3 1 false, 0x8000000000000000, 0, 63)] :
    List (Instr × Word × Word × Word)).all (fun e => scalarOf e.1 e.2.1 e.2.2.1 == e.2.2.2) = true := by decide +kernel

/-- spec/04 R69: the base of window 0x8. -/
theorem test_worked_lih : (after (.lih 30 0 0x4000 false) base).slot.s 30 = 0x8000000000000000 := by decide +kernel

/-- Core 5, slot 2 of tile 3 (spec/06, "one byte under three names"). -/
def onTile3 (slot : Nat) (p : Word) (k : Word) : State :=
  let s := onWafer (fun w => { w with plots := [{ pl with w := 4 }] }) (onCtx (fun c => { c with n := 3 }) (regs [(1, p), (2, k)]))
  { s with cur := ⟨0, 5, slot⟩ }

theorem test_worked_pointers :
    (after (.addp 3 1 2 false false) (onTile3 2 0x8000000580000000 0x40)).slot.s 3 = 0x8000000580000040 ∧
    (after (.wincSh 3 1 false) (onTile3 2 0x8000000580000040 0)).slot.s 3 = 0xA00000030002C040 ∧
    (after (.wincLc 3 1 false) (onTile3 2 0xA00000030002C040 0)).slot.s 3 = 0x900000030002C040 ∧
    ([0x8000000580000040, 0xA00000030002C040, 0x900000030002C040] : List Word).map (fun p =>
      (after (.winq 3 1 false) (onTile3 2 p 0)).slot.s 3) = [0xB8, 0xBA, 0xB9] ∧
    (after (.winq 3 1 false) (onTile3 3 0x8000000580000040 0)).slot.s 3 = 0x98 := by decide +kernel

theorem test_worked_pointer_traps :
    (let t := after (.addp 3 1 2 false false) (onTile3 2 0x8000000580000040 0x1FC0)
     t.slot.mode = .halted ∧ t.slot.trapv = 0x8000000580000040 ∧ t.slot.trapc = BitVec.ofNat 64 (2 ^ 16 + Cause.windowRange.code)) ∧
    (after (.wincLc 3 1 false) (onTile3 2 0xA00000010002C040 0)).slot.trapc = BitVec.ofNat 64 (2 ^ 16 + Cause.foreignWindow.code) := by
  decide +kernel

/-- spec/07 R131, the sequence on an f32 word: the new word and the flags of each step. -/
theorem test_worked_atomics :
    (([(.fadd, 0xFFFFFFFF, 0x3FC00000), (.fadd, 0x3FC00000, 0xFFFFFFFF), (.fadd, 0x3FC00000, 0x7F800000), (.fadd, 0x7F800000, 0xFF800000),
        (.amaxx, 0x7FC00000, 0)] : List (AmoOp × Nat × Nat)).map fun e => amoStep e.1 .f32 e.2.1 e.2.2 0) =
      [(0x3FC00000, 0), (0x3FC00000, 0), (0x7F800000, 0), (0x7FC00000, fNV), (0xFFFFFFFF, 0)] := by decide +kernel

/-- A value in every rounding mode. -/
def roundings (t : Ty) (v : Val) : List (Nat × Nat) := [Rnd.rne, .rtz, .rup, .rdn, .rto].map fun r => t.round r v

/-- spec/10, the worked conversions. -/
theorem test_worked_conversions :
    roundings (Ty.ofDesc 0x10) (.fin false 11 10 0) = [(0x41, fNX), (0x40, fNX), (0x41, fNX), (0x40, fNX), (0x41, fNX)] ∧
    roundings (Ty.ofDesc 0x10) (.fin true 11 10 0) = [(0xC1, fNX), (0xC0, fNX), (0xC0, fNX), (0xC1, fNX), (0xC1, fNX)] ∧
    roundings (Ty.ofDesc 0x10) (.fin false 19 1 (-4)) = [(0x42, fNX), (0x41, fNX), (0x42, fNX), (0x41, fNX), (0x41, fNX)] ∧
    roundings (Ty.ofDesc 0x10) (.fin false 3 1 (-12)) =
      [(0x01, fUF ||| fNX), (0x00, fUF ||| fNX), (0x01, fUF ||| fNX), (0x00, fUF ||| fNX), (0x01, fUF ||| fNX)] ∧
    roundings (Ty.ofDesc 0x10) (.int 250) = [(0x7F, fOF ||| fNX), (0x7F, fNX), (0x7F, fOF ||| fNX), (0x7F, fNX), (0x7F, fNX)] ∧
    roundings (Ty.ofDesc 0x11) (.int 250) = List.replicate 5 (0x7E, fOF ||| fNX) ∧
    roundings (.el .bf16) (.fin false 257 1 (-8)) = [(0x3F80, fNX), (0x3F80, fNX), (0x3F81, fNX), (0x3F80, fNX), (0x3F81, fNX)] ∧
    roundings (.el .h16) (.int 70000) =
      [(0x7C00, fOF ||| fNX), (0x7BFF, fOF ||| fNX), (0x7C00, fOF ||| fNX), (0x7BFF, fOF ||| fNX), (0x7BFF, fOF ||| fNX)] := by
  decide +kernel

/-- spec/10, one element and two groups: the accumulator, then its drains. -/
theorem test_worked_accumulator :
    let one : Val := .int 1
    let tiny : Val := .fin false 1 1 (-23)
    let ps := (one, one) :: List.replicate 15 (tiny, tiny) ++ List.replicate 16 (.absent, one)
    addGroups false 0 ps = (0x00103FE00000000008, fNX) ∧
    drainElem false 0 (.el .f32) .rne 0x00103FE00000000008 = (0x3F800000, fNX) ∧
    drainElem false 1 (.el .f32) .rne 0x00103FE00000000008 = (0x3D800000, fNX) ∧
    drainElem false 1 (.el .f32) .rup 0x00103FE00000000008 = (0x3D800001, fNX) ∧
    drainElem false 2 (.el .i32) .rne 0x00103FE00000000008 = (16, 0) ∧ drainElem false 0 (.el .f32) .rne 0 = (0xFFFFFFFF, 0) := by
  decide +kernel

/-- spec/11 R221: a ragged row; one step each on the registers that the table gives. -/
def ragged : VReg := BitVec.ofNat 4096 (leNat ([0x3FC00000, 0x40200000, 0x40600000, 0x40900000, 0x40B00000, 0x40E00000, 0x41100000,
  0x41300000].flatMap (leBytes 4)))
def tailed : VReg := ragged ||| (BitVec.allOnes 4096 <<< (5 * 32))
def vecOf (i : Instr) (d : VNum) : VReg := (after i (onSlot (fun x => x.vwrite 0 tailed) base)).slot.v d

theorem test_worked_tail :
    (after (.vmkabTail 0 4 .f32 0) (onSlot (fun x => (x.vwrite 0 ragged).write 4 5) base)).slot.v 0 = tailed := by decide +kernel

theorem test_worked_reductions : vecOf (.vsum 1 0 .f32 .rne) 1 = 0x418C0000 ∧ vecOf (.vmean 2 0 .f32 .rne) 2 = 0x40600000 ∧
    vecOf (.vrmax 5 0 .f32) 5 = 0x40B00000 ∧ vecOf (.vcntp 3 0 .f32) 3 = 5 ∧
    vecOf (.vtsab 4 0 .f32 0) 4 = BitVec.ofNat 4096 (2 ^ 128 - 2 ^ 5) := by decide +kernel

/-- spec/10, ABSENT against a NaN and a signalling NaN. -/
theorem test_worked_absent_add :
    [(0xFFFFFFFF, 0x7FC00000), (0xFFFFFFFF, 0x7F800001), (0x3F800000, 0x7F800001), (0xFFFFFFFE, 0x3F800000)].map (fun e =>
      let t := after (.vadd 2 0 1 .f32 .rne) (onSlot (fun x => (x.vwrite 0 (BitVec.ofNat 4096 e.1)).vwrite 1 (BitVec.ofNat 4096 e.2)) base)
      (laneAt .f32 (t.slot.v 2) 0, t.slot.status.toNat)) =
    [(0xFFFFFFFF, 0), (0xFFFFFFFF, 0), (0x7FC00000, fNV), (0x7FC00000, 0)] := by decide +kernel

/-- spec/04, two loops ending together: the step at D with the inner counter at 1 and the outer one at 3. -/
theorem test_worked_loops :
    let s := onSlot (fun x => { x with pc := 12, loops := [⟨1, 12, 12⟩, ⟨0, 4, 12⟩], lc := #v[3, 1, 0] }) base
    let t := after (.addi 8 8 1 false) s
    t.slot.s 8 = 1 ∧ t.slot.lc = #v[2, 0, 0] ∧ t.slot.loops = [⟨0, 4, 12⟩] ∧ t.slot.pc = 4 := by decide +kernel

/-- spec/06, one walk: the table indices of VA 0x20_0000_0000, the leaf found and A set. -/
theorem test_worked_walk :
    [4, 3, 2, 1, 0].map (fun l => 0x2000000000 / 2 ^ levelBit l % 512 * 8) = [0, 0, 0x400, 0, 0] ∧
    (match ((base.mapPage 0 permData 0x2000000000).walk 0 0x2000000000 .read) with
      | (.ok e, some _) => e.bits == 12 && e.va == 0x2000000000
      | _ => false) = true := by decide +kernel

/-! ### A step on a state with a word in place -/

theorem test_step_runs_word :
    decodeTableWord 32 0x04611000 = some (.add 3 1 2 false false) ∧
    (match step (State.reset.withFetchWord 32 0x04611000) with
      | .next t => t.slot.pc == 4 && t.slot.ir == 0x04611000 && t.slot.mode == .running
      | _ => false) = true := by decide +kernel

/-- spec/03 R52: a word of major 0x00 traps ILLEGAL with the word, at its own address. -/
theorem test_illegal_word :
    (match step (State.reset.withFetchWord 32 0x00000007) with
      | .next t => t.slot.mode == .halted && t.slot.pc == 0 && t.slot.trapv == 7 && t.slot.trapc == BitVec.ofNat 64 (2 ^ 16 + Cause.illegal.code)
      | _ => false) = true := by decide +kernel

theorem test_reset_kept : State.reset.memWf = true := by decide +kernel


/-- spec/14 R250: a rectangle overlaps no other live plot, whether or not a swap has taken that plot off its tiles. -/
theorem test_rectangle :
    base.rectOk 0 0 1 1 = false ∧ base.rectOk 2 0 1 1 = true ∧
    (onTile (fun x => { x with ctx := { x.ctx with plot := none } }) base).rectOk 0 0 1 1 = false := by decide +kernel
end Sys2Proof.Tests
end

