-- ==== Sys2Proof/Proofs/MemoriesCanonical.lean ====
section
/-!
PROOF. The memories do not stay in canonical form (O59): an invalidation empties the translation cache of a die and
leaves the die listed, also when what is left of it is a die after reset.
-/
namespace Sys2Proof.Machine

/-- A die of which nothing but one cached translation differs from a die after reset. -/
def cachedDie : Die := { Die.reset with tlb := [⟨0, 0, 12, 0, 0, true, true, true⟩] }

/-- A part that lists such a die, asked to invalidate every translation. -/
def invalidating : State :=
  { State.reset with
    wafer := { Wafer.reset with dies := [(0, cachedDie)] }
    agenda := [⟨none, .translationInvalidation, .inv .all⟩] }

/-- The same part once the invalidation is acknowledged. -/
def invalidated : State :=
  (({ invalidating with agenda := [], arg := .inv .all } : State).invalidate .all).report .invalidated

theorem memWf_invalidating : invalidating.memWf = true := by decide +kernel

theorem step_invalidating : step invalidating = .next invalidated := rfl

/-- The die is still listed, with the value that an absent die has. -/
theorem dies_invalidated : invalidated.wafer.dies = [(0, Die.reset)] := rfl

theorem not_memWf_of_dies_reset {s : State} {k : Nat} (h : s.wafer.dies = [(k, Die.reset)]) : s.memWf = false := by
  simp [State.memWf, h, Sparse.wf, Sparse.wfFrom]

/-- Refutes O59: from `invalidating`, whose memories and tables are in canonical form, the invalidation of every
translation answers `invalidated`, whose table of dies lists a die that equals the reset die. -/
theorem not_memWfKept : ¬ Obligations.MemWfKept := by
  unfold Obligations.MemWfKept
  intro kept
  have canonical : invalidated.memWf = true := kept invalidating invalidated memWf_invalidating step_invalidating
  rw [not_memWf_of_dies_reset dies_invalidated] at canonical
  exact Bool.false_ne_true canonical

end Sys2Proof.Machine
end

