-- ==== Sys2Proof/Proofs/CaskHalves.lean ====
section
/-!
PROOF. A read that runs from one half of a cask into the other is not answered with the bytes that `State.readPlace` names
(O35): its lines have their turns apart, so the line past the middle comes from half B, while `State.readPlace` takes the
whole range from the half where it begins. No pointer that passes R93 names such a range, but the statement admits it.
-/
namespace Sys2Proof.Machine

/-- The last byte of half A of the cask of tile 0. -/
def lastOfHalfA : Place := ⟨.cask 0, 2 ^ 21 - 1⟩

/-- Tile 0 holds plot 0; half A of its cask is zero, and the first byte of half B is 1. -/
def halvesDiffer : State :=
  { State.reset with tile := { Tile.reset with ctx := { Ctx.reset with plot := some 0 }, caskB := [(0, 1)] } }

/-- A read of an engine of that tile: the last byte of half A and the first of half B. -/
def acrossHalves : Flight :=
  halvesDiffer.flight .none .eng false false 0 1 1 0 (.fetch ⟨0, none, [(lastOfHalfA, 2)]⟩ ⟨0, none, []⟩)

/-- That read has come to the cask, and the step at hand is about it. -/
def readsAcross : State := { halvesDiffer with flights := [acrossHalves], arg := .flight 0 }

theorem memWf_readsAcross : readsAcross.memWf = true := by decide +kernel

theorem landed_acrossHalves : readsAcross.landed 0 acrossHalves = true := by decide +kernel

theorem present_acrossHalves : readsAcross.present acrossHalves = true := by decide +kernel

theorem noneParked_readsAcross : Claims.noneParked readsAcross := by
  intro f mem k parked
  obtain rfl : f = acrossHalves := List.mem_singleton.mp mem
  cases parked

theorem noHidden_lastOfHalfA (s : State) (n : Nat) : Claims.noHidden s lastOfHalfA n := by
  intro t inSpad
  cases inSpad

theorem bankReady_readsAcross : Claims.bankReady readsAcross lastOfHalfA 2 := by
  unfold Claims.bankReady
  decide +kernel

theorem bankEach_lastOfHalfA : Claims.bankEach lastOfHalfA 2 := by
  change (2 ^ 21 - 1) % 64 + 2 ≤ 512
  decide

/-- `State.readPlace` stays in half A, which is zero. -/
theorem readPlace_lastOfHalfA : readsAcross.readPlace lastOfHalfA 2 = [0, 0] := by decide +kernel

/-- What an outcome leaves of access 0, if it answers a next state. -/
def firstStatus : Out → Option FlSt
  | .next t => t.flights[0]?.map Flight.st
  | _ => none

/-- The access is answered with the byte of half B as its second byte. -/
theorem firstStatus_readsAcross : firstStatus (exec .bankAccess readsAcross) = some (.served 256 0) := by decide +kernel

/-- Refutes O35: in `readsAcross` every hypothesis on the read of an engine holds, and it is answered with 256, the bytes
0 and 1 of the two halves, where the statement asks for the value 0 of the bytes of half A. -/
theorem not_bankAccess : ¬ Obligations.BankAccess := by
  unfold Obligations.BankAccess
  intro claim
  obtain ⟨-, -, present⟩ := claim readsAcross 0 acrossHalves memWf_readsAcross ⟨rfl, rfl⟩ landed_acrossHalves
  obtain ⟨fetched, -⟩ := present present_acrossHalves noneParked_readsAcross
  obtain ⟨t, step, ⟨g, here, status, -⟩, -⟩ := fetched lastOfHalfA 2 ⟨0, none, [(lastOfHalfA, 2)]⟩ ⟨0, none, []⟩ rfl rfl
    (noHidden_lastOfHalfA _ _) bankReady_readsAcross bankEach_lastOfHalfA ⟨rfl, rfl⟩
  have claimed : firstStatus (exec .bankAccess readsAcross) = some (.served 0 0) := by
    rw [step, firstStatus, here, Option.map_some, status, readPlace_lastOfHalfA]
    rfl
  rw [firstStatus_readsAcross] at claimed
  cases claimed

end Sys2Proof.Machine
end

