-- ==== Sys2Proof/Proofs/CellarEvents.lean ====
section
/-!
PROOF. The cellar's commands to a halted slot, freeze and thaw of one slot, and rings with space (O47). First one rule for each
operation that these steps share: a command to a slot, a resumption, a trap, a freeze and a thaw of the slot at hand, and
the record that enters a ring; then one lemma for each step.
-/
namespace Sys2Proof.Machine
open Claims

/-! ### Commands and the slot at hand -/

theorem State.command_halted {s : State} {l : SlotLoc} (h : (s.getSlot l).mode = .halted) (k : State → State) :
    s.command l k = k s := if_pos h

theorem State.command_notHalted {s : State} {l : SlotLoc} (h : (s.getSlot l).mode ≠ .halted) (k : State → State) :
    s.command l k = s.report .notHalted := if_neg h

theorem State.at_cur {s : State} {f : State → State} (h : (f s).cur = s.cur) : s.at s.cur f = f s := by
  rw [State.at, State.focus_cur, ← h, State.focus_cur]

theorem reports_report (s : State) (r : Report) : reports (s.report r) r := rfl

/-! ### A register written with its full bit -/

theorem Slot.pend_s (x : Slot) (d : Dest) (i : Reg) : (x.pend d).s i = x.s i := by
  rw [Slot.s, Slot.s, Slot.pend_sreg]

theorem Slot.pend_isFull_self (x : Slot) {i : Reg} (h : i ≠ 0) : (x.pend (.s i)).isFull i = false := by
  rw [Slot.pend, if_neg h, Slot.isFull, beq_false_of_ne h, Bool.false_or]
  exact setBit_self _ i.isLt false

theorem Slot.put_s_self (x : Slot) {i : Reg} (h : i ≠ 0) (v : Nat) (full : Bool) :
    (x.put (.s i) v full).s i = BitVec.ofNat 64 v := by
  have written : (x.write i (BitVec.ofNat 64 v)).s i = BitVec.ofNat 64 v := by
    rw [Slot.write, Slot.writeFrom_s, if_pos ⟨rfl, h⟩]
  cases full
  · exact (Slot.pend_s _ (.s i) i).trans written
  · exact written

theorem Slot.put_isFull_self (x : Slot) {i : Reg} (h : i ≠ 0) (v : Nat) (full : Bool) :
    (x.put (.s i) v full).isFull i = full := by
  cases full
  · exact Slot.pend_isFull_self _ h
  · change (x.writeFrom i (BitVec.ofNat 64 v) 0).isFull i = true
    rw [Slot.writeFrom_isFull, beq_self_eq_true, Bool.or_true]

/-! ### What a write of the slot at hand sets -/

theorem State.cellPut_s_slot (s : State) {i : Reg} (h : i ≠ 0) (v : Nat) (full : Bool) :
    (s.cellPut s.cur (.s i) v full).slot = s.slot.put (.s i) v full := by
  rw [State.cellPut, if_neg h]
  exact congrArg State.slot (State.onSlot_cur (s.cancel s.cur (.s i)) _)

theorem State.cellPut_lc_slot (s : State) (i v : Nat) (full : Bool) :
    (s.cellPut s.cur (.lc i) v full).slot = { s.slot with lc := vset s.slot.lc i (BitVec.ofNat 64 v) } := by
  rw [State.cellPut, State.onSlot_cur, State.onCur_slot]

theorem State.cellPut_pc_slot_pc (s : State) (v : Nat) (full : Bool) :
    (s.cellPut s.cur .pc v full).slot.pc = BitVec.ofNat 64 (bits (BitVec.ofNat 64 v) 56 2 * 4) := by
  rw [State.cellPut, State.onSlot_cur, State.onCur_slot]

/-- A PC keeps bits 56 to 2 of what is written (spec/03 R55). -/
theorem toNat_codeAddress (v : Nat) :
    (BitVec.ofNat 64 (bits (BitVec.ofNat 64 v) 56 2 * 4)).toNat = v / 4 % 2 ^ 55 * 4 := by
  simp only [bits, BitVec.toNat_ofNat]
  omega

/-! ### Resuming (spec/05 R91) -/

theorem Ctx.recState_setState {c : Ctx} (h : c.memWf = true) (off : Nat) {st : Nat} (lt : st < 16) :
    (c.setState off st).recState off = st := by
  rw [Ctx.recState, Ctx.setState, Ctx.putWord_spad, Memory.word_writeN_self h]
  omega

/-- A slot that issues again, with nothing fixed. -/
def Slot.resumed (x : Slot) : Slot :=
  { x with mode := .running, byFreeze := none, snap := [], stallFrom := none, fwait := none, leaving := none }

/-- The slot at hand resumes, where its halt found no page-fault wait. -/
theorem State.resume_eq {s : State} (h : s.slot.fwait = none) :
    s.resume = ((s.setRecState 2).forgetMiss s.cur).onCur Slot.resumed := by
  unfold State.resume
  rw [h]
  rfl

theorem State.resume_cur {s : State} (h : s.slot.fwait = none) : s.resume.cur = s.cur := by
  rw [State.resume_eq h]; rfl

theorem State.resume_slot {s : State} (h : s.slot.fwait = none) : s.resume.slot = s.slot.resumed := by
  rw [State.resume_eq h]; rfl

theorem State.recState_resume {s : State} (wf : s.memWf = true) (h : s.slot.fwait = none) :
    s.resume.tile.ctx.recState s.slot.run.off = 2 := by
  rw [State.resume_eq h]
  have ctxWf : s.tile.ctx.memWf = true := Tile.memWf_getCtx (State.getTile_cur s ▸ State.memWf_getTile wf s.cur.tile)
  exact Ctx.recState_setState ctxWf _ (by decide)

theorem State.stepHere_cur {s : State} (h : s.slot.fwait = none) : s.stepHere.cur = s.cur :=
  State.resume_cur (s := s.onCur fun x => { x with stepping := true }) h

theorem State.stepHere_slot {s : State} (h : s.slot.fwait = none) :
    s.stepHere.slot = { ({ s.slot with stepping := true } : Slot).resumed with byFreeze := s.slot.byFreeze } :=
  congrArg (fun x : Slot => { x with byFreeze := s.slot.byFreeze })
    (State.resume_slot (s := s.onCur fun x => { x with stepping := true }) h)

/-! ### Taking a trap (spec/05 R90) -/

@[simp] theorem State.trapRecord_cur (s : State) (c : Nat) (v : Word) (i : Insn) : (s.trapRecord c v i).cur = s.cur := by
  unfold State.trapRecord; split <;> rfl
@[simp] theorem State.trapRecord_slot (s : State) (c : Nat) (v : Word) (i : Insn) : (s.trapRecord c v i).slot = s.slot := by
  unfold State.trapRecord; split <;> rfl
@[simp] theorem State.trapRecord_freezes (s : State) (c : Nat) (v : Word) (i : Insn) :
    (s.trapRecord c v i).wafer.freezes = s.wafer.freezes := by
  unfold State.trapRecord; split <;> rfl

@[simp] theorem State.takeTrapWith_cur (s : State) (c : Cause) (v : Word) (i : Insn) (b : Bool) :
    (s.takeTrapWith c v i b).cur = s.cur := by
  unfold State.takeTrapWith
  dsimp only
  split <;> exact State.trapRecord_cur ..

@[simp] theorem State.takeTrapWith_freezes (s : State) (c : Cause) (v : Word) (i : Insn) (b : Bool) :
    (s.takeTrapWith c v i b).wafer.freezes = s.wafer.freezes := by
  unfold State.takeTrapWith
  dsimp only
  split <;> exact State.trapRecord_freezes ..

/-- The slot halts where it stands, with the cause and the value of the trap. -/
theorem State.takeTrapWith_slot (s : State) (c : Cause) (v : Word) (i : Insn) (b : Bool) :
    (s.takeTrapWith c v i b).slot = { s.slot with
      mode := .halted, trapc := BitVec.ofNat 64 (2 ^ 16 + c.code), trapv := v, stallFrom := none, skipBp := b,
      haltReq := none, stepping := false, bwait := none, mwait := none, idleTo := none, leaving := none, waitFrom := none,
      xl := [] } := by
  unfold State.takeTrapWith
  dsimp only
  split <;>
    · rw [← State.trapRecord_slot s c.code v i]
      rfl

/-! ### A freeze of the slot at hand (spec/18 R301) -/

theorem State.freezeHere_cur (s : State) (sc : FreezeScope) : (State.freezeHere sc s).cur = s.cur :=
  State.takeTrapWith_cur s ..

theorem State.freezeHere_freezes (s : State) (sc : FreezeScope) : (State.freezeHere sc s).wafer.freezes = s.wafer.freezes :=
  State.takeTrapWith_freezes s ..

/-- A running slot halted with BREAKPOINT for the freeze of a scope. -/
def Slot.haltedBy (x : Slot) (sc : FreezeScope) : Slot :=
  { x with
    mode := .halted, trapc := 0x1000E, trapv := 0, stallFrom := none, skipBp := false, haltReq := none, stepping := false,
    bwait := none, mwait := none, idleTo := none, leaving := none, waitFrom := none, xl := [], byFreeze := some sc,
    fwait := none }

theorem State.freezeHere_slot {s : State} (h : s.slot.mode = .running) (sc : FreezeScope) :
    (State.freezeHere sc s).slot = s.slot.haltedBy sc := by
  unfold State.freezeHere
  dsimp only
  rw [h, State.takeTrapWith_slot]
  rfl

/-- A freeze halts a running slot at once. -/
theorem State.freezeSlots_running {s : State} (h : s.slot.mode = .running) (sc : FreezeScope) :
    s.freezeSlots sc [s.cur] = (1, State.freezeHere sc s) := by
  have halts : s.freezeSlot sc s.cur = (true, State.freezeHere sc s) := by
    rw [State.freezeSlot, State.getSlot_cur, h]
    dsimp only
    rw [State.at_cur (State.freezeHere_cur s sc)]
  rw [State.freezeSlots, halts]
  rfl

/-- The scope of a halted slot waits for the answer to no send. -/
theorem State.freezeDone_halted {s : State} (h : s.slot.mode = .halted) : s.freezeDone (.slot s.cur) = true := by
  simp [State.freezeDone, State.scopeSlots, h]

theorem State.endFreezes_single {s : State} {f : Freezing} (h : s.wafer.freezes = [f]) (ready : s.freezeDone f.sc = true) :
    s.endFreezes = ({ s with wafer := { s.wafer with freezes := [] } } : State).freezeEnd f := by
  simp [State.endFreezes, h, ready]

/-- A slot marked as frozen by itself, or no longer. -/
def Slot.markFrozen (b : Bool) (x : Slot) : Slot := { x with frozen := b }

theorem State.holdScope_cur (s : State) (b : Bool) : s.holdScope b (.slot s.cur) = s.onCur (Slot.markFrozen b) :=
  State.onSlot_cur s (Slot.markFrozen b)

/-- The slot at hand frozen and halted. -/
def State.frozenHere (s : State) : State := State.freezeHere (.slot s.cur) (s.onCur (Slot.markFrozen true))

theorem State.frozenHere_cur (s : State) : s.frozenHere.cur = s.cur := State.freezeHere_cur _ _

theorem State.frozenHere_freezes (s : State) : s.frozenHere.wafer.freezes = s.wafer.freezes := State.freezeHere_freezes _ _

theorem State.frozenHere_slot {s : State} (h : s.slot.mode = .running) :
    s.frozenHere.slot = (s.slot.markFrozen true).haltedBy (.slot s.cur) :=
  State.freezeHere_slot (s := s.onCur (Slot.markFrozen true)) h _

/-- With no other freeze in progress, that of the running slot at hand ends with a report of one slot. -/
theorem State.freeze_running {s : State} (h : s.slot.mode = .running) (noFreeze : s.wafer.freezes = []) :
    s.freeze (.slot s.cur) none =
      ({ s.frozenHere with wafer := { s.frozenHere.wafer with freezes := [] } } : State).report (.freeze 1) := by
  have halts : (s.onCur (Slot.markFrozen true)).freezeSlots (.slot s.cur) [s.cur] = (1, s.frozenHere) :=
    State.freezeSlots_running (s := s.onCur (Slot.markFrozen true)) h _
  have mode : s.frozenHere.slot.mode = .halted := by rw [State.frozenHere_slot h]; rfl
  rw [State.freeze, State.scopeSlots, State.holdScope_cur, halts]
  dsimp only
  rw [State.frozenHere_freezes, noFreeze, List.nil_append,
    State.endFreezes_single rfl (State.frozenHere_cur s ▸ State.freezeDone_halted mode)]
  rfl

/-! ### Its thaw -/

@[simp] theorem State.onWaiting_cur (s : State) (t : Nat) (f : Ctx → Ctx) : (s.onWaiting t f).cur = s.cur :=
  State.setTile_cur' s t _
@[simp] theorem State.onWaiting_slot (s : State) (t : Nat) (f : Ctx → Ctx) : (s.onWaiting t f).slot = s.slot :=
  State.setTile_slot s t _

/-- A slot that its own freeze halted is the one slot that the thaw resumes. -/
theorem State.thawSlots_cur {s : State} (h : s.slot.mode = .halted) (mine : s.slot.byFreeze = some (.slot s.cur)) :
    s.thawSlots (.slot s.cur) = [s.cur] := by
  simp [State.thawSlots, State.scopeSlots, h, mine]

/-- The slot at hand no longer frozen, and the contexts that wait for its tile thawed. -/
def State.thawing (s : State) : State :=
  (s.onCur (Slot.markFrozen false)).onWaiting s.cur.tile fun c => c.thawAway (.slot s.cur)

theorem State.thawing_slot (s : State) : s.thawing.slot = s.slot.markFrozen false := State.onWaiting_slot ..

/-- A thaw of the slot at hand resumes it. -/
theorem State.thaw_cur {s : State} (h : s.slot.mode = .halted) (mine : s.slot.byFreeze = some (.slot s.cur))
    (entered : s.recordHeld s.cur = false) (fw : s.slot.fwait = none) :
    (s.thaw (.slot s.cur) none).2 = s.thawing.resume := by
  have cur : s.thawing.cur = s.cur := State.onWaiting_cur ..
  have same : s.thawing.resume.cur = s.thawing.cur := State.resume_cur (by rw [State.thawing_slot]; exact fw)
  have resumes : s.thawing.at s.cur State.resume = s.thawing.resume := by
    rw [← cur]; exact State.at_cur same
  have one : ([s.cur].filter fun l => (none : Option SlotLoc) != some l && !s.recordHeld l) = [s.cur] := by
    simp [entered]
  rw [State.thaw, State.thawSlots_cur h mine, one, State.holdScope_cur]
  exact resumes

/-! ### Rings with space (spec/06 R112; spec/18 R299) -/

theorem State.die_onDie_self {s : State} (wf : s.memWf = true) (d : Nat) (f : Die → Die) :
    (s.onDie d f).die d = f (s.die d) :=
  Sparse.get_set_self Die.reset ((State.memWf_iff s).1 wf).2.1 d _

section
variable {α : Type} {ring : Nat} {num : α → Nat}

theorem firstHeld_none {l : List α} (h : ∀ x ∈ l, num x ≠ ring) : firstHeld ring num l = none := by
  induction l with
  | nil => rfl
  | cons x xs ih =>
    rw [firstHeld, if_neg (h x (.head _)), ih fun y hy => h y (.tail _ hy)]
    rfl

/-- The oldest record of a ring is taken out from among those of other rings. -/
theorem firstHeld_append {before after : List α} {x : α} (h : ∀ y ∈ before, num y ≠ ring) (hx : num x = ring) :
    firstHeld ring num (before ++ x :: after) = some (x, before ++ after) := by
  induction before with
  | nil => exact if_pos hx
  | cons y ys ih =>
    rw [List.cons_append, firstHeld, if_neg (h y (.head _)), ih fun z hz => h z (.tail _ hz)]
    rfl

end

/-- A ring for which no record is held takes none. -/
theorem Die.takeTrapRecord_none {d : Die} {ring : Nat} (h : ∀ x ∈ d.heldTrap, x.1 ≠ ring) : d.takeTrapRecord ring = d := by
  rw [Die.takeTrapRecord, firstHeld_none h]
  exact ite_self d

theorem Die.takeFaultRecord_none {d : Die} {ring : Nat} (h : ∀ x ∈ d.heldFault, x.1 ≠ ring) :
    d.takeFaultRecord ring = d := by
  rw [Die.takeFaultRecord, firstHeld_none h]
  exact ite_self d

/-- The oldest held record of a ring with space enters it. -/
theorem Die.takeTrapRecord_held {d : Die} {ring : Nat} {before after : List (Nat × TrapSrc × Vector Word 8)}
    {src : TrapSrc} {r : Vector Word 8} (held : d.heldTrap = before ++ (ring, src, r) :: after)
    (first : ∀ x ∈ before, x.1 ≠ ring) (space : (vget d.trap ring []).length < Config.trapRingSize) :
    d.takeTrapRecord ring =
      { d with heldTrap := before ++ after, trap := vset d.trap ring (vget d.trap ring [] ++ [r]) } := by
  rw [Die.takeTrapRecord, if_pos space, held, firstHeld_append first rfl]

/-- A die whose trap ring has given up its oldest record. -/
def Die.dropTrap (d : Die) (ring : Nat) : Die := { d with trap := vset d.trap ring ((vget d.trap ring []).drop 1) }

/-- A die whose fault ring has given up its oldest record. -/
def Die.dropFault (d : Die) (ring : Nat) : Die := { d with fault := vset d.fault ring ((vget d.fault ring []).drop 1) }

theorem Die.dropTrap_trap (d : Die) {ring : Nat} (lt : ring < 8) :
    vget (d.dropTrap ring).trap ring [] = (vget d.trap ring []).drop 1 := vget_vset_self _ lt _ _

theorem Die.dropFault_fault (d : Die) {ring : Nat} (lt : ring < 8) :
    vget (d.dropFault ring).fault ring [] = (vget d.fault ring []).drop 1 := vget_vset_self _ lt _ _

/-! ### The steps -/

section
variable {s : State}

theorem exec_cellarRead_of_read {l : SlotLoc} {r : CellReg} (arg : s.arg = .read l r) : exec .cellarRead s =
    .next (s.command l fun s => s.report (.read (s.cellGet l r).1 (s.cellGet l r).2)) := by
  change execCellarRead s = _
  rw [execCellarRead, arg]

theorem exec_cellarRead_of_counter {c : Counter} (arg : s.arg = .counter c) :
    exec .cellarRead s = .next (s.report (.read (s.wafer.counter c) true)) := by
  change execCellarRead s = _
  rw [execCellarRead, arg]

theorem exec_cellarWrite_of_write {l : SlotLoc} {r : CellReg} {v : Nat} {full : Bool} (arg : s.arg = .write l r v full) :
    exec .cellarWrite s = .next (s.command l fun s => (s.cellPut l r v full).report .done) := by
  change execCellarWrite s = _
  rw [execCellarWrite, arg]

theorem exec_cellarResume_of_slot {l : SlotLoc} (arg : s.arg = .slot l) (entered : s.recordHeld l = false) :
    exec .cellarResume s = .next (s.command l fun s => (s.at l State.resume).report .done) := by
  change execCellarResume s = _
  rw [execCellarResume, arg]
  simp only [entered, Bool.false_eq_true, if_false]

theorem exec_cellarStep_of_slot {l : SlotLoc} (arg : s.arg = .step (.slot l)) (entered : s.recordHeld l = false) :
    exec .cellarStep s = .next (s.command l fun s => s.at l State.stepHere) := by
  change execCellarStep s = _
  rw [execCellarStep, arg]
  simp only [entered, Bool.false_eq_true, if_false]

theorem exec_freeze_of_scope {sc : FreezeScope} (arg : s.arg = .scope sc) :
    exec .freeze s = .next (s.freeze sc none) := by
  change execFreeze s = _
  rw [execFreeze, arg]

theorem exec_thaw_of_scope {sc : FreezeScope} (arg : s.arg = .scope sc) (ready : s.thawReady sc = true) :
    exec .thaw s = .next ((s.thaw sc none).2.report .done) := by
  change execThaw s = _
  rw [execThaw, arg]
  simp only [ready, if_true]

theorem exec_trapRingSpace_of_trap {d ring : Nat} (arg : s.arg = .ring d ring false) :
    exec .trapRingSpace s = .next (s.onDie d fun x => (x.dropTrap ring).takeTrapRecord ring) := by
  change execTrapRingSpace s = _
  rw [execTrapRingSpace, arg]
  rfl

theorem exec_trapRingSpace_of_fault {d ring : Nat} (arg : s.arg = .ring d ring true) :
    exec .trapRingSpace s = .next (s.onDie d fun x => (x.dropFault ring).takeFaultRecord ring) := by
  change execTrapRingSpace s = _
  rw [execTrapRingSpace, arg]
  rfl

/-- A write of the halted slot at hand sets the scalar register, the counter or the PC that it names. -/
theorem exec_cellarWrite_cur {r : CellReg} {v : Nat} {full : Bool} (arg : s.arg = .write s.cur r v full)
    (halted : s.slot.mode = .halted) : ∃ t, exec .cellarWrite s = .next t ∧ reports t .done ∧
      (∀ i, r = .s i → i ≠ 0 → t.slot.s i = BitVec.ofNat 64 v ∧ t.slot.isFull i = full) ∧
      (∀ i, r = .lc i → i < 3 → vget t.slot.lc i 0 = BitVec.ofNat 64 v) ∧
      (r = .pc → t.slot.pc.toNat = v / 4 % 2 ^ 55 * 4) := by
  have mode : (s.getSlot s.cur).mode = .halted := by rwa [State.getSlot_cur]
  refine ⟨_, by rw [exec_cellarWrite_of_write arg, State.command_halted mode], reports_report _ _, ?_, ?_, ?_⟩
  · rintro i rfl ne
    rw [State.report_slot, State.cellPut_s_slot s ne]
    exact ⟨Slot.put_s_self _ ne v full, Slot.put_isFull_self _ ne v full⟩
  · rintro i rfl lt
    rw [State.report_slot, State.cellPut_lc_slot]
    exact vget_vset_self _ lt _ _
  · rintro rfl
    rw [State.report_slot, State.cellPut_pc_slot_pc, toNat_codeAddress]

theorem exec_cellarResume_cur (arg : s.arg = .slot s.cur) (entered : s.recordHeld s.cur = false)
    (halted : s.slot.mode = .halted) (fw : s.slot.fwait = none) :
    exec .cellarResume s = .next (s.resume.report .done) := by
  have mode : (s.getSlot s.cur).mode = .halted := by rwa [State.getSlot_cur]
  rw [exec_cellarResume_of_slot arg entered, State.command_halted mode, State.at_cur (State.resume_cur fw)]

theorem exec_cellarStep_cur (arg : s.arg = .step (.slot s.cur)) (entered : s.recordHeld s.cur = false)
    (halted : s.slot.mode = .halted) (fw : s.slot.fwait = none) : exec .cellarStep s = .next s.stepHere := by
  have mode : (s.getSlot s.cur).mode = .halted := by rwa [State.getSlot_cur]
  rw [exec_cellarStep_of_slot arg entered, State.command_halted mode, State.at_cur (State.stepHere_cur fw)]

theorem exec_thaw_cur (arg : s.arg = .scope (.slot s.cur)) (halted : s.slot.mode = .halted)
    (mine : s.slot.byFreeze = some (.slot s.cur)) (entered : s.recordHeld s.cur = false) (fw : s.slot.fwait = none) :
    exec .thaw s = .next (s.thawing.resume.report .done) := by
  have ready : s.thawReady (.slot s.cur) = true := by
    simp [State.thawReady, State.thawSlots_cur halted mine, entered]
  rw [exec_thaw_of_scope arg ready, State.thaw_cur halted mine entered fw]

/-- A trap ring gives up its oldest record, and the oldest held one of that ring enters it. -/
theorem exec_trapRingSpace_held (wf : s.memWf = true) {d ring : Nat} (lt : ring < 8) (arg : s.arg = .ring d ring false)
    {before after : List (Nat × TrapSrc × Vector Word 8)} {src : TrapSrc} {r : Vector Word 8}
    (held : (s.die d).heldTrap = before ++ (ring, src, r) :: after) (first : ∀ h ∈ before, h.1 ≠ ring)
    (space : ((vget (s.die d).trap ring []).drop 1).length < 512) :
    ∃ t, exec .trapRingSpace s = .next t ∧
      vget (t.die d).trap ring [] = (vget (s.die d).trap ring []).drop 1 ++ [r] ∧
      (t.die d).heldTrap = before ++ after := by
  have dropped := Die.dropTrap_trap (s.die d) lt
  have enters := Die.takeTrapRecord_held (d := (s.die d).dropTrap ring) held first (dropped ▸ space)
  refine ⟨_, exec_trapRingSpace_of_trap arg, ?_, ?_⟩
  · rw [State.die_onDie_self wf, enters, dropped]
    exact vget_vset_self _ lt _ _
  · rw [State.die_onDie_self wf, enters]

theorem exec_trapRingSpace_trap_none (wf : s.memWf = true) {d ring : Nat} (lt : ring < 8) (arg : s.arg = .ring d ring false)
    (noneHeld : ∀ h ∈ (s.die d).heldTrap, h.1 ≠ ring) : ∃ t, exec .trapRingSpace s = .next t ∧
      vget (t.die d).trap ring [] = (vget (s.die d).trap ring []).drop 1 := by
  refine ⟨_, exec_trapRingSpace_of_trap arg, ?_⟩
  rw [State.die_onDie_self wf, Die.takeTrapRecord_none (d := (s.die d).dropTrap ring) noneHeld, Die.dropTrap_trap _ lt]

theorem exec_trapRingSpace_fault_none (wf : s.memWf = true) {d ring : Nat} (lt : ring < 8) (arg : s.arg = .ring d ring true)
    (noneHeld : ∀ h ∈ (s.die d).heldFault, h.1 ≠ ring) : ∃ t, exec .trapRingSpace s = .next t ∧
      vget (t.die d).fault ring [] = (vget (s.die d).fault ring []).drop 1 := by
  refine ⟨_, exec_trapRingSpace_of_fault arg, ?_⟩
  rw [State.die_onDie_self wf, Die.takeFaultRecord_none (d := (s.die d).dropFault ring) noneHeld, Die.dropFault_fault _ lt]

end

/-- Settles O47: each step is the rule of its operation for the slot or the ring that it names. -/
theorem cellarEvents : Obligations.CellarEvents := by
  unfold Obligations.CellarEvents
  intro s wf
  refine ⟨?read, fun c arg => exec_cellarRead_of_counter arg, ?writeRefused, fun r v full => exec_cellarWrite_cur,
    ?resumeRefused, ?resume, ?step, ?freeze, ?ring⟩
  case read =>
    intro l r arg
    rw [exec_cellarRead_of_read arg]
    exact ⟨fun halted => by rw [State.command_halted halted], fun running => by rw [State.command_notHalted running]⟩
  case writeRefused =>
    intro l r v full arg running
    rw [exec_cellarWrite_of_write arg, State.command_notHalted running]
  case resumeRefused =>
    intro l arg entered running
    rw [exec_cellarResume_of_slot arg entered, State.command_notHalted running]
  case resume =>
    intro arg entered halted fw
    have slot : (s.resume.report .done).slot = s.slot.resumed := State.resume_slot fw
    refine ⟨_, exec_cellarResume_cur arg entered halted fw, ?_⟩
    rw [slot]
    exact ⟨rfl, rfl, rfl, State.recState_resume wf fw, reports_report _ _⟩
  case step =>
    intro arg entered fw
    refine ⟨fun halted => ⟨_, exec_cellarStep_cur arg entered halted fw, ?_⟩, fun running => ?_⟩
    · rw [State.stepHere_slot fw]
      exact ⟨rfl, rfl, rfl⟩
    · rw [exec_cellarStep_of_slot arg entered, State.command_notHalted (by rwa [State.getSlot_cur])]
  case freeze =>
    intro arg noFreeze
    refine ⟨fun running => ⟨_, exec_freeze_of_scope arg, ?_⟩, fun halted mine entered fw =>
      ⟨_, exec_thaw_cur arg halted mine entered fw, ?_⟩⟩
    · have slot : (s.freeze (.slot s.cur) none).slot = (s.slot.markFrozen true).haltedBy (.slot s.cur) := by
        rw [State.freeze_running running noFreeze, State.report_slot, State.frozenHere_slot running]
      rw [slot, State.freeze_running running noFreeze]
      exact ⟨rfl, rfl, rfl, rfl, rfl, rfl, reports_report _ _⟩
    · have slot : (s.thawing.resume.report .done).slot = (s.slot.markFrozen false).resumed := by
        rw [State.report_slot, State.resume_slot (by rw [State.thawing_slot]; exact fw), State.thawing_slot]
      rw [slot]
      exact ⟨rfl, rfl, rfl, reports_report _ _⟩
  case ring =>
    intro d ring lt
    exact ⟨fun arg => ⟨exec_trapRingSpace_trap_none wf lt arg, fun _ _ _ _ => exec_trapRingSpace_held wf lt arg⟩,
      exec_trapRingSpace_fault_none wf lt⟩

end Sys2Proof.Machine
end
